-- ==== Sys2Proof/Word.lean ====
section
/-! DEFINITION. The word types, the sparse table type and the small closed sets of names that operands of an
instruction use (03_encoding R60, R64, R65, R74, R76; 00_scope R2 for the bases of numbers). -/
namespace Sys2Proof

/-- A byte of memory. -/
abbrev Byte := BitVec 8

/-- A general register, R88. -/
abbrev Word := BitVec 64

/-- A vector register, R88. -/
abbrev VWord := BitVec 512

/-- A sparse table: pairs of key and value, keys strictly rising, no entry equal to the table's default. -/
abbrev Tab (α : Type) := List (Nat × α)

/-- Subcodes of exception 0x01, R76. -/
inductive IllSub where
  | major | func | field | order | priv | extend
  deriving DecidableEq, Repr

/-- The functions of major 0x01 that read b, R64 and R74 (XR). -/
inductive AluOp where
  | add | sub | mul | mulh | mulhu | div | divu | rem | remu
  | and | or | xor | andn | orn
  | shl | shr | sra | ror
  | min | max | minu | maxu | slt | sltu | seq | sne | sel
  | addw | subw | mulw | lea | clamp | idx2
  deriving DecidableEq, Repr

/-- The base majors of XI other than MOVK, R74. -/
inductive ImmOp where
  | addi | andi | ori | xori | slti | sltiu | li | lui
  deriving DecidableEq, Repr

/-- The base majors of XM, R74. -/
inductive MemOp where
  | ld | st | ldrc | pref | discard | upd | uflush | ldv | stv
  deriving DecidableEq, Repr

/-- What MEMORY_REQUEST_COMPLETE completes: an outstanding request of a bank (its place in the bank's list), the
next move of an engine command, or the accepted store side of a remote operation, R211, R226. -/
inductive ReqSel where
  | bank (r n : Nat)
  | engine (cmd : Nat)
  deriving DecidableEq, Repr

/-- Who waits: a continuation, or a service core that has stopped at its instruction (06_ins_control R150). -/
inductive Who where
  | cont (c : Nat)
  | svc (n : Nat)
  deriving DecidableEq, Repr

end Sys2Proof
end

