-- ==== Sys2Proof/Config.lean ====
section
/-! DEFINITION. What an implementation fixes and the values the spec leaves open. An opaque constant has no body: no
proof can see its value, so a statement about it holds for every value (assumptions 3, 6, 16, 17, 18). -/
namespace Sys2Proof.Config

/-- The n-th free value of a register, field or record that the spec calls undefined (00_scope R2). -/
opaque freeWord : Nat → BitVec 64

/-- The n-th free value of a vector register (04_registers R96). -/
opaque freeVec : Nat → BitVec 512

/-- The n-th free value of a mask register (04_registers R96). -/
opaque freeMask : Nat → BitVec 16

/-- The n-th free byte of a record that the spec calls undefined (06_ins_control R144). -/
opaque freeByte : Nat → BitVec 8

/-- A byte of host memory, by the count of fills and the local address (07_memories R168, 18_outside R437). -/
opaque hostByte : Nat → Nat → BitVec 8

/-- The cluster whose scratch banks a service core reaches (07_memories R171, 01_machine R12). -/
opaque svcCluster : Nat → Nat

/-- The value that a KEYED unit stores for an operator of the other kind of type than its ETYPE, by operator, ETYPE and operands: the spec
accepts the word and states no result (13_fabric R346; assumption 66). -/
opaque keyedValue : Nat → Nat → Nat → Nat → BitVec 32

/-- Bodies of SPDM responses, by request code, the request and the count of responses (18_outside R444). -/
opaque spdmBody : Nat → List (BitVec 8) → Nat → List (BitVec 8)

/-- Port that a flit to a package takes, by package and count of flits (18_outside R439). -/
opaque portChoice : Nat → Nat → Nat

/-- What R438 leaves open of the slots that a message takes, by the count of messages sent (18_outside R438; assumption 41). -/
opaque flitSlots : Nat → Nat

/-- The reserved and unit-specific bytes of a graph save image section (17_work R430). -/
opaque saveByte : Nat → BitVec 8

end Sys2Proof.Config
end

