-- ==== Sys2Proof/Message.lean ====
section
/-! DEFINITION. Messages that packages exchange over fabric ports (11_remote R256 to R268, R274, 12_queues R310, R311,
18_outside R438). -/
namespace Sys2Proof

/-- What a remote request asks of its owner, by local address there (11_remote R256); a write carries the KEY of the leaf
that translated it (16_tables R400) and the KIND of its instruction (R269, R271). -/
inductive RemBody where
  | read (a n : Nat)
  | apply (a : Nat)
  | write (a n v key kind : Nat)
  | cas (a w e v key : Nat)
  | swap (a w v key : Nat)
  | fadd (a w v key : Nat)
  | batch (pairs : List (Nat × Nat))
  | bari (a expected tmo : Nat) (keep : Bool) (key : Nat)
  | bara (a n key : Nat)
  | rqry (serial : Nat)
  deriving DecidableEq, Repr

/-- What an owner answers (11_remote R259, R268, R274); a read says which of its bytes are poisoned (07_memories R181). -/
inductive RemReply where
  | value (v : Nat) (poison : Option Nat) (bad : Nat := 0)
  | stale
  | dupAcked
  | notexec
  | busy
  | rqry (code v : Nat) (poison : Option Nat)
  deriving DecidableEq, Repr

/-- The content of a message. -/
inductive MsgBody where
  | request (b : RemBody)
  | ack
  | reply (r : RemReply)
  | chainBeat (seq : Nat) (data : BitVec 512) (tags : BitVec 32) (pack : BitVec 64)
  | chainAck (seq credits : Nat)
  | chainReplay (seq n : Nat)
  | chainAlive
  | chainFault
  deriving DecidableEq, Repr

/-- Kind code of the flit that carries a message (18_outside R438). -/
def MsgBody.kind : MsgBody → Nat
  | .request _ => 1
  | .reply _ => 2
  | .chainBeat .. => 3
  | .chainAck .. | .chainReplay .. | .chainAlive => 4
  | .ack => 5
  | .chainFault => 6

/-- A message: its packages, its age in nanoseconds, the owner incarnation it carries, the requester (RCID with SVC),
the operation it belongs to, its serial if it is serial-class, and the acknowledged-through value (R257, R261). -/
structure Msg where
  src : Nat := 0
  dst : Nat := 0
  age : Nat := 0
  oinc : Nat := 0
  rcid : Nat := 0
  svc : Bool := false
  op : Nat := 0
  serial : Option Nat := none
  ackt : Nat := 0
  chain : Nat := 0
  tc : Nat := 0
  body : MsgBody
  deriving DecidableEq, Repr

/-- The ROUTE word of the flit that carries a message (18_outside R438). -/
def Msg.route (m : Msg) : Nat := m.dst % 4096 + m.src % 4096 * 2 ^ 12 + m.tc % 4 * 2 ^ 24 + m.body.kind * 2 ^ 26

/-- A message of a chain, which keeps to one port (18_outside R439). -/
def Msg.chained (m : Msg) : Bool := m.body.kind == 3 || m.body.kind == 4 || m.body.kind == 6

/-- Slots that a message takes in flits, by what the rule leaves open (18_outside R438; assumption 41): one for a request that carries at
most 8 bytes, four or five for 64 bytes or a beat, and any number from one on where it names none. -/
def Msg.slots (m : Msg) (free : Nat) : Nat :=
  match m.body with
  | .request (.read ..) | .request (.apply _) | .request (.rqry _) => 1
  | .request (.write _ n ..) => if n ≤ 8 then 1 else 4 + free % 2
  | .reply (.value v ..) => if v < 2 ^ 64 ∧ free % 2 = 0 then 1 else 4 + free / 2 % 2
  | .chainBeat .. => 4 + free % 2
  | _ => 1 + free

end Sys2Proof
end

