-- ==== Sys2Proof/Syntax.lean ====
section
/-! DEFINITION. The instructions of the AE90: one constructor per row of opcode_table.json. The first 187 are
fetched from memory (03_encoding R60 to R74); the rest are events, steps that agents other than an issuing bank take
(95_what_each_step_holds), whose operands say which object takes the step. Operand names are the letters of the
opcode table; a control-register index or trap code i is the 8-bit index of R68. -/
namespace Sys2Proof

/-- One instruction or event. -/
inductive Instr where
  | add (d : BitVec 5) (a : BitVec 5) (b : BitVec 5)
  | sub (d : BitVec 5) (a : BitVec 5) (b : BitVec 5)
  | mul (d : BitVec 5) (a : BitVec 5) (b : BitVec 5)
  | mulh (d : BitVec 5) (a : BitVec 5) (b : BitVec 5)
  | mulhu (d : BitVec 5) (a : BitVec 5) (b : BitVec 5)
  | div (d : BitVec 5) (a : BitVec 5) (b : BitVec 5)
  | divu (d : BitVec 5) (a : BitVec 5) (b : BitVec 5)
  | rem (d : BitVec 5) (a : BitVec 5) (b : BitVec 5)
  | remu (d : BitVec 5) (a : BitVec 5) (b : BitVec 5)
  | and (d : BitVec 5) (a : BitVec 5) (b : BitVec 5)
  | or (d : BitVec 5) (a : BitVec 5) (b : BitVec 5)
  | xor (d : BitVec 5) (a : BitVec 5) (b : BitVec 5)
  | andn (d : BitVec 5) (a : BitVec 5) (b : BitVec 5)
  | orn (d : BitVec 5) (a : BitVec 5) (b : BitVec 5)
  | shl (d : BitVec 5) (a : BitVec 5) (b : BitVec 5)
  | shr (d : BitVec 5) (a : BitVec 5) (b : BitVec 5)
  | sra (d : BitVec 5) (a : BitVec 5) (b : BitVec 5)
  | ror (d : BitVec 5) (a : BitVec 5) (b : BitVec 5)
  | min (d : BitVec 5) (a : BitVec 5) (b : BitVec 5)
  | max (d : BitVec 5) (a : BitVec 5) (b : BitVec 5)
  | minu (d : BitVec 5) (a : BitVec 5) (b : BitVec 5)
  | maxu (d : BitVec 5) (a : BitVec 5) (b : BitVec 5)
  | slt (d : BitVec 5) (a : BitVec 5) (b : BitVec 5)
  | sltu (d : BitVec 5) (a : BitVec 5) (b : BitVec 5)
  | seq (d : BitVec 5) (a : BitVec 5) (b : BitVec 5)
  | sne (d : BitVec 5) (a : BitVec 5) (b : BitVec 5)
  | sel (d : BitVec 5) (a : BitVec 5) (b : BitVec 5)
  | clz (d : BitVec 5) (a : BitVec 5) (w : BitVec 3)
  | ctz (d : BitVec 5) (a : BitVec 5) (w : BitVec 3)
  | popc (d : BitVec 5) (a : BitVec 5) (w : BitVec 3)
  | brev (d : BitVec 5) (a : BitVec 5) (w : BitVec 3)
  | bswap (d : BitVec 5) (a : BitVec 5) (w : BitVec 3)
  | addw (d : BitVec 5) (a : BitVec 5) (b : BitVec 5)
  | subw (d : BitVec 5) (a : BitVec 5) (b : BitVec 5)
  | mulw (d : BitVec 5) (a : BitVec 5) (b : BitVec 5)
  | lea (d : BitVec 5) (a : BitVec 5) (b : BitVec 5) (h : BitVec 3)
  | clamp (d : BitVec 5) (a : BitVec 5) (b : BitVec 5)
  | idx2 (d : BitVec 5) (a : BitVec 5) (b : BitVec 5)
  | addi (d : BitVec 5) (a : BitVec 5) (i : BitVec 16)
  | andi (d : BitVec 5) (a : BitVec 5) (i : BitVec 16)
  | ori (d : BitVec 5) (a : BitVec 5) (i : BitVec 16)
  | xori (d : BitVec 5) (a : BitVec 5) (i : BitVec 16)
  | slti (d : BitVec 5) (a : BitVec 5) (i : BitVec 16)
  | sltiu (d : BitVec 5) (a : BitVec 5) (i : BitVec 16)
  | shli (d : BitVec 5) (a : BitVec 5) (n : BitVec 8)
  | shri (d : BitVec 5) (a : BitVec 5) (n : BitVec 8)
  | srai (d : BitVec 5) (a : BitVec 5) (n : BitVec 8)
  | li (d : BitVec 5) (i : BitVec 16)
  | lui (d : BitVec 5) (i : BitVec 16)
  | movk (d : BitVec 5) (h : BitVec 2) (i : BitVec 16)
  | movkW (d : BitVec 5) (h : BitVec 1) (lit : BitVec 32)
  | ext (d : BitVec 5) (a : BitVec 5) (l : BitVec 6) (p : BitVec 6)
  | extS (d : BitVec 5) (a : BitVec 5) (l : BitVec 6) (p : BitVec 6)
  | ins (d : BitVec 5) (a : BitVec 5) (l : BitVec 6) (p : BitVec 6)
  | vadd (d : BitVec 4) (a : BitVec 4) (b : BitVec 4) (k : BitVec 3) (e : BitVec 3)
  | vsub (d : BitVec 4) (a : BitVec 4) (b : BitVec 4) (k : BitVec 3) (e : BitVec 3)
  | vmul (d : BitVec 4) (a : BitVec 4) (b : BitVec 4) (k : BitVec 3) (e : BitVec 3)
  | vmulh (d : BitVec 4) (a : BitVec 4) (b : BitVec 4) (k : BitVec 3) (e : BitVec 3)
  | vmin (d : BitVec 4) (a : BitVec 4) (b : BitVec 4) (k : BitVec 3) (e : BitVec 3)
  | vmax (d : BitVec 4) (a : BitVec 4) (b : BitVec 4) (k : BitVec 3) (e : BitVec 3)
  | vand (d : BitVec 4) (a : BitVec 4) (b : BitVec 4) (k : BitVec 3) (e : BitVec 3)
  | vor (d : BitVec 4) (a : BitVec 4) (b : BitVec 4) (k : BitVec 3) (e : BitVec 3)
  | vxor (d : BitVec 4) (a : BitVec 4) (b : BitVec 4) (k : BitVec 3) (e : BitVec 3)
  | vshl (d : BitVec 4) (a : BitVec 4) (b : BitVec 4) (k : BitVec 3) (e : BitVec 3)
  | vshr (d : BitVec 4) (a : BitVec 4) (b : BitVec 4) (k : BitVec 3) (e : BitVec 3)
  | vsra (d : BitVec 4) (a : BitVec 4) (b : BitVec 4) (k : BitVec 3) (e : BitVec 3)
  | vcmpEq (d : BitVec 3) (a : BitVec 4) (b : BitVec 4) (k : BitVec 3) (e : BitVec 3)
  | vcmpNe (d : BitVec 3) (a : BitVec 4) (b : BitVec 4) (k : BitVec 3) (e : BitVec 3)
  | vcmpLt (d : BitVec 3) (a : BitVec 4) (b : BitVec 4) (k : BitVec 3) (e : BitVec 3)
  | vcmpLe (d : BitVec 3) (a : BitVec 4) (b : BitVec 4) (k : BitVec 3) (e : BitVec 3)
  | vcmpLtu (d : BitVec 3) (a : BitVec 4) (b : BitVec 4) (k : BitVec 3) (e : BitVec 1)
  | vcmpLeu (d : BitVec 3) (a : BitVec 4) (b : BitVec 4) (k : BitVec 3) (e : BitVec 1)
  | vsel (d : BitVec 4) (a : BitVec 4) (b : BitVec 4) (k : BitVec 3) (e : BitVec 3)
  | vmovv (d : BitVec 4) (a : BitVec 4) (k : BitVec 3) (e : BitVec 3)
  | viota (d : BitVec 4) (k : BitVec 3) (e : BitVec 1)
  | vperm (d : BitVec 4) (a : BitVec 4) (b : BitVec 4) (e : BitVec 3)
  | vcompress (d : BitVec 4) (a : BitVec 4) (k : BitVec 3) (e : BitVec 3)
  | vredAdd (d : BitVec 4) (a : BitVec 4) (k : BitVec 3) (e : BitVec 1)
  | vredMin (d : BitVec 4) (a : BitVec 4) (k : BitVec 3) (e : BitVec 1)
  | vredMax (d : BitVec 4) (a : BitVec 4) (k : BitVec 3) (e : BitVec 1)
  | vredMinu (d : BitVec 4) (a : BitVec 4) (k : BitVec 3) (e : BitVec 1)
  | vredMaxu (d : BitVec 4) (a : BitVec 4) (k : BitVec 3) (e : BitVec 1)
  | vredAnd (d : BitVec 4) (a : BitVec 4) (k : BitVec 3) (e : BitVec 1)
  | vredOr (d : BitVec 4) (a : BitVec 4) (k : BitVec 3) (e : BitVec 1)
  | vredXor (d : BitVec 4) (a : BitVec 4) (k : BitVec 3) (e : BitVec 1)
  | vredFadd (d : BitVec 4) (a : BitVec 4) (k : BitVec 3)
  | vredFmin (d : BitVec 4) (a : BitVec 4) (k : BitVec 3)
  | vredFmax (d : BitVec 4) (a : BitVec 4) (k : BitVec 3)
  | vscanAdd (d : BitVec 4) (a : BitVec 4) (k : BitVec 3) (e : BitVec 1)
  | vscanMin (d : BitVec 4) (a : BitVec 4) (k : BitVec 3) (e : BitVec 1)
  | vscanMax (d : BitVec 4) (a : BitVec 4) (k : BitVec 3) (e : BitVec 1)
  | vscanMinu (d : BitVec 4) (a : BitVec 4) (k : BitVec 3) (e : BitVec 1)
  | vscanMaxu (d : BitVec 4) (a : BitVec 4) (k : BitVec 3) (e : BitVec 1)
  | vscanAnd (d : BitVec 4) (a : BitVec 4) (k : BitVec 3) (e : BitVec 1)
  | vscanOr (d : BitVec 4) (a : BitVec 4) (k : BitVec 3) (e : BitVec 1)
  | vscanXor (d : BitVec 4) (a : BitVec 4) (k : BitVec 3) (e : BitVec 1)
  | vscanFadd (d : BitVec 4) (a : BitVec 4) (k : BitVec 3)
  | vscanFmin (d : BitVec 4) (a : BitVec 4) (k : BitVec 3)
  | vscanFmax (d : BitVec 4) (a : BitVec 4) (k : BitVec 3)
  | vfadd (d : BitVec 4) (a : BitVec 4) (b : BitVec 4) (k : BitVec 3) (e : BitVec 3)
  | vfmul (d : BitVec 4) (a : BitVec 4) (b : BitVec 4) (k : BitVec 3) (e : BitVec 3)
  | vfma (d : BitVec 4) (a : BitVec 4) (b : BitVec 4) (k : BitVec 3) (e : BitVec 3)
  | vfmin (d : BitVec 4) (a : BitVec 4) (b : BitVec 4) (k : BitVec 3) (e : BitVec 3)
  | vfmax (d : BitVec 4) (a : BitVec 4) (b : BitVec 4) (k : BitVec 3) (e : BitVec 3)
  | vcvt (d : BitVec 4) (a : BitVec 4) (s : BitVec 4) (k : BitVec 3) (r : BitVec 3) (t : BitVec 4)
  | kand (d : BitVec 3) (a : BitVec 3) (b : BitVec 3)
  | kor (d : BitVec 3) (a : BitVec 3) (b : BitVec 3)
  | knot (d : BitVec 3) (a : BitVec 3)
  | kmov (d : BitVec 3) (a : BitVec 3)
  | vbcast (d : BitVec 4) (a : BitVec 5) (w : BitVec 1)
  | vmovg (d : BitVec 5) (a : BitVec 4) (l : BitVec 4) (w : BitVec 1)
  | kmovKg (d : BitVec 3) (a : BitVec 5)
  | kmovGk (d : BitVec 5) (a : BitVec 3)
  | beq (a : BitVec 5) (b : BitVec 5) (o : BitVec 16)
  | bne (a : BitVec 5) (b : BitVec 5) (o : BitVec 16)
  | blt (a : BitVec 5) (b : BitVec 5) (o : BitVec 16)
  | bge (a : BitVec 5) (b : BitVec 5) (o : BitVec 16)
  | bltu (a : BitVec 5) (b : BitVec 5) (o : BitVec 16)
  | bgeu (a : BitVec 5) (b : BitVec 5) (o : BitVec 16)
  | bqb (a : BitVec 5) (o : BitVec 16)
  | j (o : BitVec 26)
  | jal (o : BitVec 26)
  | nop
  | jr (a : BitVec 5)
  | jalr (d : BitVec 5) (a : BitVec 5)
  | susp
  | spawn (a : BitVec 5) (u : BitVec 1)
  | exit
  | wakeat (a : BitVec 5)
  | trap (i : BitVec 8)
  | sysc (i : BitVec 8)
  | eret
  | csrr (d : BitVec 5) (i : BitVec 8)
  | csrw (a : BitVec 5) (i : BitVec 8)
  | csrx (d : BitVec 5) (a : BitVec 5) (i : BitVec 8)
  | ld (t : BitVec 5) (b : BitVec 5) (s : BitVec 2) (x : BitVec 1) (o : BitVec 1) (c : BitVec 2) (f : BitVec 9)
  | st (t : BitVec 5) (b : BitVec 5) (s : BitVec 2) (o : BitVec 1) (c : BitVec 2) (f : BitVec 9)
  | ldrc (t : BitVec 5) (b : BitVec 5) (s : BitVec 2) (x : BitVec 1) (n : BitVec 4) (f : BitVec 9)
  | pref (l : BitVec 1) (b : BitVec 5) (f : BitVec 9)
  | discard (b : BitVec 5) (f : BitVec 9)
  | fence (o : BitVec 2) (c : BitVec 2)
  | cas (t : BitVec 5) (b : BitVec 5) (z : BitVec 1) (o : BitVec 2) (c : BitVec 2) (s : BitVec 5)
  | swap (t : BitVec 5) (b : BitVec 5) (z : BitVec 1) (o : BitVec 2) (c : BitVec 2) (s : BitVec 5)
  | fadd (t : BitVec 5) (b : BitVec 5) (z : BitVec 1) (o : BitVec 2) (c : BitVec 2) (s : BitVec 5)
  | upd (t : BitVec 5) (b : BitVec 5) (z : BitVec 1) (f : BitVec 9)
  | uflush (b : BitVec 5) (f : BitVec 9)
  | ldv (t : BitVec 4) (b : BitVec 5) (o : BitVec 1) (c : BitVec 2) (f : BitVec 9)
  | stv (t : BitVec 4) (b : BitVec 5) (o : BitVec 1) (c : BitVec 2) (f : BitVec 9)
  | ldgv (d : BitVec 4) (a : BitVec 4) (k : BitVec 3) (e : BitVec 1) (h : BitVec 3) (b : BitVec 5)
  | stsv (d : BitVec 4) (a : BitVec 4) (k : BitVec 3) (e : BitVec 1) (h : BitVec 3) (b : BitVec 5)
  | vupd (d : BitVec 4) (a : BitVec 4) (k : BitVec 3) (e : BitVec 3) (h : BitVec 3) (b : BitVec 5)
  | cpy (d : BitVec 5) (s : BitVec 5) (b : BitVec 5) (c : BitVec 5)
  | mcast (d : BitVec 5) (s : BitVec 5) (b : BitVec 5) (c : BitVec 5)
  | strm (d : BitVec 5) (s : BitVec 5) (b : BitVec 5) (c : BitVec 5)
  | gath (d : BitVec 5) (s : BitVec 5) (b : BitVec 5) (c : BitVec 5)
  | waitp (d : BitVec 5)
  | rqry (d : BitVec 5) (a : BitVec 5)
  | vpush (r : BitVec 4) (q : BitVec 6) (k : BitVec 3) (s : BitVec 1) (p : BitVec 4)
  | spush (r : BitVec 5) (q : BitVec 6) (w : BitVec 1) (p : BitVec 4)
  | mpush (r : BitVec 5) (q : BitVec 6) (c : BitVec 8)
  | qflush (q : BitVec 6)
  | vpop (r : BitVec 4) (q : BitVec 6) (k : BitVec 3) (m : BitVec 3) (d : BitVec 3)
  | spop (r : BitVec 5) (q : BitVec 6)
  | qstat (r : BitVec 5) (q : BitVec 6) (x : BitVec 1) (s : BitVec 7)
  | qwait (r : BitVec 5) (q : BitVec 6) (m : BitVec 2)
  | semw (a : BitVec 5) (b : BitVec 5)
  | sems (a : BitVec 5) (b : BitVec 5)
  | semr (d : BitVec 5) (a : BitVec 5)
  | bari (a : BitVec 5) (b : BitVec 5) (k : BitVec 1)
  | bara (a : BitVec 5) (b : BitVec 5)
  | barw (a : BitVec 5)
  | rdtime (d : BitVec 5)
  | rdperf (d : BitVec 5) (a : BitVec 5)
  | tinvAll
  | tinvCtx (a : BitVec 5)
  | tinvPage (a : BitVec 5) (b : BitVec 5)
  | extw (a : BitVec 5) (b : BitVec 5)
  | urtw (a : BitVec 5) (b : BitVec 5)
  | keyopCreate (d : BitVec 5) (a : BitVec 5)
  | keyopRotate (d : BitVec 5) (a : BitVec 5)
  | keyopDestroy (d : BitVec 5) (a : BitVec 5)
  | keyopQuery (d : BitVec 5) (a : BitVec 5)
  | launch (a : BitVec 5)
  | xr (f : AluOp) (d a : BitVec 5) (m : BitVec 3) (lit : BitVec 32)
  | xi (f : ImmOp) (d a : BitVec 5) (lit : BitVec 32)
  | xm (f : MemOp) (t b : BitVec 5) (s : BitVec 2) (x : BitVec 1) (o c : BitVec 2) (lit : BitVec 32)
  | xq (q : BitVec 6) (lit : BitVec 32)
  | illegalInstruction (r : Nat)
  | fetchFault (r : Nat)
  | pendingExceptionEntry (r : Nat)
  | qparkThreshold (r : Nat)
  | rparkThreshold (r : Nat)
  | parkDrainComplete (r : Nat)
  | bankReturn (r : Nat)
  | memoryRequestComplete (q : ReqSel)
  | suspensionWriteback (r : Nat)
  | wakeTimeReached (c : Nat)
  | continuationDispatch (r : Nat)
  | bankControlWrite (c b : Nat) (v : BitVec 64)
  | bankModeChangeDone (c b : Nat)
  | updatePairAccept (n : Nat)
  | regionStatusClear (i : Nat) (v : BitVec 64)
  | batchTimerClose (r n : Nat)
  | streamBeatPush (c : Nat)
  | engineComplete (c : Nat)
  | engineFault (c : Nat)
  | promiseMissed (r : Nat)
  | barwTimeout (w : Who)
  | semaphoreSignalWrite (n : Nat) (v : BitVec 64)
  | semaphoreValueWrite (n : Nat) (v : BitVec 64)
  | ownerSerialRequest (m : Nat)
  | ownerAckMessage (m : Nat)
  | ownerRqry (m : Nat)
  | ownerReadRequest (m : Nat)
  | remoteReply (m : Nat)
  | busyResend (o : Nat)
  | retransmitTimer (o : Nat)
  | retransmitExhausted (o : Nat)
  | ackMessageSend (r : Nat)
  | floorExpire (n : Nat)
  | queueStallEnd (r : Nat)
  | chainBeatReceive (m : Nat)
  | chainAckReceive (m : Nat)
  | chainRetransmit (q : Nat)
  | chainRetransmitExhausted (q : Nat)
  | chainKeepalive (q : Nat)
  | chainConsumerTimeout (q : Nat)
  | chainFaultNotice (m : Nat)
  | stageFire (p u n : Nat)
  | scratchUnitCycle (p u : Nat)
  | ochreTokenStep (d : Nat)
  | matrixFireStart (p : Nat)
  | matrixFireEnd (p : Nat)
  | matrixMarkerStep (p : Nat)
  | matrixDrainRow (p b : Nat)
  | matrixUncorrectableError (p : Nat)
  | patrolStep
  | formatRangeWrite (n : Nat) (v : BitVec 64)
  | formatRangeHeldWrite (n i : Nat) (v : BitVec 64)
  | launchTake (leaf : Nat)
  | launchWaitMet (lid : Nat)
  | stagingComplete (lid : Nat)
  | groupPlace (lid g c p : Nat)
  | groupConfigAck (lid g : Nat)
  | groupDone (lid g : Nat)
  | launchComplete (lid : Nat)
  | pageWaitPriority (lid : Nat)
  | groupIdlePark (lid g : Nat)
  | groupSaveComplete (lid g : Nat)
  | groupUnpark (lid g c p : Nat)
  | preemptDeadline (r : Nat)
  | sync (n : Nat)
  | preempt (n : Nat)
  | resume (n : Nat)
  | evict (n : Nat)
  | restore (n : Nat)
  | restoreany (n : Nat)
  | endcont (n : Nat)
  | endgroup (n : Nat)
  | answer (n : Nat)
  | scmdRefused (n : Nat) (v : BitVec 64)
  | hostCxlMemRead (a : BitVec 64)
  | hostCxlMemWrite (a : BitVec 64) (v : BitVec 512) (be : BitVec 64)
  | hostSnoop (a : BitVec 64) (own : Bool)
  | hostBar0Access (wr : Bool) (a : BitVec 64) (n : Nat) (v : BitVec 64)
  | hostPortUp (p w : Nat)
  | hostPortDown (p : Nat)
  | fabricFlitReceive (p : Nat) (ok : Bool) (ms : List Msg)
  | fabricPortUp (p lanes : Nat)
  | fabricPortDown (p : Nat)
  | routingTableWrite (p : Nat) (v : BitVec 64)
  | packageReset (ok : Bool)
  | pkgidWrite (v : BitVec 64)
  | plimitWrite (v : BitVec 64)
  | scrubctlWrite (v : BitVec 64)
  | sbootWrite (n : Nat) (v : BitVec 64)
  | strapWrite (n : Nat) (v : BitVec 64)
  | throttleChange (on : Bool) (now : Nat)
  | spdmGetVersion (req : List Byte)
  | spdmGetCapabilities (req : List Byte)
  | spdmNegotiateAlgorithms (req : List Byte)
  | spdmGetDigests (req : List Byte)
  | spdmGetCertificate (req : List Byte)
  | spdmChallenge (req : List Byte)
  | spdmGetMeasurements (req : List Byte)
  | deviceRegisterWrite (a : BitVec 64) (v : BitVec 64)
  | stagingFault (lid : Nat)
  deriving DecidableEq, Repr

end Sys2Proof
end

