-- ==== Sys2Proof/Machine/State.lean ====
section
/-! DEFINITION. The state of one AE90 package as plain data, every field at its reset value by default, and the state
right after reset. Tables are sparse: a key that no entry names holds the table's default. INVENTORY.md gives for
each field the rule of spec/ that names it and its reset value. -/
namespace Sys2Proof.Machine

/-! ### Registers and banks (04_registers) -/

/-- A poison mark: the REASON of the read that found the poison and the load's address (07_memories R182). -/
structure Mark where
  reason : Nat
  va : Word
  deriving DecidableEq, Repr

/-- Where data that a memory read returns is written. -/
inductive Dst where
  | g (r n : Nat) (sext : Bool)
  | v (r : Nat)
  | lane (r i w : Nat)
  deriving DecidableEq, Repr

/-- A local request of a bank that has issued and is not yet performed (09_ins_memory R211): a load when `dst` is
given, a store of `data` otherwise, a release when `rel`. `epoch` counts the release fences of its bank before it, and `hard` those of
them that have package or domain scope and so order device accesses too (08_ordering R196, R207); `cnt` is the read count of an LDRC
(07_memories R183); `tc` is its traffic class (01_machine R23); `ctx` is the context KEY under which it was translated (16_tables R398)
and `ver` the version of its key at that time (16_tables R407). -/
structure MemReq where
  dst : Option Dst
  va : Word
  pa : Nat
  size : Nat
  data : Nat
  key : Nat
  cluster : Nat
  rel : Bool := false
  epoch : Nat := 0
  hard : Nat := 0
  cnt : Option Nat := none
  tc : Nat := 0
  ctx : Nat := 0
  ver : Nat := 0
  deriving DecidableEq, Repr

/-- A line that a thread or an engine command has read ahead (08_ordering R195, R197: a later read is ordered behind an earlier
event only by the edges of those rules; R189: an engine command's events have no order among themselves). A later read may return its
bytes as they stood then, unless one of the registers `written` since gives its address (R194). `old` says that the line was written
since, `clOld` by an agent of the same cluster, `pkgOld` by an agent of this package; `cmds` are the engine commands that wrote it since
and have not counted those bytes, and `bars` the barrier objects with the phases into which such bytes, or a BARA after the write, were
counted (R201). -/
structure PreRead where
  line : Nat
  data : BitVec 512
  old : Bool := false
  clOld : Bool := false
  pkgOld : Bool := false
  cmds : List Nat := []
  bars : List (Nat × Nat) := []
  written : List (Bool × Nat) := []
  deriving DecidableEq, Repr

/-- An exception with the values its entry writes (06_ins_control R152, R154). -/
structure Exc where
  cause : Nat
  epc : Word
  einfo : Nat
  eaddr : Nat
  deriving DecidableEq, Repr

/-- A parked bank (04_registers R98 to R100): `kind` is RECKIND of R102, 0 translation fault, 1 queue wait, 2 remote wait, 3 a restored bank
that waits for its slot (R100). `drained` says that R99 step 1 is over; `answered` and `refused` are the supervisor's answer (R156). -/
structure Park where
  kind : Nat
  drained : Bool := false
  answered : Bool := false
  refused : Bool := false
  deriving DecidableEq, Repr

/-- What an instruction waits for that can park its bank (R98): registers that await remote operations (false for a general one,
true for a vector one); the operations listed; an earlier acquire whose read is remote; or the replies of every earlier
remote operation of the bank. -/
inductive WaitOn where
  | regs (l : List (Bool × Nat))
  | ops (l : List Nat)
  | acq
  | all
  deriving DecidableEq, Repr

/-- What a suspension point does with its continuation (06_ins_control R145 to R150). -/
inductive Susp where
  | susp
  | spawn (pc : Word) (ub : Bool)
  | exit
  | wakeat (t : Nat)
  | semw (n thr : Nat)
  | barw (va pa : Nat)
  deriving DecidableEq, Repr

/-- A remote fault behind STAT.REMOTE (11_remote R270 to R272). -/
structure RFault where
  cause : Nat
  einfo : Nat
  eaddr : Nat
  order : Nat
  deriving DecidableEq, Repr

/-- A stream fault behind STAT.STREAM (09_ins_memory R234, R235). -/
structure SFault where
  slot : Nat
  einfo : Nat
  eaddr : Nat
  deriving DecidableEq, Repr

/-- A queue event behind STAT.QTRAP (12_queues R304, R305), and the cycle in which it occurred (R312). -/
structure QEvent where
  cause : Nat
  einfo : Nat
  eaddr : Nat
  at' : Nat := 0
  deriving DecidableEq, Repr

/-- One beat of tokens: sixteen lanes, each with 32 bits of payload, a 2-bit tag and a 4-bit packing code
(12_queues R280 to R283). -/
structure Beat where
  data : BitVec 512 := 0
  tags : BitVec 32 := 0
  pack : BitVec 64 := 0
  deriving DecidableEq, Repr

/-- A packer's partial beat of one bank for one queue (12_queues R293). -/
structure Packer where
  q : Nat
  n : Nat
  beat : Beat
  deriving DecidableEq, Repr

/-- An update batch of a bank to one owner package (10_updates R254, 19_programs_sync R462); `born` is the number of the engine
command that would have been created when the batch was opened, so that a command knows which batches come before it (R253); `ctx` is the
context KEYs under which its pairs were translated (16_tables R398). -/
structure Batch where
  pkg : Nat
  age : Nat := 0
  closed : Bool := false
  va : Nat := 0
  born : Nat := 0
  ctx : List Nat := []
  pairs : List (Nat × Nat)
  deriving DecidableEq, Repr

/-- A lane access of an indexed instruction that is still to be issued (09_ins_memory R215, 11_remote R206, R264). -/
structure LaneOp where
  lane : Nat
  va : Nat
  pa : Nat
  key : Nat
  data : Nat
  deriving DecidableEq, Repr

/-- A record that an instruction reads from another package at its issue (09_ins_memory R225, 17_work R417): the
operation that reads it, then its bytes and the poison found, or a failed read. -/
structure RecRead where
  va : Nat
  op : Nat
  data : Option (Nat × Option Nat) := none
  failed : Bool := false
  deriving DecidableEq, Repr

/-- A queue instruction with its operands as numbers (12_queues R292 to R302; 06_ins_control R138); `mpushLit` is XQ and
the offset of `bqb` is in bytes. -/
inductive QOp where
  | vpush (v q k : Nat) (sc : Bool) (pk : Nat)
  | spush (r q : Nat) (two : Bool) (pk : Nat)
  | mpush (r q code : Nat)
  | mpushLit (q code arg : Nat)
  | qflush (q : Nat)
  | vpop (v q k km kd : Nat)
  | spop (r q : Nat)
  | qstat (r q : Nat) (clr : Bool) (sel : Nat)
  | qwait (r q mode : Nat)
  | bqb (r : Nat) (off : BitVec 64)
  deriving DecidableEq, Repr

/-- A stalled queue instruction (R291): the queue on which it stalls, and whether a stall cycle counts as one of a full
queue (true), of an empty queue (false) or not at all (R303). An engine command that
waits to close a partial beat does not park its bank (R98, R231). -/
structure QStall where
  op : QOp
  q : Nat
  full : Option Bool
  parks : Bool := true
  deriving DecidableEq, Repr

/-- One thread bank, or the register bank of a service core (04_registers R88). `again` and `againP` are the addresses of the queue
instructions, in user and in privileged mode, that have counted their LOD event and not completed (12_queues R303); `epoch` counts the
release fences that it has executed, and `hard` those of package or domain scope (08_ordering R196). -/
structure Bank where
  g : Tab (BitVec 64) := []
  v : Tab (BitVec 512) := []
  k : Tab (BitVec 16) := []
  pc : BitVec 64 := 0
  stat : BitVec 64 := 0
  epc : BitVec 64 := 0
  ecause : BitVec 64 := 0
  einfo : BitVec 64 := 0
  eaddr : BitVec 64 := 0
  ids : BitVec 64 := 0
  qtrapcfg : BitVec 64 := 0xEC00
  scratch : Tab (BitVec 64) := []
  ctxroot : BitVec 64 := 0
  ctxkey : BitVec 64 := 0
  xtab : BitVec 64 := 0
  gmark : Tab (Option Mark) := []
  vmark : Tab (Option Mark) := []
  reqs : List MemReq := []
  eng : Tab (Option Nat) := []
  seq : Nat := 0
  packs : List Packer := []
  park : Option Park := none
  stalled : Option Nat := none
  stall : Option QStall := none
  again : Option Word := none
  againP : Option Word := none
  waited : Option (Nat × WaitOn) := none
  entering : Option Exc := none
  stopped : Bool := false
  susp : Option Susp := none
  rfaults : List RFault := []
  sfaults : List SFault := []
  qevents : List QEvent := []
  batches : List Batch := []
  epoch : Nat := 0
  hard : Nat := 0
  todo : List LaneOp := []
  busy : Option Instr := none
  record : Option RecRead := none
  blocked : Option Nat := none
  missed : Bool := false
  perf : Tab Nat := []
  cont : Option Nat := none
  deriving DecidableEq, Repr

/-- A thread bank after reset (assumption 4). -/
def threadReset : Bank := {}

/-- A service core after reset (18_outside R446): privileged, no page table, key 0, the firmware's extent table and
the boot address (assumption 5). -/
def svcReset : Bank :=
  { pc := 0x10000, stat := 1, xtab := 2 }

/-! ### Memory (07_memories) -/

/-- Key version under which a line was last written (16_tables R399). -/
structure KeyTag where
  slot : Nat
  ver : Nat
  deriving DecidableEq, Repr

/-- What memory holds of a 64-byte line beside its bytes: its poison bit (R181) and its key; no key stands for a line
that no write of this incarnation has reached (R266). `err` is an error of the line's cells in its tier that no read has found yet:
1 an error that its code cannot correct, 2 a tag that does not match (R180); 3 says that the patrol scrub has found one of them and
written the tier's copy back poisoned, while a cache holds the line (18_outside R442). -/
structure LineMeta where
  poison : Bool := false
  key : Option KeyTag := none
  err : Nat := 0
  deriving DecidableEq, Repr

/-- A line of a memory-side cache, with its format range index (R167, R176). Its address is its number; its key index and its poison
are those of the line (LineMeta), and it is dirty while the line differs from its backing memory (Backing). -/
structure MsLine where
  line : Nat
  range : Option Nat := none
  deriving DecidableEq, Repr

/-- A line of a cluster cache: whether it is held modified (R170), and its remaining read count when it is counted (R183). -/
structure CcLine where
  line : Nat
  modified : Bool := false
  left : Option Nat := none
  deriving DecidableEq, Repr

/-- What the caches hold (R167, R169): the lines of each set of each core's L1, by core × 256 + set; the line of each way and set
of the cluster caches, by (cluster × 32 + bank) × 2,048 + set; the ways of each set of the memory-side caches, by slice × 65,536 +
set; and the hits and misses of each slice (15_counters R383). -/
structure Caches where
  l1 : Tab (List Nat) := []
  cc : Tab (Option CcLine) := []
  ms : Tab (List MsLine) := []
  hits : Tab Nat := []
  misses : Tab Nat := []
  deriving DecidableEq, Repr

/-- A line that differs from its backing memory: the value that the backing memory holds (R168, R184). -/
structure Backing where
  bytes : BitVec 512
  info : LineMeta
  deriving DecidableEq, Repr

/-- State of a key slot (16_tables R399). -/
inductive KeyState where
  | empty | active | rotating | destroyed
  deriving DecidableEq, Repr

/-- A key slot: its state, its current version bit, the versions held with the current one for writes first, the
completed rotations, and whether a patrol pass has begun since the rotate (R399, R402). -/
structure KeySlot where
  state : KeyState := .empty
  ver : Bool := false
  held : List Nat := []
  rotations : Nat := 0
  seen : Bool := false
  deriving DecidableEq, Repr

/-- A bank control register and the mode change in progress (R172, R173). -/
structure BankCtl where
  mode : Nat := 0
  refused : Bool := false
  skey : Nat := 0
  busy : Bool := false
  old : Nat := 0
  deriving DecidableEq, Repr

/-- A pending value of an update region: its local address, the flags NZ (1), SNAN (2), QNAN (4), PINF (8) and NINF (16)
of its header, and ACC (10_updates R245); `bad` says that one of its words is poisoned (07_memories R175, R182). -/
structure Partial where
  pa : Nat
  flags : Nat := 0
  acc : Int := 0
  bad : Bool := false
  deriving DecidableEq, Repr

/-- A bin of a Mordant: its apply block and the partials of up to 32 keys (10_updates R243). -/
structure Bin where
  block : Nat
  keys : List Partial
  deriving DecidableEq, Repr

/-- An update that a requester has issued and its Mordant has not yet accepted: one key with its value, or the two
halves of a BF16 word (10_updates R240, R244), with its traffic class and the context KEY under which it was translated. -/
structure Pair where
  who : Nat
  keys : List (Nat × Nat)
  tc : Nat := 0
  ctx : Nat := 0
  deriving DecidableEq, Repr

/-- One cached leaf translation (16_tables R397). -/
structure TlbE where
  ctx : Nat
  va : Nat
  bits : Nat
  pa : Nat
  key : Nat
  kind : Nat
  perm : Nat
  deriving DecidableEq, Repr

/-- A held extent table: its address and its entries in use or not (R393, R395). -/
structure Held where
  base : Nat
  ents : List Nat
  deriving DecidableEq, Repr

/-- An update region table entry, four dwords (R405). -/
structure Region where
  d0 : Nat := 0
  d1 : Nat := 0
  d2 : Nat := 0
  d3 : Nat := 0
  deriving DecidableEq, Repr

/-- A format range table entry, with the values last written to dwords 1 to 3 (00_scope R7) and, for each agent that has written one
of them, those that its write of dword 0 will bring in (R403, R407). -/
structure FmtRange where
  d0 : Nat := 0
  d1 : Nat := 0
  d2 : Nat := 0
  d3 : Nat := 0
  h1 : Nat := 0
  h2 : Nat := 0
  h3 : Nat := 0
  mine : Tab (Option (Nat × Nat × Nat)) := []
  deriving DecidableEq, Repr

/-! ### Counters (15_counters) -/

/-- A waiter of a semaphore with its threshold (R373). -/
structure SemWaiter where
  who : Who
  thr : Nat
  deriving DecidableEq, Repr

/-- A semaphore (R371). -/
structure Sem where
  count : Nat := 0
  waiters : List SemWaiter := []
  deriving DecidableEq, Repr

/-- A BARW waiter of a barrier object: the phase noted, the end of its timer, the address it named, the EPC of
a timeout, and the 16 bytes of the object as its timer ran out (R380). -/
structure BarWaiter where
  who : Who
  phase : Nat
  expiry : Nat
  va : Nat
  epc : Word
  seen : Option Nat := none
  deriving DecidableEq, Repr

/-! ### Tables of work (17_work) -/

/-- Where a continuation goes that is held by R151, or where it stands. -/
inductive Place where
  | runq
  | time (t : Nat)
  | sem (n thr : Nat)
  | bar (key va : Nat)
  | spawn (pc : BitVec 64) (ub : Bool)
  deriving DecidableEq, Repr

/-- State of a continuation (R425); `spawnWait` is the wait of a SPAWN that found no free record (R147). -/
inductive ContState where
  | free | ready | running | waiting | parked | evicted | held | spawnWait
  deriving DecidableEq, Repr

/-- A continuation: its record's content (R97, R425), where it stands, the exception 0x0D that it takes on dispatch (R380),
and, while it is EVICTED, the address of its full thread record (R101) with the remote faults, stream faults and queue events that it
has not taken and the queue instructions that have counted their LOD event (12_queues R303). -/
structure Cont where
  st : ContState := .free
  pc : BitVec 64 := 0
  flags : Nat := 0
  vrm : Nat := 0
  ub : Bool := false
  g : List (BitVec 64) := []
  place : Place := .runq
  met : Bool := false
  bank : Option Nat := none
  timeout : Option Exc := none
  full : Option Nat := none
  rfaults : List RFault := []
  sfaults : List SFault := []
  qevents : List QEvent := []
  again : Option Word := none
  againP : Option Word := none
  deriving DecidableEq, Repr

/-- State of a group (R421). -/
inductive GroupState where
  | undispatched | placing | resident | parking | parked | preempting | preempted | faulted | done
  deriving DecidableEq, Repr

/-- A group: its launch, index and leaf; its home cluster; its pages in relative order as global page numbers; the queue bytes
that it holds and the FIFO banks with the bytes taken from each; its continuation records; whether a restore is pending
(R428); its save slot; the time at which its graph last did anything (R424); the page and cause of its graph fault; the time
of its pre-emption request; the continuations that wait in SPAWN; whether its initial continuations were written. -/
structure Group where
  st : GroupState := .undispatched
  lid : Nat := 0
  idx : Nat := 0
  leaf : Nat := 0
  home : Option Nat := none
  pages : List Nat := []
  npages : Nat := 0
  qbytes : Nat := 0
  recs : Nat := 0
  carea : Nat := 0
  fifo : List (Nat × Nat) := []
  restore : Bool := false
  save : Option Nat := none
  moved : Nat := 0
  fault : Option (Nat × Nat) := none
  preemptAt : Nat := 0
  spawnq : List Nat := []
  placedOnce : Bool := false
  deriving DecidableEq, Repr

/-- An entry of a BIND section (R418): the queue, dwords 0 and 1 of its descriptor, dword 3, and its place. -/
structure BindEnt where
  queue : Nat
  d0 : Nat
  d1 : Nat
  peer : Nat
  at' : Nat := 0
  deriving DecidableEq, Repr

/-- An arc of an image: its ports and relative pages, its slots, and its place (R418). -/
structure ArcEnt where
  fromPort : Nat
  fromPage : Nat
  toPort : Nat
  toPage : Nat
  slots : Nat
  at' : Nat := 0
  deriving DecidableEq, Repr

/-- A configuration word of an image with its relative page, unit (0 to 7 VU, 8 to 15 SU, 16 MA, 17 page control), stage and
place (R418). -/
structure WordEnt where
  page : Nat
  unit : Nat
  stage : Nat
  word : Nat
  at' : Nat
  deriving DecidableEq, Repr

/-- What the part keeps of a Vysen image after it has read it at the first placement (R418). -/
structure Image where
  pages : Nat
  words : List WordEnt := []
  arcs : List ArcEnt := []
  binds : List BindEnt := []
  start : List Nat := []
  succ : List (Nat × Nat) := []
  rcf : List (Nat × WordEnt) := []
  rcfIds : List Nat := []
  suinit : List (Nat × Nat × Nat) := []
  deriving DecidableEq, Repr

/-- State of a launch (R419). -/
inductive LaunchState where
  | taken | staging | ready | dispatching | running | completing | done | faulted
  deriving DecidableEq, Repr

/-- A launch: its record, the next group to place, the cycle in which it became READY (R433), the start of a wait with only
pages short and whether it has lasted 1 ms (R420), the back copies that it owes (source, destination and length, R416), the
successor blocks not yet appended, each with its place, and its image. -/
structure Launch where
  st : LaunchState := .taken
  leaf : Nat := 0
  rcd : Nat := 0
  placed : Nat := 0
  order : Nat := 0
  shortSince : Option Nat := none
  blocks : Bool := false
  backs : List (Nat × Nat × Nat) := []
  succs : List (Nat × Nat) := []
  image : Option Image := none
  deriving DecidableEq, Repr

/-! ### Remote operations (11_remote) -/

/-- An operation of this package at an owner: the requester (a channel, or an engine command when `eng` is given), its serial if it is
serial-class, the cause under which it is HELD (R276), its KIND (R271), the owner, the virtual address, the lines it names, its
destinations, whether it reads a record for its instruction, whether it is an acquire or a release of domain scope, whether it was moved
here from another channel (R277), the state of its transmission (R258, R259), the incarnations under which it ran before a STALE reply
started it again (R279), the number of the first engine command that could come after it (08_ordering R200), its traffic class (01_machine
R23), and the context KEYs under which it was translated (16_tables R398). -/
structure RemOp where
  who : Nat
  eng : Option Nat := none
  serial : Option Nat := none
  held : Option Nat := none
  kind : Nat := 0
  pkg : Nat := 0
  va : Nat := 0
  lines : List Nat := []
  dsts : List Dst := []
  body : RemBody
  record : Bool := false
  acq : Bool := false
  rel : Bool := false
  moved : Bool := false
  oinc : Nat := 0
  attempt : Nat := 1
  sends : Nat := 1
  sentAt : Nat := 0
  busy : Option Nat := none
  restarts : List Nat := []
  born : Nat := 0
  tc : Nat := 0
  ctx : List Nat := []
  deriving DecidableEq, Repr

/-- A requester channel (R261): NEXT; the packages that hold serials, each with the ACKT last sent to it; when it last
sent; the continuation it is reserved to and the faults kept for it (R277); the traffic class of its last serial-class operation, in
which its acknowledgements go (01_machine R23). -/
structure Chan where
  next : Nat := 1
  owed : List (Nat × Nat) := []
  sentAt : Nat := 0
  reserved : Option Nat := none
  faults : List RFault := []
  tc : Nat := 0
  deriving DecidableEq, Repr

/-- Kind of an owner entry (R267). -/
inductive OwnKind where
  | result | void | floor
  deriving DecidableEq, Repr

/-- An owner entry (R269); `serial` is ACKT and `stamp` the TIME in µs for a FLOOR. -/
structure OwnEntry where
  kind : OwnKind
  op : Nat := 0
  rcid : Nat
  svc : Bool := false
  serial : Nat
  stamp : Nat := 0
  result : Nat := 0
  poison : Option Nat := none
  deriving DecidableEq, Repr

/-! ### Queues (12_queues) -/

/-- The producing end of a chained queue (R310, R311): the consumer, the sequence numbers of the head beat of the queue, of
the oldest beat not acknowledged and of the next beat to be sent, the first that no credit covers, and its timers. -/
structure ChainOut where
  pkg : Nat
  chain : Nat
  base : Nat := 0
  acked : Nat := 0
  seq : Nat := 0
  limit : Nat := 0
  attempt : Nat := 1
  sentAt : Nat := 0
  beatAt : Nat := 0
  deriving DecidableEq, Repr

/-- The consuming end of a chained queue: the producer, the next sequence number it expects and the time of the last
beat or keep-alive; how many of the beats that the graph consumed last the producer's replay window holds; and how many of them are to
be sent again, with the number of the next of those (R307, R310). -/
structure ChainIn where
  pkg : Nat
  chain : Nat
  seq : Nat := 0
  wlen : Nat := 0
  again : Nat := 0
  next : Nat := 0
  heardAt : Nat := 0
  deriving DecidableEq, Repr

/-- A queue of a group (R286 to R289): dwords 0 and 1 of its descriptor, its counters, the beats it holds with the oldest
first, the lane of the head beat from which its tokens are still to
be popped, the traps that are disarmed and the OCCTH crossing not yet charged
(R304), its replay window, the beats still to be replayed, the beats received since the last TSM and those still to be
discarded (R306 to R308), whether the last token that the graph took was not an EOI (R424), and the ends of a chain. -/
structure Queue where
  d0 : Nat := 0
  d1 : Nat := 0
  fstall : Nat := 0
  estall : Nat := 0
  lod : Nat := 0
  highw : Nat := 0
  beats : List Beat := []
  popped : Nat := 0
  disarmed : Nat := 0
  occCross : Bool := false
  window : List Beat := []
  replay : List Beat := []
  sinceTsm : Nat := 0
  discard : Nat := 0
  opened : Bool := false
  cout : Option ChainOut := none
  cin : Option ChainIn := none
  deriving DecidableEq, Repr

/-! ### Engine commands (09_ins_memory R222 to R235) -/

/-- A stream fault of a command: SUB, REASON, SIDE and MDEST of EINFO and the faulting address (R235). -/
structure CFault where
  sub : Nat
  reason : Nat := 0
  side : Nat := 0
  mdest : Nat := 0
  va : Nat := 0
  deriving DecidableEq, Repr

/-- A beat that an engine has read and not yet pushed: its DATA bytes, and the row and byte that come after it. -/
structure PendBeat where
  beat : Beat
  bytes : Nat
  row : Nat
  byte : Nat
  deriving DecidableEq, Repr

/-- Bytes that an engine has read and not yet moved or pushed: how many, their value, which of them are poisoned, where they lie in
this package, and the format range of their line (07_memories R177). -/
structure Part where
  n : Nat
  v : Nat
  bad : Nat := 0
  pa : Nat := 0
  range : Option Nat := none
  deriving DecidableEq, Repr

/-- A read of a command that is made: its row, the byte of the row at which it begins, 2^32 for the index of the row, and how many bytes
it takes; those bytes once they are here; the remote operation that it waits for; and whether that failed. The reads of a command have no
order among themselves (08_ordering R189). -/
structure EngRead where
  row : Nat
  off : Nat
  n : Nat
  got : Option Part := none
  op : Option Nat := none
  failed : Bool := false
  deriving DecidableEq, Repr

/-- An engine command that is not complete (R225, R226): what it is (R235 CMD), the bank and the continuation that issued it and in which
slot; its shape record and where it lies; the bias or mask and the barrier object; the context under which it translates; the next row and
byte to move or push, the index of that row for GATH, the parts of a stream's row already taken from there on, the reads that are made and
not yet used up; the pieces beyond that place which CPY or MCAST has written (R233); for STRM and GATH the byte at which the present part of
the row began, with the scaled range in which it lies, the bytes of the present group that are pushed already (12_queues R285), and the
beats read and not pushed; the progress point and the bytes to be counted; its traffic class (01_machine R23). -/
structure Cmd where
  kind : Nat
  who : Nat
  cont : Option Nat := none
  gid : Nat
  slot : Nat
  seq : Nat
  detached : Bool := false
  recVa : Nat
  recPa : Nat
  recKey : Nat
  word : Nat
  bias : Nat
  bar : Option (Nat × Nat) := none
  barVa : Nat := 0
  root : Nat
  key : Nat
  xtab : Nat
  exts : Option (List Nat)
  user : Bool
  row : Nat
  byte : Nat
  idx : Option Nat := none
  parts : List Part := []
  seg : Option (Nat × Option Nat) := none
  skip : Nat := 0
  reads : List EngRead := []
  wrote : List (Nat × Nat) := []
  pend : List PendBeat := []
  ended : Bool := false
  prow : Nat
  pbyte : Nat
  count : Nat := 0
  tc : Nat := 0
  deriving DecidableEq, Repr

/-- A command was issued by a bank, or by the continuation that it holds. -/
def Cmd.ofThread (c : Cmd) (who : Nat) (cont : Option Nat) : Bool := c.who == who || (c.cont.isSome && c.cont == cont)

/-- The queue that an unfinished STRM or GATH pushes into (R224). -/
def Cmd.pushes (c : Cmd) : Option Nat := if 2 ≤ c.kind then some (c.word / 2 ^ 384 % 64) else none

/-! ### Fabric pages (13_fabric) -/

/-- A lane of a beat: its tag, its packing code and its 32 bits. -/
structure Lane where
  tag : Nat := 1
  pk : Nat := 2
  val : Nat := 0
  deriving DecidableEq, Repr

/-- State of a node (R345): its SELF beat and flags; the held B beat; the inputs that have reached EOI under PAD with the
argument of the first; the partial group and open block scales of CVT and PACK (code and sub-elements left, by lane
position); accumulator, has-data bit, count and partial output of the stream-structure nodes; m and s of ROWSTAT; for
MERGE the tokens not yet merged, how each input ended (0 EOR, 1 EOI, 2 TSM, with its argument), the last keys of their segments and
whether each input stands where a TSM may come (R341); the pairs of TOPK; the inputs whose last token was an EOI (R327). -/
structure NodeCore where
  self : Beat := { data := 0, tags := 0x55555555, pack := 0x2222222222222222 }
  flags : Nat := 0
  held : Option Beat := none
  padMask : Nat := 0
  padArg : Nat := 0
  group : List Beat := []
  scales : Tab (Nat × Nat) := []
  acc : Nat := 0
  has : Bool := false
  cnt : Nat := 0
  part : List Lane := []
  m : Nat := 0xff800000
  s : Nat := 0
  inA : List Lane := []
  inB : List Lane := []
  endA : Option (Nat × Nat) := none
  endB : Option (Nat × Nat) := none
  lastA : Option Nat := none
  lastB : Option Nat := none
  headA : Bool := true
  headB : Bool := true
  top : List (Lane × Lane) := []
  ended : Nat := 0
  deriving DecidableEq, Repr

/-- A vector-unit stage: its word (R77), its node's state, its one-beat input register (R317), the beats that a firing has
still to emit, each for all routes (0), for stream X (1) or for stream Y (2), and its snapshot with the word of that time (R326,
R327). -/
structure Stage where
  word : Nat := 0
  core : NodeCore := {}
  inreg : Option Beat := none
  out : List (Nat × Beat) := []
  snap : Option (Nat × NodeCore) := none
  deriving DecidableEq, Repr

/-- State of a scratch unit (R345, R347): the beats held, how many of the last of them entered since a TSM passed their
producer; its entries; the next stored beat and the passes left of REPLAY; the inputs whose last token was an EOI. -/
structure UnitCore where
  beats : List Beat := []
  since : Nat := 0
  ents : Tab (Option Nat) := []
  pos : Nat := 0
  passes : Nat := 0
  ended : Nat := 0
  deriving DecidableEq, Repr

/-- The snapshot of a scratch unit (R326): its word and table at the TSM (R327), and its state. -/
structure UnitSnap where
  word : Nat
  table : Tab Nat
  core : UnitCore
  deriving DecidableEq, Repr

/-- A scratch unit: its word (R346), its state, its table (LUT), the beats still to be emitted, its snapshot, and the count
of entry changes since the last TSM (R326). -/
structure ScratchUnit where
  word : Nat := 0
  core : UnitCore := {}
  table : Tab Nat := []
  out : List Beat := []
  snap : Option UnitSnap := none
  log : Nat := 0
  deriving DecidableEq, Repr

/-- An arc at its receiving port: the global page and port code that feed it, its slots, its beats, and how many of the last
of them entered since a TSM passed the producer, 0 if none has (R314, R326). -/
structure Arc where
  page : Nat
  port : Nat
  slots : Nat
  beats : List Beat := []
  since : Nat := 0
  deriving DecidableEq, Repr

/-- A packet in the page network (R349): its arc, its beat, the switch where it waits, since when, whether it is on the escape lane,
and whether it has reached the receiving port ahead of its turn. -/
structure Packet where
  arc : Nat
  beat : Beat
  page : Nat
  since : Nat
  lane : Bool := false
  arrived : Bool := false
  deriving DecidableEq, Repr

/-- An accumulator buffer (R103, R360, R362): BSTATE (0 EMPTY, 1 OPEN, 2 CLOSED, 3 DRAINING), AFLAGS, its words by
row × 128 + column and whether they are INT32, whether it is in error, and whether it became OPEN since the snapshot
(R368). -/
structure AccBuf where
  st : Nat := 0
  flags : Nat := 0
  acc : Tab Nat := []
  int : Bool := false
  err : Bool := false
  opened : Bool := false
  deriving DecidableEq, Repr

/-- What the array has still to send to the vector units (R362): a closed buffer or a marker. -/
inductive DrainItem where
  | buf (n : Nat)
  | mark (code arg : Nat)
  deriving DecidableEq, Repr

/-- A fire in progress (R358): its slab groups by feed, its destination, whether it is a shadow fire and the cycle in which it
began. -/
structure Fire where
  slabs : List (List Beat)
  buf : Nat
  shadow : Bool
  at' : Nat
  deriving DecidableEq, Repr

/-- The array's snapshot at a TSM marker step (R368): its word (R327), BSTATE of both buffers, NEXTBUF, SHCNT and DROW. -/
structure MaSnap where
  word : Nat
  st0 : Nat
  st1 : Nat
  nextbuf : Nat
  shcnt : Nat
  drow : Nat
  deriving DecidableEq, Repr

/-- A matrix array (R80, R103, R352 to R369): its word, its buffers, DROW, SHCNT and NEXTBUF, the slab beats staged by feed
(SU0 to SU7) and the marker that waits there, the fire in progress, what it has still to send, its flag summary, its snapshot, and an
uncorrectable error found during a fire, with whether it lies in a buffer that closed before the snapshot (R359, R370). -/
structure Matrix where
  word : Nat := 0
  buf0 : AccBuf := {}
  buf1 : AccBuf := {}
  drow : Nat := 0
  shcnt : Nat := 0
  nextbuf : Nat := 0
  staged : List (List Beat) := [[], [], [], [], [], [], [], []]
  marks : List (Option Lane) := [none, none, none, none, none, none, none, none]
  ended : List Bool := [false, false, false, false, false, false, false, false]
  fire : Option Fire := none
  items : List DrainItem := []
  flags : Nat := 0
  snap : Option MaSnap := none
  err : Option Bool := none
  deriving DecidableEq, Repr

/-- A fabric page: its group and relative page, whether it is in checked mode, its stages (unit × 6 + stage), its scratch
units, its matrix array, and the IN2 registers that the array drains into (R313). -/
structure Page where
  gid : Nat
  rel : Nat
  checked : Bool := false
  stages : Tab Stage := []
  units : Tab ScratchUnit := []
  ma : Option Matrix := none
  drains : Tab (Option Beat) := []
  deriving DecidableEq, Repr

/-- A saved graph (R430): its pages in relative order, and its arcs as (relative page × 128 + port, arc), each arc's producing
page relative too. -/
structure SavedGraph where
  pages : List Page
  arcs : List (Nat × Arc)
  deriving DecidableEq, Repr

/-! ### The world outside -/

/-- What the part gives to the host or to its management port: the data of a CXL.mem read with its poison (18_outside R437), of a
BAR0 read (R436), of a snoop of a line held here or not (07_memories R168), and an SPDM response (R444). -/
inductive HostOut where
  | mem (data : BitVec 512) (poison : Bool)
  | bar (v : BitVec 64)
  | snoop (held : Option (BitVec 512 × Bool))
  | spdm (response : List Byte)
  deriving DecidableEq, Repr

/-! ### The machine -/

/-- What the agent of a turn does: an instruction of the bank or service core that the turn names issues, or an
event takes place. -/
inductive Act where
  | issue
  | event (i : Instr)
  deriving DecidableEq, Repr

/-- One turn (assumption 1): which requester acts, how many cycles and nanoseconds pass before it does, whether its
local accesses are performed later, which of the allowed outcomes it takes, the lines that leave for their tiers, the errors of
memory cells and links, the messages that leave, the packets that go on to another switch of the page network (R349), and the lines
that threads read ahead. -/
structure Turn where
  who : Nat := 4096
  cycles : Nat := 0
  ns : Nat := 0
  late : Bool := false
  choice : Nat := 0
  wb : List Nat := []
  bad : List (Nat × Nat) := []
  sent : Nat := 0
  hops : List (Nat × Nat) := []
  early : List (Nat × Nat) := []
  peers : Option (List (Nat × Nat × Nat × Nat)) := none
  act : Act := .issue
  deriving DecidableEq, Repr

/-- The package. -/
structure State where
  -- the model's own (assumptions 1, 3, 9)
  turns : List Turn := []
  cur : Nat := 4096
  late : Bool := false
  choice : Nat := 0
  fresh : Nat := 0
  cycle : Nat := 0
  -- 04_registers
  banks : Tab Bank := []
  svcs : Tab Bank := []
  active : Tab Nat := []
  -- 07_memories
  mem : List Host.Cell := []
  lines : Tab LineMeta := []
  wpoison : Tab Bool := []
  dirty : Tab (Option Backing) := []
  hostLines : List Nat := []
  hostWb : List (Nat × BitVec 512 × Bool) := []
  caches : Caches := {}
  pre : Tab (List PreRead) := []
  ctl : Tab BankCtl := []
  -- 16_tables
  held : Tab (List Held) := []
  l1tlb : Tab (List TlbE) := []
  cltlb : Tab (List TlbE) := []
  keys : Tab KeySlot := []
  nextVer : Nat := 1
  regions : Tab Region := []
  regstat : Tab Nat := []
  ranges : Tab FmtRange := []
  -- 10_updates
  bins : Tab (List Bin) := []
  logs : Tab (List (Nat × Partial)) := []
  pairs : List Pair := []
  peerRegions : List (Nat × Nat × Nat × Nat) := []
  -- 15_counters
  time : Nat := 0
  events : Tab Nat := []
  -- 18_outside
  pkg : Nat := 0
  pkgLock : Bool := false
  strapPkg : Nat := 0
  bootFail : Option Nat := none
  hostOut : Option HostOut := none
  rinc : Nat := 0
  oinc : Nat := 1
  sboot : Tab Nat := []
  strap : Tab Nat := []
  hostPorts : Tab Nat := []
  plimit : Nat := 2600
  throttled : Bool := false
  power : Nat := 0
  scrubActive : Bool := false
  scrubPasses : Nat := 0
  scrubPeriod : Nat := 24
  patrol : Nat := 0
  -- 11_remote
  rops : Tab (Option RemOp) := []
  nextOp : Nat := 1
  chans : Tab Chan := []
  oincs : Tab Nat := []
  owner : List OwnEntry := []
  routes : Tab Nat := []
  ports : Tab Nat := []
  outbox : List (Nat × Msg) := []
  lseq : Tab Nat := []
  chainPort : Tab (Option Nat) := []
  inbox : List Msg := []
  -- 09_ins_memory
  cmds : Tab (Option Cmd) := []
  nextCmd : Nat := 1
  -- 12_queues
  queues : Tab Queue := []
  -- 13_fabric
  pages : Tab (Option Page) := []
  arcs : Tab (Option Arc) := []
  net : List Packet := []
  saved : Tab (Option SavedGraph) := []
  ochre : Tab Nat := []
  -- 17_work
  scmd : Tab (Option Nat) := []
  sstat : Tab Nat := []
  rcbptr : Nat := 0
  faultq : Nat := 0
  rcbs : Tab (List Nat) := []
  leaves : List Nat := []
  nextLid : Nat := 1
  launches : Tab Launch := []
  groups : Tab Group := []
  conts : Tab Cont := []
  runqs : Tab (List Nat) := []
  sems : Tab Sem := []
  bars : Tab (List BarWaiter) := []
  deriving DecidableEq, Repr

/-- Why the machine would stop with a fault. No rule of the spec leaves an instruction without an effect, so no
meaning raises it (NOTES.md, Stops). -/
inductive Fault where
  | none
  deriving DecidableEq, Repr

/-- Why an instruction has no meaning in the model: raised only by an arm of exec that is not written; safe. -/
inductive Refusal where
  | notModelled (mnemonic : String)
  deriving DecidableEq, Repr

/-- The firmware's extent table after step 4 of R446: entry 0 maps VA 0 onto the 512 GiB of HBM, privileged, plain, with
R, W and X; entry 1 maps VA 0x3F8_0000_0000 onto device space, privileged, with R and W; both with key 0. -/
def firmwareExtents : List Nat :=
  [1 + 2 ^ 23 * 2 ^ 64 + 0x1c * 2 ^ 192,
   0x3f800000001 + 2 ^ 19 * 2 ^ 64 + 0x3f800000000 * 2 ^ 128 + 0xcc * 2 ^ 192] ++ List.replicate 62 0

/-- The bytes of that table that are not zero; it lies at physical address 0 (assumption 5). -/
def firmwareCells : List Host.Cell :=
  [(0, 1), (10, 0x80), (24, 0x1c), (32, 1), (36, 0xf8), (37, 3), (42, 8), (52, 0xf8), (53, 3), (56, 0xcc)]

/-- The lines that the firmware wrote: the 2,048 bytes of the table, under key 0. -/
def firmwareLines : Tab LineMeta :=
  (List.range 32).map fun l => (l, { key := some { slot := 0, ver := 0 } })

/-- The machine right after reset, as step 5 of R446 leaves it: the four service cores hold the firmware's table. -/
def State.reset : State :=
  { mem := firmwareCells
    lines := firmwareLines
    held := (List.range 4).map fun n => (128 + n, [{ base := 0, ents := firmwareExtents }]) }

end Sys2Proof.Machine
end

