-- ==== Sys2Proof/Machine/Flags.lean ====
section
/-! DEFINITION. The five sticky flags (02_numbers R54: NV 16, DZ 8, OF 4, UF 2, NX 1 in STAT.FLAGS of 04_registers
R90) and the rounding mode codes of R42. -/
namespace Sys2Proof.Machine

/-- Invalid operation. -/
def nv : Nat := 16
/-- Division by zero. -/
def dz : Nat := 8
/-- Overflow. -/
def ofl : Nat := 4
/-- Underflow. -/
def ufl : Nat := 2
/-- Inexact. -/
def nx : Nat := 1

/-- The rounding modes of R42. -/
inductive RMode where
  | rne | rz | rd | ru | rna | srne
  deriving DecidableEq, Repr

/-- The mode of a code; the reserved codes never reach here (R43), and a record's reserved image is RNE (R97). -/
def rmOf (c : Nat) : RMode :=
  match c with
  | 1 => .rz | 2 => .rd | 3 => .ru | 4 => .rna | 5 => .srne | _ => .rne

end Sys2Proof.Machine
end

