-- ==== Sys2Proof/Machine/Tab.lean ====
section
/-! DEFINITION. Sparse tables in canonical form and the bit-field helpers that every unit uses
(00_scope and 02_numbers R29: numbers wrap at their width; 01_machine R6: little-endian bytes). -/
namespace Sys2Proof.Machine

/-! ### Tables -/

/-- The value at key `k`, or the default where no entry stands. -/
def Tab.get {α : Type} (d : α) : Tab α → Nat → α
  | [], _ => d
  | (k', v) :: m, k => if k' = k then v else Tab.get d m k

/-- Drop the entry of key `k`. -/
def Tab.del {α : Type} : Tab α → Nat → Tab α
  | [], _ => []
  | (k', v) :: m, k => if k' = k then Tab.del m k else (k', v) :: Tab.del m k

/-- Put an entry at its place in the order of keys. -/
def Tab.ins {α : Type} (k : Nat) (v : α) : Tab α → Tab α
  | [] => [(k, v)]
  | (k', v') :: m =>
    if k < k' then (k, v) :: (k', v') :: m
    else if k' = k then (k, v) :: m
    else (k', v') :: Tab.ins k v m

/-- Write key `k`: the default value removes the entry. -/
def Tab.set {α : Type} [DecidableEq α] (d : α) (m : Tab α) (k : Nat) (v : α) : Tab α :=
  if v = d then Tab.del m k else Tab.ins k v m

/-- Keys strictly rising and above `lo`, no entry equal to the default. -/
def Tab.wfFrom {α : Type} [DecidableEq α] (d : α) : Option Nat → Tab α → Bool
  | _, [] => true
  | lo, (k, v) :: m => (match lo with | none => true | some l => decide (l < k)) && decide (v ≠ d) && Tab.wfFrom d (some k) m

/-- The canonical form: keys strictly rising, no entry equal to the default. -/
def Tab.wf {α : Type} [DecidableEq α] (d : α) (m : Tab α) : Bool := Tab.wfFrom d none m

/-! ### Lists -/

/-- The list with entry `n` replaced by its image; unchanged when there is no entry `n`. -/
def modNth {α : Type} (f : α → α) : List α → Nat → List α
  | [], _ => []
  | a :: l, 0 => f a :: l
  | a :: l, n + 1 => a :: modNth f l n

/-- The list without entry `n`. -/
def dropNth {α : Type} : List α → Nat → List α
  | [], _ => []
  | _ :: l, 0 => l
  | a :: l, n + 1 => a :: dropNth l n

/-- Place of the first entry that meets `p`. -/
def findIdx {α : Type} (p : α → Bool) : List α → Option Nat
  | [] => none
  | a :: l => if p a then some 0 else (findIdx p l).map (· + 1)

/-- `f` folded over 0, …, n − 1 in rising order. -/
def foldN {σ : Type} (n : Nat) (f : Nat → σ → σ) (s : σ) : σ :=
  match n with
  | 0 => s
  | k + 1 => f k (foldN k f s)

/-- The list f 0, …, f (n − 1). -/
def tabulate {α : Type} (n : Nat) (f : Nat → α) : List α :=
  match n with
  | 0 => []
  | k + 1 => tabulate k f ++ [f k]

/-! ### Bit fields -/

/-- Bits hi : lo of a word, as a number. -/
def fld (w hi lo : Nat) : Nat := w / 2 ^ lo % 2 ^ (hi + 1 - lo)

/-- Bit n of a word. -/
def bitAt (w n : Nat) : Bool := w / 2 ^ n % 2 == 1

/-- A word with bits hi : lo replaced. -/
def putFld (w hi lo v : Nat) : Nat :=
  w - fld w hi lo * 2 ^ lo + (v % 2 ^ (hi + 1 - lo)) * 2 ^ lo

/-- A truth value as a bit. -/
def bit01 (b : Bool) : Nat := if b then 1 else 0

/-- Two's complement value of the low `n` bits. -/
def sx (n v : Nat) : Int :=
  let u := v % 2 ^ n
  if n = 0 then 0 else if u < 2 ^ (n - 1) then (u : Int) else (u : Int) - (2 ^ n : Nat)

/-- The n-bit pattern of an integer. -/
def ux (n : Nat) (i : Int) : Nat := (i % ((2 ^ n : Nat) : Int)).toNat

/-- Bytes of a number, lowest address first (R6). -/
def bytesOf (n v : Nat) : List Byte :=
  match n with
  | 0 => []
  | k + 1 => BitVec.ofNat 8 v :: bytesOf k (v / 256)

/-- The number that bytes hold, lowest address first (R6). -/
def ofBytes : List Byte → Nat
  | [] => 0
  | b :: l => b.toNat + 256 * ofBytes l

/-- Ceiling division. -/
def cdiv (a b : Nat) : Nat := (a + b - 1) / b

end Sys2Proof.Machine
end

