-- ==== Sys2Proof/Machine/Float.lean ====
section
/-! DEFINITION. Floating-point and tapered formats, exact values, rounding, conversions and operations (02_numbers R28,
R33 to R54). A value is decoded exactly, computed on exactly, and rounded once. -/
namespace Sys2Proof.Machine

/-! ### Formats, R33 -/

/-- A format with a sign, an exponent and a fraction: widths, bias, the code of the largest finite magnitude, the code
of infinity if it has one, the default NaN and whether it has NaNs. -/
structure Fmt where
  width : Nat
  fw : Nat
  bias : Nat
  maxc : Nat
  infc : Option Nat
  nanc : Nat
  deriving DecidableEq, Repr

def f32 : Fmt := ⟨32, 23, 127, 0x7f7fffff, some 0x7f800000, 0x7fc00000⟩
def f16 : Fmt := ⟨16, 10, 15, 0x7bff, some 0x7c00, 0x7e00⟩
def bf16 : Fmt := ⟨16, 7, 127, 0x7f7f, some 0x7f80, 0x7fc0⟩
def e4m3 : Fmt := ⟨8, 3, 7, 0x7e, none, 0x7f⟩
def e5m2 : Fmt := ⟨8, 2, 15, 0x7b, some 0x7c, 0x7e⟩
def e2m1 : Fmt := ⟨4, 1, 1, 7, none, 0⟩

/-- An exact value: a NaN (signalling or not), an infinity by sign, or (−1)^s × m × 2^e. -/
inductive Fv where
  | nan (signalling : Bool)
  | inf (neg : Bool)
  | fin (neg : Bool) (m : Nat) (e : Int)
  deriving DecidableEq, Repr

/-- The value of a code (R33). -/
def Fmt.decode (f : Fmt) (x : Nat) : Fv :=
  let s := bitAt x (f.width - 1)
  let m := x % 2 ^ (f.width - 1)
  let ex := m / 2 ^ f.fw
  let fr := m % 2 ^ f.fw
  if f.maxc < m then
    match f.infc with
    | some i => if m = i then .inf s else .nan (!bitAt m (f.fw - 1))
    | none => .nan false
  else if ex = 0 then .fin s fr (1 - f.bias - f.fw)
  else .fin s (fr + 2 ^ f.fw) (ex - f.bias - f.fw)

/-! ### Rounding, R42 to R44 -/

/-- Whether a magnitude between two neighbours rounds up: `cmp` compares the part above the lower neighbour with
half the gap (0 below, 1 at, 2 above), `odd` says that the lower neighbour is odd. -/
def roundUp (rm : RMode) (neg odd exact : Bool) (cmp : Nat) : Bool :=
  if exact then false
  else match rm with
    | .rne | .srne => cmp == 2 || (cmp == 1 && odd)
    | .rna => 1 ≤ cmp
    | .rz => false
    | .ru => !neg
    | .rd => neg

/-- floor(log2(n / d)) for positive n and d. -/
def ilog2 (n d : Nat) : Int :=
  let a : Int := (Nat.log2 n : Int) - Nat.log2 d
  let ge := if 0 ≤ a then d * 2 ^ a.toNat ≤ n else d ≤ n * 2 ^ (-a).toNat
  if ge then a else a - 1

/-- The magnitude n / d, with `st` when the exact value lies above it by less than any neighbour, rounded to a
multiple of 2^q: the multiple and whether it is exact. -/
def roundTo (rm : RMode) (neg : Bool) (n d : Nat) (st : Bool) (q : Int) : Nat × Bool :=
  let n' := if 0 ≤ q then n else n * 2 ^ (-q).toNat
  let d' := if 0 ≤ q then d * 2 ^ q.toNat else d
  let m := n' / d'
  let r := n' % d'
  let exact := r == 0 && !st
  let cmp := if 2 * r < d' then 0 else if 2 * r = d' then (if st then 2 else 1) else 2
  (if roundUp rm neg (m % 2 == 1) exact cmp then m + 1 else m, exact)

/-- The result of an overflow (R44). -/
def Fmt.overflow (f : Fmt) (rm : RMode) (neg : Bool) : Nat :=
  let s := bit01 neg * 2 ^ (f.width - 1)
  let big := match f.infc with
    | some i => i + s
    | none => if f.width = 4 then f.maxc + s else f.nanc
  match rm with
  | .rne | .rna => big
  | .rz | .srne => f.maxc + s
  | .ru => if neg then f.maxc + s else big
  | .rd => if neg then big else f.maxc + s

/-- A positive magnitude n / d rounded once into a format (R44): its code and flags (R53). -/
def Fmt.round (f : Fmt) (rm : RMode) (neg : Bool) (n d : Nat) (st : Bool) : Nat × Nat :=
  let s := bit01 neg * 2 ^ (f.width - 1)
  if n = 0 then (s, if st then ufl ||| nx else 0)
  else
    let e := ilog2 n d
    let emin : Int := 1 - f.bias
    let q := max (e - f.fw) (emin - f.fw)
    let (m, exact) := roundTo rm neg n d st q
    let code := m + ((q - (emin - f.fw)).toNat) * 2 ^ f.fw
    let (mu, _) := roundTo rm neg n d st (e - f.fw)
    let tiny := decide (e < emin) && !(decide (e + 1 = emin) && mu == 2 ^ (f.fw + 1))
    if f.maxc < code then (f.overflow rm neg, ofl ||| nx)
    else (code + s, if exact then 0 else if tiny then ufl ||| nx else nx)

/-- The exact value (−1)^s × m × 2^e rounded into a format. -/
def Fmt.roundFin (f : Fmt) (rm : RMode) (neg : Bool) (m : Nat) (e : Int) : Nat × Nat :=
  if 0 ≤ e then f.round rm neg (m * 2 ^ e.toNat) 1 false
  else f.round rm neg m (2 ^ (-e).toNat) false

/-- A zero with a sign. -/
def Fmt.zero (f : Fmt) (neg : Bool) : Nat := bit01 neg * 2 ^ (f.width - 1)

/-- An infinity; the default NaN and NV where the format has none (R46). -/
def Fmt.inf (f : Fmt) (neg : Bool) : Nat × Nat :=
  match f.infc with
  | some i => (i + f.zero neg, 0)
  | none => (f.nanc, nv)

/-- A value rounded into a format. -/
def Fmt.enc (f : Fmt) (rm : RMode) (v : Fv) : Nat × Nat :=
  match v with
  | .nan sig => (f.nanc, if sig then nv else 0)
  | .inf s => f.inf s
  | .fin s m e => if m = 0 then (f.zero s, 0) else f.roundFin rm s m e

/-! ### Operations, R50 and R51 -/

/-- A signed mantissa. -/
def signed (neg : Bool) (m : Nat) : Int := if neg then -(m : Int) else m

def Fv.isSig : Fv → Bool
  | .nan s => s
  | _ => false

def Fv.isNan : Fv → Bool
  | .nan _ => true
  | _ => false

def Fv.isZero : Fv → Bool
  | .fin _ m _ => m == 0
  | _ => false

def Fv.negate : Fv → Fv
  | .nan s => .nan s
  | .inf s => .inf (!s)
  | .fin s m e => .fin (!s) m e

/-- NV of signalling operands. -/
def sigF (l : List Fv) : Nat := if l.any Fv.isSig then nv else 0

/-- Exact sum of two finite values, as a signed mantissa and an exponent. -/
def addExact (sa : Bool) (ma : Nat) (ea : Int) (sb : Bool) (mb : Nat) (eb : Int) : Int × Int :=
  let e := min ea eb
  (signed sa ma * 2 ^ (ea - e).toNat + signed sb mb * 2 ^ (eb - e).toNat, e)

/-- Sum rounded once (R50); an exact zero sum is +0, −0 under RD, and keeps the sign of two equal-signed zeros. -/
def Fmt.add (f : Fmt) (rm : RMode) (a b : Fv) : Nat × Nat :=
  match a, b with
  | .nan _, _ => (f.nanc, sigF [a, b])
  | _, .nan _ => (f.nanc, sigF [a, b])
  | .inf s, .inf t => if s = t then f.inf s else (f.nanc, nv)
  | .inf s, .fin _ _ _ => f.inf s
  | .fin _ _ _, .inf t => f.inf t
  | .fin sa ma ea, .fin sb mb eb =>
    let (m, e) := addExact sa ma ea sb mb eb
    if m = 0 then
      (f.zero (if ma = 0 ∧ mb = 0 ∧ sa = sb then sa else decide (rm = .rd)), 0)
    else f.roundFin rm (decide (m < 0)) m.natAbs e

/-- Exact product; `none` for 0 × ∞. -/
def mulExact (a b : Fv) : Option Fv :=
  match a, b with
  | .nan s, .nan t => some (.nan (s || t))
  | .nan s, _ => some (.nan s)
  | _, .nan t => some (.nan t)
  | .inf s, .inf t => some (.inf (s != t))
  | .inf s, .fin t m _ => if m = 0 then none else some (.inf (s != t))
  | .fin s m _, .inf t => if m = 0 then none else some (.inf (s != t))
  | .fin sa ma ea, .fin sb mb eb => some (.fin (sa != sb) (ma * mb) (ea + eb))

/-- Product rounded once (R50). -/
def Fmt.mul (f : Fmt) (rm : RMode) (a b : Fv) : Nat × Nat :=
  match mulExact a b with
  | none => (f.nanc, nv)
  | some p => f.enc rm p

/-- a × b + c rounded once; 0 × ∞ sets NV whatever c is (R50). -/
def Fmt.fma (f : Fmt) (rm : RMode) (a b c : Fv) : Nat × Nat :=
  match mulExact a b with
  | none => (f.nanc, nv)
  | some p => f.add rm p c

/-- Order of two numbers: −0 is below +0 (R51). -/
def Fv.lt (a b : Fv) : Bool :=
  match a, b with
  | .nan _, _ => false
  | _, .nan _ => false
  | .inf s, .inf t => s && !t
  | .inf s, .fin _ _ _ => s
  | .fin _ _ _, .inf t => !t
  | .fin sa ma ea, .fin sb mb eb =>
    let (m, _) := addExact sa ma ea (!sb) mb eb
    if m = 0 then ma == 0 && mb == 0 && sa && !sb else decide (m < 0)

/-- Order of two numbers as compares see it: −0 equals +0 (R125). -/
def Fv.ltNum (a b : Fv) : Bool := !(a.isZero && b.isZero) && a.lt b

/-- Equality as compares see it. -/
def Fv.eqNum (a b : Fv) : Bool := !a.isNan && !b.isNan && !a.ltNum b && !b.ltNum a

/-- minimumNumber or maximumNumber on codes (R51). -/
def Fmt.minmax (f : Fmt) (isMax : Bool) (x y : Nat) : Nat × Nat :=
  let a := f.decode x
  let b := f.decode y
  let fl := sigF [a, b]
  if a.isNan && b.isNan then (f.nanc, fl)
  else if a.isNan then (y, fl)
  else if b.isNan then (x, fl)
  else (if isMax then (if a.lt b then y else x) else (if b.lt a then y else x), fl)

/-! ### MD8, R36 to R38 and R45 -/

/-- Magnitude of an MD8 body times 2^12, for a nonzero body (R36). -/
def md8Mag (m : Nat) : Nat :=
  if 64 ≤ m then (16 + m % 16) * 2 ^ (6 + m / 16 % 4)
  else if 32 ≤ m then (8 + m % 8) * 2 ^ (if bitAt m 4 then 11 + m / 8 % 2 else 6 - m / 8 % 2)
  else if 16 ≤ m then (4 + m % 4) * 2 ^ (if bitAt m 3 then 14 + m / 4 % 2 else 5 - m / 4 % 2)
  else if 8 ≤ m then (2 + m % 2) * 2 ^ (if bitAt m 2 then 17 + m / 2 % 2 else 4 - m / 2 % 2)
  else if 4 ≤ m then 2 ^ (if bitAt m 1 then 20 + m % 2 else 3 - m % 2)
  else if 2 ≤ m then 2 ^ (if m = 3 then 22 else 1)
  else 1

/-- The value of an MD8 code (R36). -/
def md8Decode (x : Nat) : Fv :=
  let s := bitAt x 7
  let m := x % 128
  if m = 0 then (if s then .nan false else .fin false 0 0) else .fin s (md8Mag m) (-12)

/-- Code of the largest MD8 magnitude not above n / d, code 0 for zero. -/
def md8Below (n d : Nat) : Nat :=
  foldN 128 (fun i best =>
    if i ≠ 0 ∧ md8Mag i * d ≤ n * 4096 ∧ (best = 0 ∨ md8Mag best < md8Mag i) then i else best) 0

/-- Code of the smallest MD8 magnitude not below n / d. -/
def md8Above (n d : Nat) : Nat :=
  foldN 128 (fun i best =>
    if i ≠ 0 ∧ n * 4096 ≤ md8Mag i * d ∧ (best = 0 ∨ md8Mag i < md8Mag best) then i else best) 0

/-- A positive magnitude n / d rounded into MD8 (R45), with NaR on overflow when `nar`. -/
def md8Round (rm : RMode) (nar neg : Bool) (n d : Nat) : Nat × Nat :=
  let s := bit01 neg * 128
  if 1024 * d < n then
    let keep := match rm with
      | .rz | .srne => true
      | .ru => neg
      | .rd => !neg
      | .rne | .rna => false
    (if nar && !keep then 0x80 else 3 + s, ofl ||| nx)
  else
    let lo := md8Below n d
    let hi := md8Above n d
    let vlo := if lo = 0 then 0 else md8Mag lo
    if lo = hi then (lo + s, 0)
    else
      let x2 := 2 * n * 4096
      let mid := (vlo + md8Mag hi) * d
      let up := match rm with
        | .rz => false
        | .ru => !neg
        | .rd => neg
        | .rna => decide (mid ≤ x2)
        | .rne | .srne => decide (mid < x2) || (decide (mid = x2) && lo % 2 == 1 && hi % 2 == 0)
      let c := if up then hi else lo
      (if c = 0 then 0 else c + s, if n * 4096 < d then ufl ||| nx else nx)

/-- A value rounded into MD8; NaN and infinities give NaR (R45, R46). -/
def md8Enc (rm : RMode) (nar : Bool) (v : Fv) : Nat × Nat :=
  match v with
  | .nan sig => (0x80, if sig then nv else 0)
  | .inf _ => (0x80, 0)
  | .fin s m e =>
    if m = 0 then (0, 0)
    else if 0 ≤ e then md8Round rm nar s (m * 2 ^ e.toNat) 1
    else md8Round rm nar s m (2 ^ (-e).toNat)

/-! ### Conversions, R46 to R49 -/

/-- Integer types of R28: width and signedness. -/
def intType (t : Nat) : Option (Nat × Bool) :=
  match t with
  | 0 => some (8, true) | 1 => some (16, true) | 2 => some (32, true) | 3 => some (64, true)
  | 0xc => some (8, false) | 0xd => some (16, false) | 0xe => some (32, false) | _ => none

/-- Floating-point formats of R28 other than MD8. -/
def fmtOf (t : Nat) : Fmt :=
  match t with
  | 4 => f32 | 5 => f16 | 6 => bf16 | 8 => e4m3 | 9 => e5m2 | _ => e2m1

/-- Width in bits of a type (R28). -/
def typeWidth (t : Nat) : Nat :=
  match intType t with
  | some (w, _) => w
  | none => if t = 0xa then 8 else (fmtOf t).width

/-- The exact value of a floating-point code of type t. -/
def decodeT (t x : Nat) : Fv := if t = 0xa then md8Decode x else (fmtOf t).decode x

/-- A value rounded into a floating-point type. -/
def encodeT (t : Nat) (rm : RMode) (nar : Bool) (v : Fv) : Nat × Nat :=
  if t = 0xa then md8Enc rm nar v else (fmtOf t).enc rm v

/-- Smallest and largest value of an integer type. -/
def intRange (w : Nat) (sgn : Bool) : Int × Int :=
  if sgn then (-(2 ^ (w - 1) : Nat), (2 ^ (w - 1) : Nat) - 1) else (0, (2 ^ w : Nat) - 1)

/-- An integer held to a range. -/
def clampI (r : Int × Int) (i : Int) : Int := if i < r.1 then r.1 else if r.2 < i then r.2 else i

/-- SRNE acts as RNE for integer results (R47). -/
def intMode (rm : RMode) : RMode := match rm with | .srne => .rne | m => m

/-- A floating-point value to an integer (R47). -/
def toIntT (w : Nat) (sgn : Bool) (rm : RMode) (v : Fv) : Nat × Nat :=
  let r := intRange w sgn
  match v with
  | .nan _ => (0, nv)
  | .inf s => (ux w (if s then r.1 else r.2), nv)
  | .fin s m e =>
    let (n, d) : Nat × Nat := if 0 ≤ e then (m * 2 ^ e.toNat, 1) else (m, 2 ^ (-e).toNat)
    let (q, exact) := roundTo (intMode rm) s n d false 0
    let i := signed s q
    if i < r.1 ∨ r.2 < i then (ux w (clampI r i), nv)
    else (ux w i, if exact then 0 else nx)

/-- Conversion of code `x` of type `src` to type `dst` (R46 to R49). A wider integer type takes the value extended by the source's sign,
whatever its own (R46); between a signed and an unsigned type of one width, which neither R46 nor R49 decides, the value is held to the
target's range (assumption 79). -/
def convertT (src dst : Nat) (rm : RMode) (nar : Bool) (x : Nat) : Nat × Nat :=
  match intType src, intType dst with
  | some (sw, ss), some (dw, ds) =>
    let i : Int := if ss then sx sw x else (x % 2 ^ sw : Nat)
    (ux dw (if sw < dw then i else clampI (intRange dw ds) i), 0)
  | some (sw, ss), none =>
    let i : Int := if ss then sx sw x else (x % 2 ^ sw : Nat)
    encodeT dst rm nar (.fin (decide (i < 0)) i.natAbs 0)
  | none, some (dw, ds) => toIntT dw ds rm (decodeT src x)
  | none, none => encodeT dst rm nar (decodeT src x)

/-! ### Operations on codes -/

def Fmt.addC (f : Fmt) (rm : RMode) (x y : Nat) : Nat × Nat := f.add rm (f.decode x) (f.decode y)
def Fmt.mulC (f : Fmt) (rm : RMode) (x y : Nat) : Nat × Nat := f.mul rm (f.decode x) (f.decode y)
def Fmt.fmaC (f : Fmt) (rm : RMode) (x y z : Nat) : Nat × Nat := f.fma rm (f.decode x) (f.decode y) (f.decode z)

end Sys2Proof.Machine
end

