-- ==== Sys2Proof/Machine/Map.lean ====
section
/-! DEFINITION. The address map of a package: which memory a local address names, its home slice, and the key of its byte in the
model's memory (07_memories R162 to R164, R171). A local address below 2^42 is its own key; byte `o` of the scratch of cluster `c` has key
2^42 + c × 2^22 + o. -/
namespace Sys2Proof.Machine

/-! ### The address map, R163 -/

/-- The HBM4 tier. -/
def isHbm (a : Nat) : Bool := a < 0x8000000000
/-- The LPDDR6 tier. -/
def isLpd (a : Nat) : Bool := 0x8000000000 ≤ a && a < 0x20000000000
/-- Either tier. -/
def isTier (a : Nat) : Bool := a < 0x20000000000
/-- The host window. -/
def isHost (a : Nat) : Bool := 0x30000000000 ≤ a && a < 0x3f000000000
/-- The cluster scratch window. -/
def isScratch (a : Nat) : Bool := 0x3f000000000 ≤ a && a < 0x3f000400000
/-- Device space. -/
def isDevice (a : Nat) : Bool := 0x3f800000000 ≤ a && a < 0x40000000000

/-- The range [a, a + n) lies within one tier (R403, R406). -/
def inOneTier (a n : Nat) : Bool :=
  (a + n ≤ 0x8000000000) || (0x8000000000 ≤ a && a + n ≤ 0x20000000000)

/-- Package field of a physical address (R162). -/
def paPkg (pa : Nat) : Nat := pa / 2 ^ 42 % 4096
/-- Local address of a physical address (R162). -/
def paLocal (pa : Nat) : Nat := pa % 2 ^ 42

/-- Home slice of a tier address (R164). -/
def homeSlice (a : Nat) : Nat :=
  if isHbm a then (fld a 14 12) ^^^ (fld a 20 18) else 8 + (fld a 12 12 ^^^ fld a 18 18)

/-- LPDDR6 device of a tier address, of the twelve beside S8 and S9 (R164). -/
def lpdDevice (a : Nat) : Nat := 6 * (homeSlice a - 8) + fld a 41 13 % 6

/-- Key of a scratch byte in memory. -/
def scratchKey (cluster o : Nat) : Nat := 2 ^ 42 + cluster * 2 ^ 22 + o % 2 ^ 22

/-- The key of a local address as an agent of `cluster` reaches it (R171). -/
def cellKey (cluster a : Nat) : Nat := if isScratch a then scratchKey cluster (a - 0x3f000000000) else a

end Sys2Proof.Machine
end

