-- ==== Sys2Proof/Machine/Cache.lean ====
section
/-! DEFINITION. Which lines the caches hold: the memory-side cache of each slice, the cluster caches with their read counts,
and the L1 of each access core (07_memories R167 to R170, R172, R173, R176, R183; 15_counters R383). Every address has one value
(R170), which State.mem holds; the turn says which line leaves a full set (assumption 8). -/
namespace Sys2Proof.Machine

/-- Who writes memory: a core, by its number; a requester of another package; an engine command by its number, as an agent of a
cluster; or the host, the scheduler, the walker or a Mordant. -/
inductive By where
  | core (n : Nat)
  | remote
  | eng (cluster id : Nat)
  | home
  deriving DecidableEq, Repr

/-- A store of a thread, which clears the poison of what it covers (R181). -/
def By.store : By → Bool
  | .core _ | .remote => true
  | _ => false

/-! ### Counters of the package, R383 -/

/-- Count an event of the package's counters. -/
def State.bump (s : State) (cls inst ev n : Nat) : State :=
  let k := cls * 2 ^ 24 + inst * 2 ^ 8 + ev
  { s with events := Tab.set 0 s.events k ((Tab.get 0 s.events k + n) % 2 ^ 64) }

/-! ### The memory-side cache, R167 -/

/-- The slice that caches a line: its home, or for a line of the host window S8 or S9, as bit 12 of its address says (R167;
18_outside R437). -/
def sliceOf (line : Nat) : Nat := if isTier (line * 64) then homeSlice (line * 64) else 8 + line / 64 % 2

/-- A set of a memory-side cache: 56 MiB in 16 ways of 64-byte lines make 57,344 sets, among which the line's number chooses
(assumption 8). -/
def msKey (line : Nat) : Nat := sliceOf line * 65536 + line % 57344

/-- How caches fill: the format range index of a line (R176), and which line of a full set leaves. -/
structure Fill where
  range : Nat → Option Nat
  pick : Nat

/-- A memory-side cache holds a line. -/
def Caches.msHas (c : Caches) (line : Nat) : Bool := (Tab.get [] c.ms (msKey line)).any fun x => x.line == line

/-- An access reaches the memory-side cache: it hits, or it misses and fills the line with its format range index, for which a line
of a full set leaves (R167, R176). -/
def Caches.msTouch (c : Caches) (f : Fill) (line : Nat) : Caches :=
  let sl := sliceOf line
  let k := msKey line
  let set := Tab.get [] c.ms k
  let kept := if set.length < 16 then set else dropNth set (f.pick % 16)
  if c.msHas line then { c with hits := Tab.set 0 c.hits sl ((Tab.get 0 c.hits sl + 1) % 2 ^ 64) }
  else
    { c with
      misses := Tab.set 0 c.misses sl ((Tab.get 0 c.misses sl + 1) % 2 ^ 64)
      ms := Tab.set [] c.ms k ({ line := line, range := f.range line } :: kept) }

/-- Lines leave the memory-side caches. -/
def Caches.msDrop (c : Caches) (p : Nat → Bool) : Caches :=
  { c with ms := c.ms.filterMap fun e =>
      let l := e.2.filter fun x => !p x.line
      if l = [] then none else some (e.1, l) }

/-- Give every cached line the format range index that a table names for it (R176). -/
def Caches.reindex (c : Caches) (f : Nat → Option Nat) : Caches :=
  { c with ms := c.ms.map fun e => (e.1, e.2.map fun x => { x with range := f x.line }) }

/-! ### Cluster caches and L1, R169 and R170 -/

/-- Lines leave the L1 of the cores that `p` names. -/
def Caches.l1Drop (c : Caches) (p : Nat → Nat → Bool) : Caches :=
  { c with l1 := c.l1.filterMap fun e =>
      let l := e.2.filter fun x => !p (e.1 / 256) x
      if l = [] then none else some (e.1, l) }

/-- A load brings a line into the L1 of its core: 256 sets of 4 ways, among which the line's number chooses, and the oldest of which
it replaces (assumption 8). -/
def Caches.l1Fill (c : Caches) (core line : Nat) : Caches :=
  let k := core * 256 + line % 256
  { c with l1 := Tab.set [] c.l1 k ((line :: (Tab.get [] c.l1 k).filter (· != line)).take 4) }

/-- The key of a way of the set of a line in a cluster cache (R169): the set index is PA[16:6]. -/
def ccKey (cluster bank line : Nat) : Nat := (cluster * 32 + bank) * 2048 + line % 2048

/-- The way in which a cluster cache holds a line, and what it holds of it. -/
def Caches.ccFind (c : Caches) (cluster line : Nat) : Option (Nat × CcLine) :=
  (List.range 32).findSome? fun n =>
    match Tab.get none c.cc (ccKey cluster n line) with
    | some x => if x.line = line then some (n, x) else none
    | none => none

/-- Lines leave the cluster caches, and with them every L1 of the cluster (R169): `p` of a cluster, a bank and a line. -/
def Caches.ccDrop (c : Caches) (p : Nat → Nat → Nat → Bool) : Caches :=
  let gone (e : Nat × Option CcLine) : Option (Nat × Nat) :=
    match e.2 with
    | some x => if p (e.1 / 65536) (e.1 / 2048 % 32) x.line then some (e.1 / 65536, x.line) else none
    | none => none
  let l := c.cc.filterMap gone
  ({ c with cc := c.cc.filter fun e => (gone e).isNone } : Caches).l1Drop fun core x => l.contains (core / 4, x)

/-- Every copy of a line in a cluster cache other than those of `keep` is invalidated (R170). -/
def Caches.invalidate (c : Caches) (keep : Nat → Bool) (line : Nat) : Caches :=
  c.ccDrop fun cl _ x => x == line && !keep cl

/-- No cluster cache holds the line modified any longer: its home has the value (R170). -/
def Caches.demote (c : Caches) (line : Nat) : Caches :=
  { c with cc := c.cc.map fun e => (e.1, e.2.map fun x => if x.line = line then { x with modified := false } else x) }

/-- The line of a way of a cluster cache leaves it, a modified one for its home (R169, R170). -/
def Caches.ccLeave (c : Caches) (f : Fill) (cluster bank line : Nat) : Caches :=
  match Tab.get none c.cc (ccKey cluster bank line) with
  | some y =>
    let c := c.ccDrop fun cl n z => cl == cluster && n == bank && z == y.line
    if y.modified then c.msTouch f y.line else c
  | none => c

/-- A line is put into a way of a cluster cache: an empty one of the ways, or the one picked, whose line leaves. -/
def Caches.ccPut (c : Caches) (f : Fill) (cluster : Nat) (ways : List Nat) (line : Nat) (x : CcLine) : Caches :=
  let way := match ways.find? fun n => (Tab.get none c.cc (ccKey cluster n line)).isNone with
    | some n => n
    | none => (ways[f.pick % ways.length]?).getD 0
  let c := c.ccLeave f cluster way line
  { c with cc := Tab.set none c.cc (ccKey cluster way line) (some x) }

/-- A bank of a cluster leaves its cache: the lines of its way leave it (R173). -/
def Caches.wayLeave (c : Caches) (f : Fill) (cluster bank : Nat) : Caches :=
  (c.cc.filterMap fun e => if e.1 / 2048 = cluster * 32 + bank then e.2.map (·.line) else none).foldl
    (fun c l => c.ccLeave f cluster bank l) c

/-- The cluster caches that hold a line, and whether one holds it modified: what the directory of its home slice records
(R170). -/
def Caches.holders (c : Caches) (line : Nat) : List (Nat × Bool) :=
  (List.range 32).filterMap fun cl => (c.ccFind cl line).map fun x => (cl, x.2.modified)

/-- An access that no cluster cache serves: of an engine, a service core, the walker, the scheduler, the host or a Mordant. A
write leaves no copy in a cluster cache. -/
def Caches.home (c : Caches) (f : Fill) (line : Nat) (write : Bool) : Caches :=
  (if write then c.invalidate (fun _ => false) line else c.demote line).msTouch f line

/-- A load of an access core, `cnt` the read count of an LDRC (R169, R183). R183 counts the hits of the cluster cache and does not say
whether a load that the core's own L1 serves is one: it is here (assumption 8). -/
def Caches.load (c : Caches) (f : Fill) (core : Nat) (ways : List Nat) (line : Nat) (cnt : Option Nat) : Caches :=
  let cl := core / 4
  match ways, c.ccFind cl line with
  | [], _ => c.home f line false
  | _, some (n, x) =>
    let put (l : Nat) : Caches :=
      { c with cc := Tab.set none c.cc (ccKey cl n line) (some { x with left := some l }) }
    match x.left, cnt with
    | some r, some m => (put (Nat.max (r - 1) (m - 1))).l1Fill core line
    | some 0, none => c.ccDrop fun k b y => k == cl && b == n && y == line
    | some (r + 1), none => (put r).l1Fill core line
    | none, _ => c.l1Fill core line
  | _, none =>
    (((c.demote line).msTouch f line).ccPut f cl ways line { line := line, left := cnt.map (· - 1) }).l1Fill core line

/-- A PREF.cc of an access core (09_ins_memory R218): as a load, without the L1 and the read counts. -/
def Caches.pref (c : Caches) (f : Fill) (core : Nat) (ways : List Nat) (line : Nat) : Caches :=
  match ways, c.ccFind (core / 4) line with
  | [], _ => c.home f line false
  | _, some _ => c
  | _, none => ((c.demote line).msTouch f line).ccPut f (core / 4) ways line { line := line }

/-- A store of an access core: its cluster cache gains the line alone and modified, and only the L1 of its own core keeps
a copy (R169, R170). -/
def Caches.store (c : Caches) (f : Fill) (core : Nat) (ways : List Nat) (line : Nat) : Caches :=
  let cl := core / 4
  let c := (c.invalidate (· == cl) line).l1Drop fun k x => x == line && k != core
  match ways, c.ccFind cl line with
  | [], _ => c.msTouch f line
  | _, some (n, x) =>
    { c with cc := Tab.set none c.cc (ccKey cl n line) (some { x with modified := true, left := none }) }
  | _, none => (c.msTouch f line).ccPut f cl ways line { line := line, modified := true }

/-- A line leaves every cache. -/
def Caches.drop (c : Caches) (p : Nat → Bool) : Caches := (c.ccDrop fun _ _ x => p x).msDrop p

/-- Some cache holds the line. -/
def Caches.holds (c : Caches) (line : Nat) : Bool := c.msHas line || !(c.holders line).isEmpty

/-- Some cache holds the line as what its home, or its one owner, has of it: not only a clean copy of a cluster (R170). -/
def Caches.owns (c : Caches) (line : Nat) : Bool := c.msHas line || (c.holders line).any (·.2)

/-! ### Of the state -/

/-- Control of a cluster SRAM bank (R172). -/
def State.bankCtl (s : State) (cluster bank : Nat) : BankCtl := Tab.get {} s.ctl (cluster * 32 + bank)

/-- The banks of a cluster that are ways of its cache (R169, R172). -/
def State.ways (s : State) (cluster : Nat) : List Nat := (List.range 32).filter fun n => (s.bankCtl cluster n).mode == 0

/-- First byte and length of a format range, as local addresses (16_tables R403). -/
def FmtRange.span (d0 d1 : Nat) : Nat × Nat := (fld d0 53 6 * 64, fld d1 47 0 * 64)

/-- Number of the valid entry of a format range table that holds a local address (R176, 16_tables R403). -/
def rangeIn (l : Tab FmtRange) (a : Nat) : Option Nat :=
  (l.find? fun e =>
    let (b, m) := FmtRange.span e.2.d0 e.2.d1
    bitAt e.2.d0 63 && paLocal b ≤ a && a < paLocal b + m).map (·.1)

/-- Number of the valid entry of the format range table that holds a local address. -/
def State.rangeNo (s : State) (a : Nat) : Option Nat := rangeIn s.ranges a

/-- How the caches fill in a turn. -/
def State.fill (s : State) : Fill := { range := fun l => s.rangeNo (l * 64), pick := s.choice / 256 }

/-- The caches after a read of a local address: by the core named, with the read count of an LDRC, or at its home. -/
def State.cacheRead (s : State) (core : Option Nat) (a : Nat) (cnt : Option Nat) : Caches :=
  let line := a / 64
  if isTier a || isHost a then
    match core with
    | some c =>
      if c < 128 && isTier a then s.caches.load s.fill c (s.ways (c / 4)) line cnt else s.caches.home s.fill line false
    | none => s.caches.home s.fill line false
  else s.caches

/-- The caches after a write of a local address: by an access core, or at its home. -/
def State.cacheWrite (s : State) (by' : By) (a : Nat) : Caches :=
  let line := a / 64
  if isTier a || isHost a then
    match by' with
    | .core c =>
      if c < 128 && isTier a then s.caches.store s.fill c (s.ways (c / 4)) line else s.caches.home s.fill line true
    | _ => s.caches.home s.fill line true
  else s.caches

/-! ### Lines that threads have read ahead, 08_ordering R195 and R197 -/

/-- Entry of State.pre for a continuation that is on no bank. -/
def preCont (c : Nat) : Nat := 8192 + c

/-- A writer belongs to the cluster of a requester; one that is on no bank belongs to every cluster. -/
def By.within (b : By) (r : Nat) : Bool :=
  8192 ≤ r || match b with
    | .core n => n < 128 && r < 4096 && n / 4 == r / 128
    | .eng c _ => r < 4096 && c == r / 128
    | _ => false

/-- The lines read ahead, once a line is written. -/
def State.preMark (s : State) (by' : By) (line : Nat) : Tab (List PreRead) :=
  s.pre.map fun e => (e.1, e.2.map fun x =>
    if x.line = line then
      { x with
        old := true
        clOld := x.clOld || by'.within e.1
        pkgOld := x.pkgOld || by' != .remote
        cmds := match by' with | .eng _ id => id :: x.cmds | _ => x.cmds }
    else x)

/-- What a requester keeps of the lines that it has read ahead. -/
def State.preKeep (s : State) (r : Nat) (p : PreRead → Bool) : State :=
  { s with pre := Tab.set [] s.pre r ((Tab.get [] s.pre r).filter p) }

/-- A line read ahead has been written since by an agent of a scope: 1 cluster, 2 package, 3 domain (R192). -/
def PreRead.stale (x : PreRead) (scope : Nat) : Bool :=
  match scope with
  | 0 => false
  | 1 => x.clOld
  | 2 => x.pkgOld
  | _ => x.old

/-- An acquire of a scope (R192, R195): what the requester read ahead is forgotten where an agent of the scope has written it since. -/
def State.preAcquire (s : State) (r scope : Nat) : State := if scope = 0 then s else s.preKeep r fun x => !x.stale scope

/-- The lines read ahead that meet `p` are counted into a phase of a barrier object (R201). -/
def State.preCount (s : State) (key phase : Nat) (p : PreRead → Bool) : State :=
  { s with pre := s.pre.map fun e => (e.1, e.2.map fun x => if p x then { x with bars := (key, phase) :: x.bars } else x) }

/-- A BARW completes on a phase of an object (R201): it acquires what was counted into the phase, and the object's own bytes. -/
def State.preBarw (s : State) (r key phase : Nat) : State :=
  s.preKeep r fun x => x.line != key / 64 && !x.bars.contains (key, phase)

/-- An instruction writes registers (false for a general one): what it read ahead may not be used under an address they give. Register
g0 carries no dependency (R194). -/
def State.preWritten (s : State) (r : Nat) (l : List (Bool × Nat)) : State :=
  { s with pre := Tab.set [] s.pre r ((Tab.get [] s.pre r).map fun x =>
      { x with written := l.filter (· != (false, 0)) ++ x.written }) }

/-- What a requester read ahead of a line, if none of the registers given has been written since. -/
def State.preFind (s : State) (r line : Nat) (deps : List (Bool × Nat)) : Option PreRead :=
  (Tab.get [] s.pre r).find? fun x => x.line == line && !deps.any fun d => x.written.contains d

/-- What was read ahead moves with its thread to another place (R189); only g1 to g6 carry a dependency across a suspension
point (R194). -/
def State.preMove (s : State) (from' to' : Nat) (susp : Bool) : State :=
  let lost : List (Bool × Nat) :=
    if susp then (List.range 25).map (fun i => (false, i + 7)) ++ (List.range 16).map fun i => (true, i) else []
  let l := (Tab.get [] s.pre from').map fun x => { x with clOld := x.clOld || x.old, written := lost ++ x.written }
  { s with pre := Tab.set [] (Tab.set [] s.pre from' []) to' l }

end Sys2Proof.Machine
end

