-- ==== Sys2Proof/Machine/Memory.lean ====
section
/-! DEFINITION. The bytes of memory, their poison and their keys, below any translation or update region
(07_memories R167, R168, R175, R178, R180 to R185; 16_tables R399 to R401). -/
namespace Sys2Proof.Machine

/-! ### Bytes -/

/-- The byte at a memory key; a key that no cell names holds zero (assumption 6). -/
def State.byte (s : State) (k : Nat) : Byte := Tab.get 0 s.mem k

/-- Memory with one byte written. -/
def memSet (m : List Host.Cell) (k : Nat) (b : Byte) : List Host.Cell := Tab.set (0 : Byte) m k b

/-- Memory with the `n` low bytes of `v` written from key `k` on. -/
def memPut (m : List Host.Cell) (k n v : Nat) : List Host.Cell :=
  match n with
  | 0 => m
  | j + 1 => memPut (memSet m k (BitVec.ofNat 8 v)) (k + 1) j (v / 256)

/-- The `n` bytes from key `k` on, as a number. -/
def memGet (m : List Host.Cell) (k n : Nat) : Nat :=
  match n with
  | 0 => 0
  | j + 1 => (Tab.get (0 : Byte) m k).toNat + 256 * memGet m (k + 1) j

/-- The canonical form of memory. -/
def memWf (m : List Host.Cell) : Bool := Tab.wf (0 : Byte) m

/-! ### Keys, R399 and R400 -/

/-- Slot 0 is ACTIVE from bring-up on; every other slot starts EMPTY. Version 0 names the key of slot 0. -/
def keyDefault (slot : Nat) : KeySlot := if slot = 0 then { state := .active, held := [0] } else {}

/-- A key slot. -/
def State.key (s : State) (slot : Nat) : KeySlot :=
  match Tab.get none (s.keys.map fun e => (e.1, some e.2)) slot with
  | some k => k
  | none => keyDefault slot

/-- Whether a slot can be written under (R400). -/
def keyLive (k : KeySlot) : Bool := k.state == .active || k.state == .rotating

/-- The tag under which a write through a slot is encrypted: its current version, for a ROTATING slot the next. -/
def State.tagOf (s : State) (slot : Nat) : KeyTag := { slot := slot, ver := (s.key slot).held.headD 0 }

/-- Whether a line's version is still held. -/
def State.tagHeld (s : State) (t : KeyTag) : Bool :=
  let k := s.key t.slot
  keyLive k && k.held.contains t.ver

/-! ### Lines -/

/-- What memory holds of a line. -/
def State.line (s : State) (l : Nat) : LineMeta := Tab.get {} s.lines l

/-- A tier line that decrypts and checks (R180, R400). -/
def State.lineReadable (s : State) (l : Nat) : Bool :=
  match (s.line l).key with
  | some t => s.tagHeld t
  | none => false

/-- Whether any of `n` 32-bit words from word `w` on carries poison. -/
def anyWord (t : Tab Bool) (w n : Nat) : Bool :=
  match n with
  | 0 => false
  | j + 1 => Tab.get false t w || anyWord t (w + 1) j

/-- The tag of a write that was translated while a slot had version `ver` (16_tables R407): the line is written under the key of that
time, its current one while that version is held. -/
def State.tagFor (s : State) (slot ver : Nat) : KeyTag :=
  if s.tagHeld { slot := slot, ver := ver } then s.tagOf slot else { slot := slot, ver := ver }

/-- A line whose value some SRAM holds, so that a read does not reach its tier. -/
def State.cached (s : State) (l : Nat) : Bool := (Tab.get none s.dirty l).isSome || s.caches.holds l

/-- An SRAM word holds data: of a scratch bank, or of a line that a cache holds. -/
def State.wordHeld (s : State) (a : Nat) : Bool := 2 ^ 42 ≤ a || s.cached (a / 64)

/-- The error of a line's cells that a read of it would find (R180): 0 none, 1 an error its code cannot correct, 2 a tag that does
not match. -/
def State.lineErr (s : State) (l : Nat) : Nat :=
  let e := (s.line l).err
  if e = 0 then 0 else if s.cached l then 0 else e

/-- REASON of the poison that a read of `n` bytes at key `k`, within one line, finds (R182): 2 SRAM, 1 INTEGRITY,
0 MEMORY. -/
def State.poisonAt (s : State) (k n : Nat) : Option Nat :=
  if s.wordHeld k && anyWord s.wpoison (k / 4) (cdiv (k % 4 + n) 4) then some 2
  else if isTier k then
    if !s.lineReadable (k / 64) then some 1
    else if (s.line (k / 64)).poison then some 0
    else match s.lineErr (k / 64) with
      | 0 => none
      | 2 => some 1
      | _ => some 0
  else if (s.line (k / 64)).poison then some 0 else none

/-- Which of `n` bytes at key `k`, within one line, a read finds poisoned (R181). -/
def State.badBytes (s : State) (k n : Nat) : Nat :=
  let word (j : Nat) : Bool := s.wordHeld k && Tab.get false s.wpoison ((k + j) / 4)
  let line := if isTier k then !s.lineReadable (k / 64) || (s.line (k / 64)).poison || s.lineErr (k / 64) != 0
    else (s.line (k / 64)).poison
  if line then 2 ^ n - 1 else (List.range n).foldl (fun m j => if word j then m + 2 ^ j else m) 0

/-- Number of the lowest bit that is set. -/
def lowBit (m n : Nat) : Nat := ((List.range n).find? fun i => bitAt m i).getD 0

/-- A line carries the poison of the error that a read of it finds. -/
def State.foundLine (s : State) (l : Nat) : LineMeta :=
  if s.lineErr l = 0 then s.line l else { (s.line l) with poison := true, err := 0 }

/-- A read that reaches the tier finds an error that cannot be corrected: of the line's cells, or of its key (R180). -/
def State.findsError (s : State) (l : Nat) : Bool :=
  s.lineErr l == 1 || s.lineErr l == 2 || (isTier (l * 64) && !s.cached l && !s.lineReadable l)

/-- A read that finds an uncorrectable error poisons the line, and its slice counts the error (R180; 15_counters R383). -/
def State.found (s : State) (l : Nat) : State :=
  { s with
    lines := if s.lineErr l = 0 then s.lines else Tab.set {} s.lines l (s.foundLine l)
    events := if s.findsError l then (s.bump 1 (homeSlice (l * 64)) 9 1).events else s.events }

/-- Whole words within [k, k + n), cleared of poison (R175, R181). -/
def clearWords (t : Tab Bool) (k n : Nat) : Tab Bool :=
  let lo := cdiv k 4
  let hi := (k + n) / 4
  foldN (hi - lo) (fun i t => Tab.set false t (lo + i) false) t

/-- A line after a write of `n` bytes under a tag: a whole-line write clears its poison, a smaller one leaves it,
and a smaller write to a line that cannot be read leaves it poisoned (R181, R400). -/
def State.writtenLine (s : State) (l n : Nat) (t : Option KeyTag) : LineMeta :=
  if n = 64 then { poison := false, key := t }
  else if isTier (l * 64) && !s.lineReadable l then { poison := true, key := t }
  else { (s.foundLine l) with key := t }

/-- Remember what the backing memory of a line holds when the line first differs from it (R168, R184). -/
def State.makeDirty (s : State) (l : Nat) : State :=
  if (isTier (l * 64) || isHost (l * 64)) && (Tab.get none s.dirty l).isNone then
    { s with
      dirty := Tab.set none s.dirty l
        (some { bytes := BitVec.ofNat 512 (memGet s.mem (l * 64) 64), info := s.line l }) }
  else s

/-! ### Lines that leave the caches, R168 and R181 -/

/-- The tag under which a dirty line leaves for its tier: for a ROTATING slot its next version (R401). -/
def State.leaveTag (s : State) (t : KeyTag) : KeyTag :=
  if (s.key t.slot).state == .rotating && s.tagHeld t then s.tagOf t.slot else t

/-- What a tier holds of a dirty line that leaves for it: a poisoned word poisons the line (R181). -/
def State.leftLine (s : State) (l : Nat) : LineMeta :=
  { poison := (s.foundLine l).poison || anyWord s.wpoison (l * 16) 16
    key := (s.line l).key.map s.leaveTag }

/-- The counters after a dirty line leaves: a BF16 line of the HBM tier is stored recoded or raw, as the turn says (R178). -/
def State.leftEvents (s : State) (l : Nat) : Tab Nat :=
  let bf16 := match s.rangeNo (l * 64) with
    | some i => fld (Tab.get {} s.ranges i).d2 3 0 == 3
    | none => false
  if isHbm (l * 64) && bf16 then (s.bump 1 (homeSlice (l * 64)) (if bitAt s.choice 4 then 0xb else 0xa) 1).events
  else s.events

/-- A dirty line is written back: to its tier, or a line of the host window to the host (R168; 18_outside R435). -/
def State.leave (s : State) (l : Nat) : State :=
  { s with
    dirty := Tab.set none s.dirty l none
    events := s.leftEvents l
    lines := Tab.set {} s.lines l (s.leftLine l)
    hostWb := if isHost (l * 64) then
        s.hostWb ++ [(l, BitVec.ofNat 512 (memGet s.mem (l * 64) 64), (s.leftLine l).poison)]
      else s.hostWb }

/-- The caches change. A dirty line that no cache owns any longer is written back; an error of an SRAM word goes with its line, and a
line of the host window that is dropped is the host's again (R168). -/
def State.recache (s : State) (c : Caches) : State :=
  let lost (l : Nat) : Bool := s.caches.holds l && !c.holds l
  let out := (s.dirty.map (·.1)).filter fun l => s.caches.owns l && !c.owns l
  let t := out.foldl State.leave s
  { s with
    dirty := t.dirty
    events := t.events
    lines := t.lines
    hostWb := t.hostWb
    wpoison := s.wpoison.filter fun e => 2 ^ 40 ≤ e.1 || !lost (e.1 / 16)
    hostLines := s.hostLines.filter fun l => !lost l
    caches := c }

/-- A line leaves every cache: a dirty one is written back (R168), a clean one is dropped with the errors of its SRAM words. -/
def State.writeBack (s : State) (l : Nat) : State :=
  let s := s.recache (s.caches.drop (· == l))
  if (Tab.get none s.dirty l).isSome then s.leave l else s

/-! ### Writes -/

/-- Write `n` bytes, within one line, at key `k`, under a tag (none for a line that carries no key). A store of a core clears the
poison of the words it covers; a write of another agent clears poison only when it covers the line (R181). A write of less than the
line finds the errors of what it keeps (R180). -/
def State.rawWrite (s : State) (k n v : Nat) (t : Option KeyTag) (by' : By := .home) : State :=
  let line := s.writtenLine (k / 64) n t
  let s := (if n = 64 then s else s.found (k / 64)).makeDirty (k / 64)
  { s with
    mem := memPut s.mem k n v
    lines := Tab.set {} s.lines (k / 64) line
    wpoison := if by'.store || n = 64 then clearWords s.wpoison k n else s.wpoison
    pre := s.preMark by' (k / 64) }.recache (s.cacheWrite by' k)

/-- Mark the poison that copied data carries (R181): in a tier, or in host memory, the line; in scratch the words that `bad`
names, by their place in the write. -/
def State.markPoison (s : State) (k n : Nat) (bad : Nat → Bool := fun _ => true) : State :=
  if k < 2 ^ 42 then
    { s with lines := Tab.set {} s.lines (k / 64) { (s.line (k / 64)) with poison := true } }
  else
    let mark (i : Nat) (t : Tab Bool) : Tab Bool := if bad i then Tab.set false t (k / 4 + i) true else t
    { s with wpoison := foldN (cdiv (k % 4 + n) 4) mark s.wpoison }

/-- Host memory enters S8 or S9 at the first access to a line that is not held (R168): its bytes are the host's. The line carries the
key of slot 0 until a store writes it (assumption 8). -/
def State.hostFill (s : State) (l : Nat) : State :=
  if isHost (l * 64) && !s.hostLines.contains l then
    { s with
      mem := foldN 64 (fun i m => memSet m (l * 64 + i) (Config.hostByte s.fresh (l * 64 + i))) s.mem
      lines := Tab.set {} s.lines l { key := some (s.tagOf 0) }
      hostLines := l :: s.hostLines
      fresh := s.fresh + 1 }
  else s

/-- Key of a write by the host or by the scheduler: the line's own slot if it is live, otherwise slot 0 (R400). -/
def State.sysTag (s : State) (l : Nat) : KeyTag :=
  match (s.line l).key with
  | some t => if keyLive (s.key t.slot) then s.tagOf t.slot else s.tagOf 0
  | none => s.tagOf 0

/-- Bytes of memory as a number, without regard to poison. -/
def State.num (s : State) (k n : Nat) : Nat := memGet s.mem k n

/-! ### Failures -/

/-- A memory cell or a link fails (R175, R180; 15_counters R383). Kind 0 is an error of a tier line that its code cannot correct,
1 a double-bit error of an SRAM word, 2 a tag that does not match, 3 a double-bit error in an update bin, 4 a corrected error of slice
`a`, 5 a corrected error of page `a`, 6 a retry of a link of die `a`. A slice counts the errors of its SRAM words as they occur. -/
def State.fail (s : State) (a kind : Nat) : State :=
  match kind with
  | 0 | 2 =>
    { s with lines := if isTier a then Tab.set {} s.lines (a / 64) { (s.line (a / 64)) with err := if kind = 0 then 1 else 2 } else s.lines }
  | 1 =>
    { s with
      wpoison := if s.wordHeld a then Tab.set false s.wpoison (a / 4) true else s.wpoison
      events := if s.caches.msHas (a / 64) then (s.bump 1 (sliceOf (a / 64)) 9 1).events else s.events }
  | 3 =>
    { s with
      bins := s.bins.map fun e => (e.1, e.2.map fun b =>
        { b with keys := b.keys.map fun p => if p.pa = a then { p with bad := true } else p })
      events := if s.bins.any fun e => e.2.any fun b => b.keys.any fun p => p.pa == a then (s.bump 1 (homeSlice a) 9 1).events
        else s.events }
  | 4 => s.bump 1 (a % 10) 8 1
  | 5 => s.bump 3 (a % 144) 5 1
  | _ => s.bump 4 (a % 10) 1 1

end Sys2Proof.Machine
end

