-- ==== Sys2Proof/Machine/Apply.lean ====
section
/-! DEFINITION. Update regions: their table, the pending values and the apply of a block, with the reads and writes of the
part itself, which apply as every other access does (10_updates R237, R238, R245, R248 to R250; 16_tables R405). -/
namespace Sys2Proof.Machine

/-! ### Regions, R237, R238, R405 -/

def Region.valid (r : Region) : Bool := bitAt r.d0 63
def Region.base (r : Region) : Nat := fld r.d0 53 12 * 4096
def Region.etype (r : Region) : Nat := fld r.d0 11 8
def Region.op (r : Region) : Nat := fld r.d0 7 4
def Region.len (r : Region) : Nat := fld r.d1 41 0 * 4096
def Region.logBase (r : Region) : Nat := fld r.d2 53 6 * 64
def Region.logLen (r : Region) : Nat := fld r.d3 31 0

/-- An entry of the update region table. -/
def State.region (s : State) (i : Nat) : Region := Tab.get {} s.regions i

/-- A valid entry holds the physical address. -/
def Region.covers (r : Region) (pa : Nat) : Bool := r.valid && r.base ≤ pa && pa < r.base + r.len

/-- Number of the valid entry that holds a local address. -/
def State.regionAt (s : State) (a : Nat) : Option Nat :=
  (s.regions.find? fun e => e.2.covers (s.pkg % 4096 * 2 ^ 42 + a)).map (·.1)

/-- A local address lies in the spill log of a valid entry (R246). -/
def State.inLog (s : State) (a : Nat) : Bool :=
  s.regions.any fun e =>
    let lo := paLocal e.2.logBase
    e.2.valid && lo ≤ a && a < lo + e.2.logLen * 48

/-- Width in bits of an element (R238). -/
def updWidth (etype : Nat) : Nat := if etype = 3 then 64 else if etype = 6 then 16 else 32

/-- OP and ETYPE form a row of R238. -/
def updRow (op etype : Nat) : Bool :=
  match op with
  | 1 => etype == 4 || etype == 6
  | 2 | 3 | 4 | 5 | 6 | 0xc => etype == 2 || etype == 3
  | 7 | 8 => etype == 4
  | 9 | 0xa | 0xb => etype == 3
  | _ => false

/-- Format of a floating-point region. -/
def updFmt (etype : Nat) : Fmt := if etype = 6 then bf16 else f32

/-- OR bits into a region's status (R251). -/
def State.regStatus (s : State) (i bits : Nat) : State :=
  { s with regstat := Tab.set 0 s.regstat i (Tab.get 0 s.regstat i ||| bits) }

/-! ### Partials, R245 and R248 -/

/-- A value of a FADD region as a partial: header flags and the multiple of 2^-149. -/
def faddTerm (f : Fmt) (v : Nat) : Nat × Int :=
  match f.decode v with
  | .nan sig => (1 + (if sig then 2 else 4), 0)
  | .inf neg => (1 + (if neg then 16 else 8), 0)
  | .fin neg m e => (bit01 !(neg && m == 0), signed neg m * 2 ^ (e + 149).toNat)

/-- Combination of two values by an operator other than FADD (R238): the value and its flags. -/
def combine (op w a b : Nat) : Nat × Nat :=
  match op with
  | 2 | 0xc => ((a + b) % 2 ^ w, 0)
  | 3 => (if sx w b < sx w a then b else a, 0)
  | 4 => (if sx w a < sx w b then b else a, 0)
  | 5 => (Nat.min a b, 0)
  | 6 => (Nat.max a b, 0)
  | 7 => f32.minmax false a b
  | 8 => f32.minmax true a b
  | 9 => (a ||| b, 0)
  | 0xa => (a &&& b, 0)
  | _ => (a ^^^ b, 0)

/-- A partial with one value. -/
def openPartial (op etype pa v : Nat) : Partial :=
  if op = 1 then
    let (h, t) := faddTerm (updFmt etype) v
    { pa := pa, flags := h, acc := t }
  else if op = 0xc then { pa := pa, acc := 1 }
  else
    { pa := pa, flags := if op = 7 ∨ op = 8 then (faddTerm f32 v).1 else 0, acc := (v % 2 ^ updWidth etype : Nat) }

/-- A value combined into a partial, with flags; none when the sum leaves the range of ACC. -/
def addPartial (op etype : Nat) (p : Partial) (v : Nat) : Option (Partial × Nat) :=
  let q := openPartial op etype p.pa v
  if op = 1 then
    let t := p.acc + q.acc
    if -(2 ^ 319 : Int) ≤ t ∧ t < 2 ^ 319 then some ({ p with flags := p.flags ||| q.flags, acc := t }, 0) else none
  else
    let (x, f) := combine op (updWidth etype) p.acc.toNat q.acc.toNat
    some ({ p with flags := p.flags ||| q.flags, acc := (x : Nat) }, f)

/-- New value of a FADD element (R248): one rounding of the old value and every partial. -/
def faddApply (f : Fmt) (v : Nat) (ps : List Partial) : Nat × Nat :=
  let h := ps.foldl (fun h p => h ||| p.flags) 0
  let acc := ps.foldl (fun t p => t + p.acc) 0
  let x := f.decode v
  let snan := x.isSig || bitAt h 1
  let nan := x.isNan || snan || bitAt h 2
  let pinf := x == .inf false || bitAt h 3
  let ninf := x == .inf true || bitAt h 4
  if nan || (pinf && ninf) then (f.nanc, if snan || (pinf && ninf) then nv else 0)
  else if pinf then f.inf false
  else if ninf then f.inf true
  else
    match x with
    | .fin neg m e =>
      let t := signed neg m * 2 ^ (e + 149).toNat + acc
      if t = 0 then (f.zero (neg && m == 0 && !bitAt h 0), 0)
      else f.roundFin .rne (decide (t < 0)) t.natAbs (-149)
    | _ => (f.nanc, 0)

/-- New value of an element with its flags. -/
def applyValue (op etype v : Nat) (ps : List Partial) : Nat × Nat :=
  if op = 1 then faddApply (updFmt etype) v ps
  else ps.foldl (fun r p =>
    let (x, f) := combine op (updWidth etype) r.1 p.acc.toNat
    (x, r.2 ||| f)) (v, 0)

/-- Apply the partials of one key: a poisoned line keeps its bytes, and the values are dropped and counted (R250); a poisoned
partial poisons the words of its element (07_memories R175, R182). -/
def State.applyKey (s : State) (i slice pa : Nat) (ps : List Partial) : State :=
  let r := s.region i
  let n := updWidth r.etype / 8
  if (s.poisonAt pa n).isSome then ((s.found (pa / 64)).bump 1 slice 7 ps.length).regStatus i (2 ^ 9)
  else if ps.any (·.bad) then
    let s := s.makeDirty (pa / 64)
    { s with wpoison := foldN (cdiv n 4) (fun j t => Tab.set false t (pa / 4 + j) true) s.wpoison }.recache
      (s.caches.home s.fill (pa / 64) true)
  else
    let (v, f) := applyValue r.op r.etype (s.num pa n) ps
    ((s.rawWrite pa n v (some (s.sysTag (pa / 64)))).regStatus i f)

/-- Insert a partial in ascending order of key address. -/
def insPartial (p : Partial) : List Partial → List Partial
  | [] => [p]
  | q :: l => if p.pa < q.pa then p :: q :: l else q :: insPartial p l

/-- The partials in ascending order of key address. -/
def sortPartials (l : List Partial) : List Partial := l.foldr insPartial []

/-- Apply a list of partials, key by key in ascending order. -/
def State.applyKeys (s : State) (i slice : Nat) (ps : List Partial) : State :=
  (((sortPartials ps).map (·.pa)).eraseDups).foldl
    (fun s k => s.applyKey i slice k (ps.filter fun p => p.pa == k)) s

/-! ### Bins, R243 -/

/-- A slice's bins, the most recently used first. -/
def State.binsOf (s : State) (slice : Nat) : List Bin := Tab.get [] s.bins slice

/-- Write a slice's bins. -/
def State.setBins (s : State) (slice : Nat) (l : List Bin) : State := { s with bins := Tab.set [] s.bins slice l }

/-! ### Apply, R249 and R250 -/

/-- Apply a block: the partials of its bin and its spill records, which return to the log. -/
def State.applyBlock (s : State) (block : Nat) : State :=
  match s.regionAt (block * 4096) with
  | none => s
  | some i =>
    let slice := homeSlice (block * 4096)
    let inBin := ((s.binsOf slice).find? fun b => b.block == block).map (·.keys) |>.getD []
    let recs := Tab.get [] s.logs i
    let inLog := (recs.filter fun x => x.2.pa / 4096 == block).map (·.2)
    if inBin.isEmpty && inLog.isEmpty then s
    else
      let s := s.setBins slice ((s.binsOf slice).filter fun b => b.block != block)
      let s := { s with logs := Tab.set [] s.logs i (recs.filter fun x => x.2.pa / 4096 != block) }
      (s.applyKeys i slice (inBin ++ inLog)).bump 1 slice 3 1

/-- Something is pending for a block. -/
def State.blockPending (s : State) (block : Nat) : Bool :=
  match s.regionAt (block * 4096) with
  | none => false
  | some i =>
    (s.binsOf (homeSlice (block * 4096))).any (fun b => b.block == block && !b.keys.isEmpty) ||
      (Tab.get [] s.logs i).any fun x => x.2.pa / 4096 == block

/-- Any read or write of a local address applies its block first when it lies in a region (R249). -/
def State.applyAt (s : State) (a n : Nat) : State :=
  if isTier a then
    let s := s.applyBlock (a / 4096)
    if (a + (n - 1)) / 4096 = a / 4096 then s else s.applyBlock (a / 4096 + 1)
  else s

/-! ### Reads and writes of the part itself, R249 -/

/-- The part reads `n` bytes of memory for its own use, as the scheduler or the walker, line by line: what is pending for their
blocks is applied, and an error is found (07_memories R180). The bytes are then those of the state. -/
def State.sysRead (s : State) (a n fuel : Nat) : State :=
  match fuel with
  | 0 => s
  | f + 1 =>
    if n = 0 then s
    else
      let m := Nat.min n (64 - a % 64)
      let s := s.applyAt a m
      ((s.found (a / 64)).recache (s.cacheRead none a none)).sysRead (a + m) (n - m) f

/-- Write the `n` low bytes of `v` at a tier address as the scheduler or the walker does, line by line: what is
pending for the block is applied first. A write that an instruction makes in this way is one of its thread (08_ordering R187). -/
def State.sysWrite (s : State) (a n v fuel : Nat) (by' : By := .home) : State :=
  match fuel with
  | 0 => s
  | f + 1 =>
    if n = 0 then s
    else
      let m := Nat.min n (64 - a % 64)
      ((s.applyAt a m).rawWrite a m (v % 256 ^ m) (some (s.sysTag (a / 64))) by').sysWrite (a + m) (n - m) (v / 256 ^ m) f by'

/-- Whether any line of [a, a + n) reads as poison, for reads by the part itself. -/
def State.anyPoison (s : State) (a n fuel : Nat) : Bool :=
  match fuel with
  | 0 => false
  | f + 1 =>
    if n = 0 then false
    else
      let m := Nat.min n (64 - a % 64)
      (s.poisonAt a m).isSome || s.anyPoison (a + m) (n - m) f

end Sys2Proof.Machine
end

