-- ==== Sys2Proof/Machine/Place.lean ====
section
/-! DEFINITION. Where continuations stand: run queues, waiter lists and the wakes of semaphores (15_counters R371 to
R375; 17_work R409, R410, R425, R426; 06_ins_control R151), with fault records, which signal semaphores (R412,
R413). -/
namespace Sys2Proof.Machine

/-! ### Access to the tables of work -/

/-- Number of group `idx` of launch `lid`. -/
def gidOf (lid idx : Nat) : Nat := lid * 2 ^ 24 + idx
/-- Number of continuation `i` of a group. -/
def contId (gid i : Nat) : Nat := gid * 2 ^ 16 + i
/-- The group of a continuation. -/
def contGroup (c : Nat) : Nat := c / 2 ^ 16
/-- The index of a continuation within its group. -/
def contIdx (c : Nat) : Nat := c % 2 ^ 16

def State.cont (s : State) (c : Nat) : Cont := Tab.get {} s.conts c
def State.setCont (s : State) (c : Nat) (k : Cont) : State := { s with conts := Tab.set {} s.conts c k }
def State.group (s : State) (g : Nat) : Group := Tab.get {} s.groups g
def State.setGroup (s : State) (g : Nat) (x : Group) : State := { s with groups := Tab.set {} s.groups g x }
def State.launch (s : State) (l : Nat) : Launch := Tab.get {} s.launches l
def State.setLaunch (s : State) (l : Nat) (x : Launch) : State := { s with launches := Tab.set {} s.launches l x }
def State.sem (s : State) (n : Nat) : Sem := Tab.get {} s.sems n
def State.setSem (s : State) (n : Nat) (x : Sem) : State := { s with sems := Tab.set {} s.sems n x }

/-! ### Banks -/

/-- The bank of a requester: 0 to 4,095 a thread bank by its CHAN (R95), 4,096 + n service core n. -/
def State.bank (s : State) (r : Nat) : Bank :=
  if r < 4096 then Tab.get threadReset s.banks r else Tab.get svcReset s.svcs (r - 4096)

/-- Write the bank of a requester. -/
def State.setBank (s : State) (r : Nat) (b : Bank) : State :=
  if r < 4096 then { s with banks := Tab.set threadReset s.banks r b }
  else { s with svcs := Tab.set svcReset s.svcs (r - 4096) b }

/-- The bank that acts. -/
def State.b (s : State) : Bank := s.bank s.cur

/-- Write the bank that acts. -/
def State.setB (s : State) (b : Bank) : State := s.setBank s.cur b

/-- A service core. -/
def isSvc (r : Nat) : Bool := 4096 ≤ r

/-- Cluster of a requester. A service core belongs to none (R12); whose scratch it reaches is open (R171), a constant of
the part (assumption 12). -/
def clusterOf (r : Nat) : Nat := if r < 4096 then r / 128 else Config.svcCluster (r - 4096) % 32

/-- Slot of a thread bank, over the package. -/
def slotOf (r : Nat) : Nat := r / 2

/-- Core of a requester: 0 to 127 access cores, 128 + n service cores. -/
def coreOf (r : Nat) : Nat := if r < 4096 then r / 32 else 128 + (r - 4096)

/-- The other bank of a thread slot. -/
def otherBank (r : Nat) : Nat := if r % 2 = 0 then r + 1 else r - 1

/-- The active bank of a thread slot (R88). -/
def State.activeBank (s : State) (slot : Nat) : Nat := slot * 2 + Tab.get 0 s.active slot % 2

/-- Make a bank the active one of its slot. -/
def State.activate (s : State) (r : Nat) : State :=
  { s with active := Tab.set 0 s.active (slotOf r) (r % 2) }

/-! ### Effective values of region control blocks, R409 and R410 -/

/-- A dword of the held copy of an RCB; the scheduler reads an RCB only at the points of R411. -/
def State.rcb (s : State) (pa n : Nat) : Nat := (Tab.get [] s.rcbs pa).getD n 0

/-- The RCBs from a leaf to the root, at most 64 steps (R460). -/
def State.rcbPath (s : State) (pa fuel : Nat) : List Nat :=
  match fuel with
  | 0 => []
  | f + 1 => if s.rcb pa 0 = 0 then [pa] else pa :: s.rcbPath (s.rcb pa 0 / 128 * 128) f

/-- The dword of the nearest node whose OVR bit is set. -/
def State.effective (s : State) (path : List Nat) (bit n : Nat) : Nat :=
  match path with
  | [] => 0
  | p :: rest => if bitAt (s.rcb p 1) bit then s.rcb p n else s.effective rest bit n

/-- Effective value of a leaf (R410). -/
def State.eff (s : State) (leaf bit n : Nat) : Nat := s.effective (s.rcbPath leaf 65) bit n

/-- Effective priority of a leaf. -/
def State.prio (s : State) (leaf : Nat) : Nat := fld (s.eff leaf 11 3) 2 0

/-- The leaf region of a continuation. -/
def State.contLeaf (s : State) (c : Nat) : Nat := (s.group (contGroup c)).leaf

/-! ### Run queues, R426 -/

/-- Number of the run queue of a continuation: its home cluster, or 32 for the unbound queue (R145). -/
def State.queueOf (s : State) (c : Nat) : Nat :=
  if (s.cont c).ub then 32 else (s.group (contGroup c)).home.getD 0

/-- A continuation enters the tail of its run queue, which lists them in order of arrival; a bank that takes one goes by their
effective priorities of that time (R145, R426). -/
def State.enqueue (s : State) (c : Nat) : State :=
  let q := s.queueOf c
  let s := s.setCont c { s.cont c with st := .ready, place := .runq, bank := none }
  { s with runqs := Tab.set [] s.runqs q (Tab.get [] s.runqs q ++ [c]) }

/-- A continuation leaves every run queue. -/
def State.unqueue (s : State) (c : Nat) : State :=
  let q := s.queueOf c
  { s with runqs := Tab.set [] s.runqs q ((Tab.get [] s.runqs q).filter (· != c)) }

/-- Whether a group holds its continuations (R151). -/
def Group.holds (g : Group) : Bool := g.st == .preempting || g.st == .preempted || g.restore

/-- Place a continuation at the tail of its run queue, or hold it there (R151). -/
def State.place (s : State) (c : Nat) : State :=
  if (s.group (contGroup c)).holds then
    s.setCont c { s.cont c with st := .held, place := .runq, bank := none }
  else s.enqueue c

/-- A continuation waits at a place; while its group is marked it is held and what falls due is recorded (R151). -/
def State.waitAt (s : State) (c : Nat) (p : Place) : State :=
  let st : ContState := if (s.group (contGroup c)).holds then .held else .waiting
  s.setCont c { s.cont c with st := st, place := p, bank := none }

/-- A count of the bank's class 0x00 event counters (15_counters R383). -/
def Bank.count (b : Bank) (n : Nat) : Bank :=
  { b with perf := Tab.set 0 b.perf n ((Tab.get 0 b.perf n + 1) % 2 ^ 64) }

/-- A service core that stopped at SEMW or BARW completes it (R150). -/
def State.svcResume (s : State) (n : Nat) : State :=
  let b := s.bank (4096 + n)
  s.setBank (4096 + n) { ((b.count 1).count 2) with susp := none, pc := b.pc + 4 }

/-- A waiter whose condition is met. -/
def State.wake (s : State) (w : Who) : State :=
  match w with
  | .cont c => s.place c
  | .svc n => s.svcResume n

/-- Entry of State.pre of a waiter. -/
def preWho : Who → Nat
  | .cont c => preCont c
  | .svc n => 4096 + n

/-- A waiter leaves every list (R150). -/
def State.dropWaiter (s : State) (w : Who) : State :=
  { s with
    sems := s.sems.filterMap fun e =>
      let x : Sem := { e.2 with waiters := e.2.waiters.filter fun y => y.who != w }
      if x = {} then none else some (e.1, x)
    bars := s.bars.filterMap fun e =>
      let l := e.2.filter fun y => y.who != w
      if l = [] then none else some (e.1, l) }

/-- Wake in list order. -/
def State.wakeAll (s : State) (l : List Who) : State := l.foldl (fun s w => s.wake w) s

/-! ### Semaphores, R371 to R375 -/

/-- Remove and wake every waiter whose threshold the count meets, in list order (R373): each SEMW that completes is an acquire at package
scope (08_ordering R202). -/
def State.wakeMet (s : State) (n : Nat) : State :=
  let x := s.sem n
  let s := s.setSem n { x with waiters := x.waiters.filter fun w => x.count < w.thr }
  let l := (x.waiters.filter fun w => decide (w.thr ≤ x.count)).map (·.who)
  (l.foldl (fun s w => s.preAcquire (preWho w) 2) s).wakeAll l

/-- SEMS of `v` on semaphore `n`: the count saturates at 2^32 − 1. -/
def State.semSignal (s : State) (n v : Nat) : State :=
  let x := s.sem n
  (s.setSem n { x with count := Nat.min (x.count + v) (2 ^ 32 - 1) }).wakeMet n

/-- A write of VALUE. -/
def State.semValue (s : State) (n v : Nat) : State :=
  (s.setSem n { s.sem n with count := v % 2 ^ 32 }).wakeMet n

/-! ### Fault records, R412 and R413 -/

/-- A fault record. -/
structure FaultRec where
  kind : Nat
  cause : Nat := 0
  leaf : Nat := 0
  who : Nat := 0
  loc : Nat := 0
  addr : Nat := 0
  info : Nat := 0
  pc : Nat := 0
  deriving DecidableEq, Repr

/-- The 64 bytes of a record made at TIME `t` (R413). -/
def FaultRec.bytes (r : FaultRec) (t : Nat) : Nat :=
  (r.kind % 256 + r.cause % 256 * 256) + r.leaf % 2 ^ 64 * 2 ^ 64 + r.who % 2 ^ 64 * 2 ^ 128 + r.loc % 2 ^ 64 * 2 ^ 192
    + r.addr % 2 ^ 64 * 2 ^ 256 + r.info % 2 ^ 64 * 2 ^ 320 + r.pc % 2 ^ 64 * 2 ^ 384 + t % 2 ^ 64 * 2 ^ 448

/-- WHO of a group (R413). -/
def Group.who (g : Group) : Nat := g.lid % 2 ^ 32 + g.idx % 2 ^ 24 * 2 ^ 32

/-- A line where the scheduler keeps a descriptor or a ring of records: in a tier of this package and in no spill log. -/
def State.recPlace (s : State) (pa : Nat) : Bool := pa / 2 ^ 42 == s.pkg && isTier (paLocal pa) && !s.inLog (paLocal pa)

/-- Add a record to the queue whose descriptor lies at physical address `d`, or count an overrun (R412). A descriptor that reads as poison
(16_tables R400), and a descriptor or a ring that lies outside the tiers of this package or in a spill log, takes no record
(assumption 72). -/
def State.appendRecord (s : State) (d : Nat) (r : FaultRec) : State :=
  let d := d / 64 * 64
  if !s.recPlace d then s
  else
    let d := paLocal d
    let s := s.sysRead d 40 1
    let base := s.num d 8
    let ctl := s.num (d + 8) 8
    let head := s.num (d + 16) 8
    let tail := s.num (d + 24) 8
    let len := 2 ^ Nat.min (fld ctl 4 0) 20
    let at' := base / 64 * 64 + tail % len * 64
    if s.anyPoison d 40 1 then s
    else if (tail + 2 ^ 64 - head) % 2 ^ 64 < len then
      if s.recPlace at' then
        let s := s.sysWrite (paLocal at') 64 (r.bytes s.time) 2
        let s := s.sysWrite (d + 24) 8 (tail + 1) 2
        if bitAt ctl 31 then s.semSignal (fld ctl 27 16) 1 else s
      else s
    else s.sysWrite (d + 32) 8 (s.num (d + 32) 8 + 1) 2

/-- Add a record to the supervisor queue named by FAULTQ; with V = 0 it is dropped (R408). -/
def State.faultqRecord (s : State) (r : FaultRec) : State :=
  if bitAt s.faultq 0 then s.appendRecord (s.faultq / 64 * 64) r else s

/-- Add a record to the fault domain of a group (R409 FDOM, R413). -/
def State.domainRecord (s : State) (gid : Nat) (r : FaultRec) : State :=
  let g := s.group gid
  let r := { r with leaf := g.leaf, who := g.who }
  let d := s.eff g.leaf 12 4
  if d = 0 then s.faultqRecord r else s.appendRecord d r

end Sys2Proof.Machine
end

