-- ==== Sys2Proof/Machine/Ops.lean ====
section
/-! DEFINITION. The named operations of an issuing bank: registers, poison marks, the wait on awaited registers, the
STAT register, taking an exception and returning from one (04_registers R88 to R98; 05_ins_compute R106;
06_ins_control R152 to R158; 07_memories R182). -/
namespace Sys2Proof.Machine

/-! ### Registers -/

/-- A general register; g0 reads zero (R88). -/
def Bank.gpr (b : Bank) (i : Nat) : Word := if i = 0 then 0 else Tab.get 0 b.g i

/-- Write a general register with its mark; writes to g0 are discarded (R88). A whole write clears the mark (R182). -/
def Bank.setGpr (b : Bank) (i : Nat) (w : Word) : Bank :=
  if i = 0 then b else { b with g := Tab.set 0 b.g i w, gmark := Tab.set none b.gmark i none }

/-- Write part of a general register: the mark stays (R182). -/
def Bank.setGprPart (b : Bank) (i : Nat) (w : Word) : Bank :=
  if i = 0 then b else { b with g := Tab.set 0 b.g i w }

/-- A vector register. -/
def Bank.vreg (b : Bank) (i : Nat) : VWord := Tab.get 0 b.v i

/-- Write a whole vector register and clear its mark (R182). -/
def Bank.setVreg (b : Bank) (i : Nat) (w : VWord) : Bank :=
  { b with v := Tab.set 0 b.v i w, vmark := Tab.set none b.vmark i none }

/-- Write some lanes of a vector register: the mark stays (R182). -/
def Bank.setVregPart (b : Bank) (i : Nat) (w : VWord) : Bank := { b with v := Tab.set 0 b.v i w }

/-- A mask register; k0 reads 0xFFFF (R88). -/
def Bank.kreg (b : Bank) (i : Nat) : BitVec 16 := if i = 0 then 0xffff else Tab.get 0 b.k i

/-- Write a mask register; writes to k0 are discarded (R88). -/
def Bank.setKreg (b : Bank) (i : Nat) (w : BitVec 16) : Bank :=
  if i = 0 then b else { b with k := Tab.set 0 b.k i w }

/-- Mark a general register as poisoned (R182); g0 takes no mark. -/
def Bank.markG (b : Bank) (i : Nat) (m : Mark) : Bank :=
  if i = 0 then b else { b with gmark := Tab.set none b.gmark i (some m) }

/-- Mark a vector register as poisoned (R182). -/
def Bank.markV (b : Bank) (i : Nat) (m : Mark) : Bank := { b with vmark := Tab.set none b.vmark i (some m) }

/-- PC is set by an exception entry or a return. -/
def Bank.goto (b : Bank) (t : Word) : Bank := { b with pc := t, stalled := none, waited := none }

/-- An instruction completes with PC at `t`: it is counted (R383). A queue instruction that a handler interrupted stays
the same dynamic instruction until it, or another instruction of its mode, completes (12_queues R291). -/
def Bank.jump (b : Bank) (t : Word) : Bank :=
  { ((b.count 1).goto t) with
    again := if b.stat.toNat % 2 = 1 then b.again else none
    againP := if b.stat.toNat % 2 = 1 then none else b.againP }

/-- An instruction completes and PC advances by its length. -/
def Bank.advance (b : Bank) (n : Nat) : Bank := b.jump (b.pc + BitVec.ofNat 64 n)

/-- A memory-class instruction completes (R383, R458). -/
def Bank.advanceM (b : Bank) (n : Nat) : Bank := (b.count 2).advance n

/-! ### STAT, R90 and R91 -/

/-- STAT.MODE: 1 privileged. -/
def Bank.priv (b : Bank) : Bool := b.stat.toNat % 2 == 1
/-- STAT.UB. -/
def Bank.ub (b : Bank) : Bool := bitAt b.stat.toNat 2
/-- STAT.FLAGS, the vector of R54. -/
def Bank.flags (b : Bank) : Nat := fld b.stat.toNat 12 8
/-- STAT.VRM. -/
def Bank.vrm (b : Bank) : Nat := fld b.stat.toNat 15 13
/-- The vector rounding mode of a bank (02_numbers R42). -/
def Bank.rm (b : Bank) : RMode := rmOf b.vrm
/-- STAT.GRAPH. -/
def Bank.graph (b : Bank) : Bool := bitAt b.stat.toNat 19

/-- One bit of STAT set or cleared. -/
def Bank.statBit (b : Bank) (n : Nat) (v : Bool) : Bank :=
  { b with stat := BitVec.ofNat 64 (putFld b.stat.toNat n n (bit01 v)) }

/-- Flags merged into STAT.FLAGS (R122). -/
def Bank.orFlags (b : Bank) (f : Nat) : Bank :=
  { b with stat := b.stat ||| BitVec.ofNat 64 (f % 32 * 256) }

/-- VRM and FLAGS written from bits 15:8 of a value (R92, R159); VRM 6 and 7 follow R43 and write nothing. -/
def Bank.writeStat (b : Bank) (v : Nat) : Bank :=
  let f := putFld b.stat.toNat 12 8 (fld v 12 8)
  let r := fld v 15 13
  { b with stat := BitVec.ofNat 64 (if r < 6 then putFld f 15 13 r else f) }

/-- STAT as it reads, with BANK naming the bank (R90). -/
def Bank.readStat (b : Bank) (r : Nat) : Word :=
  BitVec.ofNat 64 (putFld b.stat.toNat 1 1 (if r < 4096 then r % 2 else 0))

/-- The lowest pending bit among 16, 17, 18 and 20 (R91). -/
def Bank.pending (b : Bank) : Option Nat :=
  let w := b.stat.toNat
  if bitAt w 16 then some 16 else if bitAt w 17 then some 17 else if bitAt w 18 then some 18
  else if bitAt w 20 then some 20 else none

/-- RCHAN of a requester (R95). -/
def State.rchan (s : State) (r : Nat) : Nat :=
  (if r < 4096 then r else r - 4096) + s.rinc % 256 * 2 ^ 12 + s.pkg % 4096 * 2 ^ 20 + bit01 (isSvc r) * 2 ^ 32

/-! ### Awaited registers, R106 and R211 -/

/-- A register that an instruction reads or writes. -/
inductive Reg where
  | g (i : Nat)
  | v (i : Nat)
  deriving DecidableEq, Repr

/-- The register that a destination writes, if it is not g0. -/
def Dst.reg : Dst → Option Reg
  | .g r _ _ => if r = 0 then none else some (.g r)
  | .v r => some (.v r)
  | .lane r _ _ => some (.v r)

/-- A register as a pair: whether it is a vector register, and its number. -/
def Reg.pair : Reg → Bool × Nat
  | .g i => (false, i)
  | .v i => (true, i)

/-- A register of a pair. -/
def Reg.ofPair (x : Bool × Nat) : Reg := if x.1 then .v x.2 else .g x.2

/-- Whether a remote operation of a requester will write a register. -/
def State.remoteAwaits (s : State) (r : Nat) (x : Reg) : Bool :=
  s.rops.any fun e => match e.2 with
    | some o => o.who == r && o.eng.isNone && o.held.isNone && o.dsts.any fun d => d.reg == some x
    | none => false

/-- Whether an outstanding local load of a bank will write a register. -/
def Bank.localAwaits (b : Bank) (x : Reg) : Bool :=
  b.reqs.any fun q => match q.dst with
    | some d => d.reg == some x
    | none => false

/-- A register of the acting bank awaits an older load. -/
def State.awaits (s : State) (x : Reg) : Bool := s.b.localAwaits x || s.remoteAwaits s.cur x

/-- The poison mark of a register. -/
def Bank.mark (b : Bank) : Reg → Option Mark
  | .g i => if i = 0 then none else Tab.get none b.gmark i
  | .v i => Tab.get none b.vmark i

/-- The first marked register of a list. -/
def Bank.firstMark (b : Bank) : List Reg → Option (Reg × Mark)
  | [] => none
  | x :: l => match b.mark x with
    | some m => some (x, m)
    | none => b.firstMark l

/-- REG and VREG of EINFO (R179). -/
def Reg.einfo : Reg → Nat
  | .g i => i * 2 ^ 12
  | .v i => i * 2 ^ 12 + 2 ^ 17

/-! ### Exceptions, R152 to R155 -/

/-- Whether every older load of a requester has written its destination (R154 step 1). -/
def State.loadsDone (s : State) (r : Nat) : Bool :=
  (s.bank r).reqs.all (fun q => q.dst.isNone) &&
    s.rops.all fun e => match e.2 with
      | some o => !(o.who == r && o.eng.isNone && o.held.isNone && !o.dsts.isEmpty)
      | none => true

/-- The trap entry address of a requester, bits 1:0 taken as zero: TRAP of the leaf region of its continuation's
group, or STRAP on a service core (R154, R447). -/
def State.trapEntry (s : State) (r : Nat) : Word :=
  let a := if r < 4096 then
      match (s.bank r).cont with
      | some c => s.eff (s.contLeaf c) 13 5
      | none => 0
    else Tab.get 0x20000 s.strap (r - 4096)
  BitVec.ofNat 64 (a / 4 * 4)

/-- Steps 2 to 4 of R154: the exception registers, MODE and PC. -/
def State.enterNow (s : State) (r : Nat) (x : Exc) : State :=
  let b := s.bank r
  let b := { b with
    epc := x.epc
    ecause := BitVec.ofNat 64 x.cause
    einfo := BitVec.ofNat 64 x.einfo
    eaddr := BitVec.ofNat 64 x.eaddr
    entering := none
    susp := none
    todo := []
    busy := none
    record := none }
  s.setBank r ((b.statBit 0 true).goto (s.trapEntry r))

/-- Exception entry (R154): it waits for older loads; a thread slot in privileged mode stops instead and writes a
record of kind PRIVEXC (R155). -/
def State.takeExc (s : State) (r : Nat) (x : Exc) : State :=
  let b := s.bank r
  if r < 4096 && b.priv then
    let s := s.setBank r { b with stopped := true, susp := none, entering := none }
    s.faultqRecord
      { kind := 5, cause := x.cause, loc := r, addr := x.eaddr, info := x.einfo, pc := b.pc.toNat,
        leaf := match b.cont with | some c => s.contLeaf c | none => 0,
        who := match b.cont with | some c => (s.group (contGroup c)).who | none => 0 }
  else if s.loadsDone r then s.enterNow r x
  else s.setBank r { b with entering := some x }

/-- Return from exception (R158): PC := EPC with bits 1:0 zero; MODE := 0 on a thread slot. -/
def State.returnExc (s : State) (r : Nat) : State :=
  let b := s.bank r
  let b := b.jump (BitVec.ofNat 64 (b.epc.toNat / 4 * 4))
  s.setBank r (if r < 4096 then b.statBit 0 false else b)

/-! ### How an instruction ends -/

/-- The result of an instruction's checks and effect: it completes; it raises an exception with no other effect; it
takes a translation fault and parks (R98); or it waits, for one of the things that can park its bank when one is named. -/
inductive Res where
  | done (s : State)
  | exc (cause einfo eaddr : Nat)
  | fault3 (einfo eaddr : Nat)
  | wait (on : Option WaitOn)
  | stall
  deriving DecidableEq, Repr

/-- An exception of the instruction at PC. -/
def State.raise (s : State) (cause einfo eaddr : Nat) : State :=
  s.takeExc s.cur { cause := cause, epc := s.b.pc, einfo := einfo, eaddr := eaddr }

/-- Illegal instruction with a subcode (R76). -/
def State.illegal (s : State) (sub : Nat) : State := s.raise 1 sub 0

/-- A translation fault parks a thread bank with its exception registers set (R98) and writes a record of kind XLATE;
a service core, which cannot park, takes exception 0x03 (R155). -/
def State.parkFault (s : State) (einfo eaddr : Nat) : State :=
  if isSvc s.cur then s.raise 3 einfo eaddr
  else
    let b := s.b
    let s := s.setB (Bank.count { b with
      epc := b.pc
      ecause := 3
      einfo := BitVec.ofNat 64 einfo
      eaddr := BitVec.ofNat 64 eaddr
      park := some { kind := 0 }
      stalled := none
      waited := none } 3)
    match b.cont with
    | some c =>
      let s := s.setCont c { s.cont c with st := .parked }
      s.domainRecord (contGroup c) { kind := 9, cause := 3, loc := s.cur, addr := eaddr, info := einfo, pc := b.pc.toNat }
    | none => s.faultqRecord { kind := 9, cause := 3, loc := s.cur, addr := eaddr, info := einfo, pc := b.pc.toNat }

/-- An instruction waits: its clock starts, or goes on, when the wait can park the bank (R98). -/
def State.waitOn (s : State) (w : Option WaitOn) : State :=
  let b := s.b
  s.setB { b with waited := w.map fun w => ((b.waited.map (·.1)).getD s.cycle, w) }

/-- Apply a result to the state before the instruction. A wait keeps the instruction. -/
def State.finish (s : State) : Res → State
  | .done t => t
  | .exc c i a => s.raise c i a
  | .fault3 i a => s.parkFault i a
  | .wait w => s.waitOn w
  | .stall =>
    let b := s.b
    s.setB { b with stalled := some (b.stalled.getD s.cycle) }

/-- The start of every instruction: it waits while a register it reads or writes is awaited (R106), and takes
exception 0x06 when a register it reads carries a poison mark (R182); otherwise it runs. -/
def State.issue (s : State) (reads writes : List Reg) (k : State → Res) : State :=
  if (reads ++ writes).any s.awaits then
    let l := (reads ++ writes).filter (s.remoteAwaits s.cur)
    s.finish (.wait (if l.isEmpty then none else some (.regs (l.map Reg.pair))))
  else
    match s.b.firstMark reads with
    | some (x, m) => s.raise 6 (x.einfo + m.reason * 2 ^ 9) m.va.toNat
    | none => s.finish (k (s.preWritten s.cur (writes.map Reg.pair)))

/-- The acting bank changes and PC advances by `n`. -/
def State.next (s : State) (n : Nat) (f : Bank → Bank) : Res := .done (s.setB ((f s.b).advance n))

/-- An instruction that reads some registers, writes one general register and advances by `n`. -/
def State.writeG (s : State) (n : Nat) (reads : List Reg) (d : BitVec 5) (f : Bank → Word) : State :=
  s.issue reads [.g d.toNat] fun s => s.next n fun b => b.setGpr d.toNat (f b)

/-- As writeG for an instruction that keeps part of its destination (R182). -/
def State.writeGPart (s : State) (n : Nat) (reads : List Reg) (d : BitVec 5) (f : Bank → Word) : State :=
  s.issue reads [.g d.toNat] fun s => s.next n fun b => b.setGprPart d.toNat (f b)

/-- A privileged instruction in user mode raises exception 0x01 with subcode PRIV (R76). -/
def State.privileged (s : State) (k : State → State) : State := if s.b.priv then k s else s.illegal 4

/-- A free value and the count behind it (assumption 3). -/
def State.freeWord (s : State) : Word × State := (Config.freeWord s.fresh, { s with fresh := s.fresh + 1 })

end Sys2Proof.Machine
end

