-- ==== Sys2Proof/Machine/Operands.lean ====
section
/-! DEFINITION. Operand forms: immediates, offsets and effective addresses (03_encoding R62, R65, R74; 09_ins_memory
R208, R215), and the element and lane views of vector registers (04_registers R89; 05_ins_compute R121, R122). -/
namespace Sys2Proof.Machine

/-- A signed field as a 64-bit value (R62, R65). -/
def sextW {n : Nat} (x : BitVec n) : Word := x.signExtend 64

/-- A zero-extended field (R65). -/
def zextW {n : Nat} (x : BitVec n) : Word := x.setWidth 64

/-- Branch target: PC + sext(off) × 4 modulo 2^64 (R62, R137). -/
def target {n : Nat} (pc : Word) (o : BitVec n) : Word := pc + sextW o * 4

/-- Access size in bytes of a 2-bit size field (R69). -/
def sizeOf' (s : BitVec 2) : Nat := 2 ^ s.toNat

/-- Size of a one-bit field that stands for size 10 or 11 (R220, R240). -/
def sizeWd (z : BitVec 1) : Nat := if z = 0 then 4 else 8

/-- Effective address of the M format: g[base] + sext(off9) × scale (R208). -/
def eaOff (base : Word) (f : BitVec 9) (scale : Nat) : Word := base + sextW f * BitVec.ofNat 64 scale

/-- Effective address of the XM form: g[base] + sext(literal) (R74, R208). -/
def eaLit (base : Word) (lit : BitVec 32) : Word := base + sextW lit

/-- Address of a lane: g[base] + zext(index) × 2^h (R70, R215). -/
def eaLane (base : Word) (idx h : Nat) : Word := base + BitVec.ofNat 64 (idx * 2 ^ h)

/-! ### Elements and lanes -/

/-- Element `e` of width `w` of a register value (R121). -/
def elem (v : VWord) (w e : Nat) : Nat := v.toNat / 2 ^ (w * e) % 2 ^ w

/-- The register with the elements f 0, …, f (n − 1) of width `w`, each modulo 2^w. -/
def packN (w : Nat) (f : Nat → Nat) : Nat → Nat
  | 0 => 0
  | n + 1 => packN w f n + f n % 2 ^ w * 2 ^ (w * n)

/-- A register value of `512 / w` elements. -/
def ofElems (w : Nat) (f : Nat → Nat) : VWord := BitVec.ofNat 512 (packN w f (512 / w))

/-- Element width of an etype (R121). -/
def etWidth (e : Nat) : Nat :=
  match e with
  | 0 => 8 | 1 => 16 | 2 => 32 | 3 => 64 | 4 => 32 | 5 => 16 | 6 => 16 | _ => 32

/-- Lane width of an etype's lane view: 64 for I64, 32 otherwise (R121). -/
def laneW (e : Nat) : Nat := if e = 3 then 64 else 32

/-- A lane is selected by a mask (R89, R122). -/
def laneOn (k : BitVec 16) (i : Nat) : Bool := k.getLsbD i

/-- Elements of active lanes from `f`, the others kept from `old` (R122). -/
def maskElems (e : Nat) (k : BitVec 16) (old : VWord) (f : Nat → Nat) : VWord :=
  let w := etWidth e
  ofElems w fun i => if laneOn k (i * w / laneW e) then f i else elem old w i

/-- Every lane of the lane view is active. -/
def allLanes (e : Nat) (k : BitVec 16) : Bool := (tabulate (512 / laneW e) fun i => laneOn k i).all id

end Sys2Proof.Machine
end

