-- ==== Sys2Proof/Machine/Alu.lean ====
section
/-! DEFINITION. Integer instructions on general registers (05_ins_compute R106 to R120; 02_numbers R29 to R32). -/
namespace Sys2Proof.Machine

/-! ### Functions -/

/-- Signed quotient truncated towards zero; 0 for a zero divisor, MIN for MIN / −1 (R31, R109). -/
def divS (a b : Word) : Word := if b = 0 then 0 else BitVec.sdiv a b

/-- Unsigned quotient; 0 for a zero divisor (R31). -/
def divU (a b : Word) : Word := if b = 0 then 0 else BitVec.udiv a b

/-- Signed remainder with the sign of the dividend; the dividend for a zero divisor (R31). -/
def remS (a b : Word) : Word := a - b * divS a b

/-- Unsigned remainder (R31). -/
def remU (a b : Word) : Word := a - b * divU a b

/-- High half of the signed product (R32). -/
def mulHi (a b : Word) : Word := BitVec.ofInt 64 (a.toInt * b.toInt / 2 ^ 64)

/-- High half of the unsigned product (R32). -/
def mulHiU (a b : Word) : Word := BitVec.ofNat 64 (a.toNat * b.toNat / 2 ^ 64)

/-- Shift amount: the low 8 bits (R30). -/
def shAmt (b : Word) : Nat := b.toNat % 256

/-- A 32-bit result sign-extended (R114). -/
def sext32 (x : BitVec 32) : Word := x.signExtend 64

/-- Truth as 0 or 1. -/
def boolW (c : Bool) : Word := if c then 1 else 0

/-- IDX2 (R116): i × ld + j within bounds, all ones outside. -/
def idx2Val (a b : Word) : Word :=
  let i := a.toNat % 2 ^ 32
  let j := a.toNat / 2 ^ 32
  let ld := b.toNat % 2 ^ 32
  let rows := b.toNat / 2 ^ 32
  if ld ≤ j ∨ (rows ≠ 0 ∧ rows ≤ i) then BitVec.allOnes 64 else BitVec.ofNat 64 (i * ld + j)

/-- CLAMP (R112). -/
def clampVal (d a b : Word) : Word :=
  let t := if d.slt a then a else d
  if b.slt t then b else t

/-- The value that an ALU function writes, from g[d], its operands and its shift (R109 to R116). -/
def aluVal (f : AluOp) (d a b : Word) (sh : Nat) : Word :=
  match f with
  | .add => a + b
  | .sub => a - b
  | .mul => a * b
  | .mulh => mulHi a b
  | .mulhu => mulHiU a b
  | .div => divS a b
  | .divu => divU a b
  | .rem => remS a b
  | .remu => remU a b
  | .and => a &&& b
  | .or => a ||| b
  | .xor => a ^^^ b
  | .andn => a &&& ~~~b
  | .orn => a ||| ~~~b
  | .shl => a <<< shAmt b
  | .shr => a >>> shAmt b
  | .sra => a.sshiftRight (shAmt b)
  | .ror => a.rotateRight (shAmt b % 64)
  | .min => if a.sle b then a else b
  | .max => if b.sle a then a else b
  | .minu => if a ≤ b then a else b
  | .maxu => if b ≤ a then a else b
  | .slt => boolW (a.slt b)
  | .sltu => boolW (a.ult b)
  | .seq => boolW (a == b)
  | .sne => boolW (a != b)
  | .sel => if d ≠ 0 then a else b
  | .addw => sext32 (a.setWidth 32 + b.setWidth 32)
  | .subw => sext32 (a.setWidth 32 - b.setWidth 32)
  | .mulw => sext32 (a.setWidth 32 * b.setWidth 32)
  | .lea => a + b <<< sh
  | .clamp => clampVal d a b
  | .idx2 => idx2Val a b

/-- The functions that also read g[d] (R112). -/
def aluReadsD (f : AluOp) : Bool := f == .sel || f == .clamp

/-- Bits of a value, lowest first. -/
def bitsOf (n v : Nat) : List Bool :=
  match n with
  | 0 => []
  | k + 1 => (v % 2 == 1) :: bitsOf k (v / 2)

/-- Leading false entries of a list. -/
def leadingFalse : List Bool → Nat
  | [] => 0
  | b :: l => if b then 0 else leadingFalse l + 1

/-- A number from its bits, lowest first. -/
def ofBits : List Bool → Nat
  | [] => 0
  | b :: l => bit01 b + 2 * ofBits l

/-- Operand width of mod: 0 .d, 1 .w, 2 .h, 3 .b (R113). -/
def modWidth (m : Nat) : Nat := 64 / 2 ^ m

/-- CLZ: leading zeros of the w-bit operand; w if it is 0 (R113). -/
def clzVal (w x : Nat) : Nat := leadingFalse (bitsOf w x).reverse

/-- CTZ: trailing zeros; w if the operand is 0 (R113). -/
def ctzVal (w x : Nat) : Nat := leadingFalse (bitsOf w x)

/-- POPC: 1 bits of the operand (R113). -/
def popcVal (w x : Nat) : Nat := (bitsOf w x).countP id

/-- BREV: bit i moves to bit w − 1 − i (R113). -/
def brevVal (w x : Nat) : Nat := ofBits (bitsOf w x).reverse

/-- BSWAP: byte i moves to byte w / 8 − 1 − i (R113). -/
def bswapVal (w x : Nat) : Nat := ofBytes (bytesOf (w / 8) x).reverse

/-! ### Shared operations -/

/-- An ALU instruction: its b operand is a value of the bank, read from the registers `rb`. -/
def State.alu (s : State) (f : AluOp) (d a : BitVec 5) (rb : List Reg) (bv : Bank → Word) (sh n : Nat) : State :=
  s.writeG n ((if aluReadsD f then [.g d.toNat] else []) ++ .g a.toNat :: rb) d
    fun b => aluVal f (b.gpr d.toNat) (b.gpr a.toNat) (bv b) sh

/-- The three-register form. -/
def State.alu3 (s : State) (f : AluOp) (d a b : BitVec 5) (sh : Nat) : State :=
  s.alu f d a [.g b.toNat] (fun k => k.gpr b.toNat) sh 4

/-- A form with an immediate in place of b. -/
def State.aluImm (s : State) (f : AluOp) (d a : BitVec 5) (v : Word) (n : Nat) : State := s.alu f d a [] (fun _ => v) 0 n

/-- CLZ, CTZ, POPC, BREV and BSWAP: a function of the width and the operand (R113). -/
def State.unary (s : State) (f : Nat → Nat → Nat) (d a : BitVec 5) (m : BitVec 3) : State :=
  s.writeG 4 [.g a.toNat] d fun b =>
    let w := modWidth m.toNat
    BitVec.ofNat 64 (f w ((b.gpr a.toNat).toNat % 2 ^ w))

/-- LI, LUI: g[d] from the immediate alone (R119). -/
def State.setImm (s : State) (d : BitVec 5) (v : Word) (n : Nat) : State := s.writeG n [] d fun _ => v

/-- Bits lo + len − 1 : lo of g[d] from a value, the others kept. -/
def insBits (old : Word) (lo len v : Nat) : Word :=
  BitVec.ofNat 64 (putFld old.toNat (lo + len - 1) lo v)

/-! ### Instructions -/

/-- ADD gd, ga, gb (R109). -/
def execAdd (d a b : BitVec 5) (s : State) : Host.Outcome State Fault Refusal :=
  .next (s.alu3 .add d a b 0)

/-- SUB gd, ga, gb (R109). -/
def execSub (d a b : BitVec 5) (s : State) : Host.Outcome State Fault Refusal :=
  .next (s.alu3 .sub d a b 0)

/-- MUL gd, ga, gb (R109). -/
def execMul (d a b : BitVec 5) (s : State) : Host.Outcome State Fault Refusal :=
  .next (s.alu3 .mul d a b 0)

/-- MULH gd, ga, gb (R109). -/
def execMulh (d a b : BitVec 5) (s : State) : Host.Outcome State Fault Refusal :=
  .next (s.alu3 .mulh d a b 0)

/-- MULHU gd, ga, gb (R109). -/
def execMulhu (d a b : BitVec 5) (s : State) : Host.Outcome State Fault Refusal :=
  .next (s.alu3 .mulhu d a b 0)

/-- DIV gd, ga, gb (R109). -/
def execDiv (d a b : BitVec 5) (s : State) : Host.Outcome State Fault Refusal :=
  .next (s.alu3 .div d a b 0)

/-- DIVU gd, ga, gb (R109). -/
def execDivu (d a b : BitVec 5) (s : State) : Host.Outcome State Fault Refusal :=
  .next (s.alu3 .divu d a b 0)

/-- REM gd, ga, gb (R109). -/
def execRem (d a b : BitVec 5) (s : State) : Host.Outcome State Fault Refusal :=
  .next (s.alu3 .rem d a b 0)

/-- REMU gd, ga, gb (R109). -/
def execRemu (d a b : BitVec 5) (s : State) : Host.Outcome State Fault Refusal :=
  .next (s.alu3 .remu d a b 0)

/-- AND gd, ga, gb (R110). -/
def execAnd (d a b : BitVec 5) (s : State) : Host.Outcome State Fault Refusal :=
  .next (s.alu3 .and d a b 0)

/-- OR gd, ga, gb (R110). -/
def execOr (d a b : BitVec 5) (s : State) : Host.Outcome State Fault Refusal :=
  .next (s.alu3 .or d a b 0)

/-- XOR gd, ga, gb (R110). -/
def execXor (d a b : BitVec 5) (s : State) : Host.Outcome State Fault Refusal :=
  .next (s.alu3 .xor d a b 0)

/-- ANDN gd, ga, gb (R110). -/
def execAndn (d a b : BitVec 5) (s : State) : Host.Outcome State Fault Refusal :=
  .next (s.alu3 .andn d a b 0)

/-- ORN gd, ga, gb (R110). -/
def execOrn (d a b : BitVec 5) (s : State) : Host.Outcome State Fault Refusal :=
  .next (s.alu3 .orn d a b 0)

/-- SHL gd, ga, gb (R110). -/
def execShl (d a b : BitVec 5) (s : State) : Host.Outcome State Fault Refusal :=
  .next (s.alu3 .shl d a b 0)

/-- SHR gd, ga, gb (R110). -/
def execShr (d a b : BitVec 5) (s : State) : Host.Outcome State Fault Refusal :=
  .next (s.alu3 .shr d a b 0)

/-- SRA gd, ga, gb (R110). -/
def execSra (d a b : BitVec 5) (s : State) : Host.Outcome State Fault Refusal :=
  .next (s.alu3 .sra d a b 0)

/-- ROR gd, ga, gb (R110). -/
def execRor (d a b : BitVec 5) (s : State) : Host.Outcome State Fault Refusal :=
  .next (s.alu3 .ror d a b 0)

/-- MIN gd, ga, gb (R111). -/
def execMin (d a b : BitVec 5) (s : State) : Host.Outcome State Fault Refusal :=
  .next (s.alu3 .min d a b 0)

/-- MAX gd, ga, gb (R111). -/
def execMax (d a b : BitVec 5) (s : State) : Host.Outcome State Fault Refusal :=
  .next (s.alu3 .max d a b 0)

/-- MINU gd, ga, gb (R111). -/
def execMinu (d a b : BitVec 5) (s : State) : Host.Outcome State Fault Refusal :=
  .next (s.alu3 .minu d a b 0)

/-- MAXU gd, ga, gb (R111). -/
def execMaxu (d a b : BitVec 5) (s : State) : Host.Outcome State Fault Refusal :=
  .next (s.alu3 .maxu d a b 0)

/-- SLT gd, ga, gb (R111). -/
def execSlt (d a b : BitVec 5) (s : State) : Host.Outcome State Fault Refusal :=
  .next (s.alu3 .slt d a b 0)

/-- SLTU gd, ga, gb (R111). -/
def execSltu (d a b : BitVec 5) (s : State) : Host.Outcome State Fault Refusal :=
  .next (s.alu3 .sltu d a b 0)

/-- SEQ gd, ga, gb (R111). -/
def execSeq (d a b : BitVec 5) (s : State) : Host.Outcome State Fault Refusal :=
  .next (s.alu3 .seq d a b 0)

/-- SNE gd, ga, gb (R111). -/
def execSne (d a b : BitVec 5) (s : State) : Host.Outcome State Fault Refusal :=
  .next (s.alu3 .sne d a b 0)

/-- SEL gd, ga, gb (R112). -/
def execSel (d a b : BitVec 5) (s : State) : Host.Outcome State Fault Refusal :=
  .next (s.alu3 .sel d a b 0)

/-- ADDW gd, ga, gb (R114). -/
def execAddw (d a b : BitVec 5) (s : State) : Host.Outcome State Fault Refusal :=
  .next (s.alu3 .addw d a b 0)

/-- SUBW gd, ga, gb (R114). -/
def execSubw (d a b : BitVec 5) (s : State) : Host.Outcome State Fault Refusal :=
  .next (s.alu3 .subw d a b 0)

/-- MULW gd, ga, gb (R114). -/
def execMulw (d a b : BitVec 5) (s : State) : Host.Outcome State Fault Refusal :=
  .next (s.alu3 .mulw d a b 0)

/-- CLAMP gd, ga, gb (R112). -/
def execClamp (d a b : BitVec 5) (s : State) : Host.Outcome State Fault Refusal :=
  .next (s.alu3 .clamp d a b 0)

/-- IDX2 gd, ga, gb (R116). -/
def execIdx2 (d a b : BitVec 5) (s : State) : Host.Outcome State Fault Refusal :=
  .next (s.alu3 .idx2 d a b 0)

/-- LEA gd, ga, gb, sh (R115). -/
def execLea (d a b : BitVec 5) (h : BitVec 3) (s : State) : Host.Outcome State Fault Refusal :=
  .next (s.alu3 .lea d a b h.toNat)

/-- CLZ gd, ga (R113). -/
def execClz (d a : BitVec 5) (w : BitVec 3) (s : State) : Host.Outcome State Fault Refusal :=
  .next (s.unary clzVal d a w)

/-- CTZ gd, ga (R113). -/
def execCtz (d a : BitVec 5) (w : BitVec 3) (s : State) : Host.Outcome State Fault Refusal :=
  .next (s.unary ctzVal d a w)

/-- POPC gd, ga (R113). -/
def execPopc (d a : BitVec 5) (w : BitVec 3) (s : State) : Host.Outcome State Fault Refusal :=
  .next (s.unary popcVal d a w)

/-- BREV gd, ga (R113). -/
def execBrev (d a : BitVec 5) (w : BitVec 3) (s : State) : Host.Outcome State Fault Refusal :=
  .next (s.unary brevVal d a w)

/-- BSWAP gd, ga (R113). -/
def execBswap (d a : BitVec 5) (w : BitVec 3) (s : State) : Host.Outcome State Fault Refusal :=
  .next (s.unary bswapVal d a w)

/-- ADDI gd, ga, imm (R65, R117). -/
def execAddi (d a : BitVec 5) (i : BitVec 16) (s : State) : Host.Outcome State Fault Refusal :=
  .next (s.aluImm .add d a (sextW i) 4)

/-- ANDI gd, ga, imm (R65, R117). -/
def execAndi (d a : BitVec 5) (i : BitVec 16) (s : State) : Host.Outcome State Fault Refusal :=
  .next (s.aluImm .and d a (zextW i) 4)

/-- ORI gd, ga, imm (R65, R117). -/
def execOri (d a : BitVec 5) (i : BitVec 16) (s : State) : Host.Outcome State Fault Refusal :=
  .next (s.aluImm .or d a (zextW i) 4)

/-- XORI gd, ga, imm (R65, R117). -/
def execXori (d a : BitVec 5) (i : BitVec 16) (s : State) : Host.Outcome State Fault Refusal :=
  .next (s.aluImm .xor d a (zextW i) 4)

/-- SLTI gd, ga, imm (R65, R117). -/
def execSlti (d a : BitVec 5) (i : BitVec 16) (s : State) : Host.Outcome State Fault Refusal :=
  .next (s.aluImm .slt d a (sextW i) 4)

/-- SLTIU gd, ga, imm (R65, R117). -/
def execSltiu (d a : BitVec 5) (i : BitVec 16) (s : State) : Host.Outcome State Fault Refusal :=
  .next (s.aluImm .sltu d a (sextW i) 4)

/-- SHLI gd, ga, n (R118). -/
def execShli (d a : BitVec 5) (n : BitVec 8) (s : State) : Host.Outcome State Fault Refusal :=
  .next (s.aluImm .shl d a (zextW n) 4)

/-- SHRI gd, ga, n (R118). -/
def execShri (d a : BitVec 5) (n : BitVec 8) (s : State) : Host.Outcome State Fault Refusal :=
  .next (s.aluImm .shr d a (zextW n) 4)

/-- SRAI gd, ga, n (R118). -/
def execSrai (d a : BitVec 5) (n : BitVec 8) (s : State) : Host.Outcome State Fault Refusal :=
  .next (s.aluImm .sra d a (zextW n) 4)

/-- LI gd, imm (R119). -/
def execLi (d : BitVec 5) (i : BitVec 16) (s : State) : Host.Outcome State Fault Refusal :=
  .next (s.setImm d (sextW i) 4)

/-- LUI gd, imm: sext(imm16 × 2^16, 32) (R119). -/
def execLui (d : BitVec 5) (i : BitVec 16) (s : State) : Host.Outcome State Fault Refusal :=
  .next (s.setImm d (sextW (i ++ 0#16)) 4)

/-- MOVK gd, imm, h (R119): the other bits of g[d] are kept. -/
def execMovk (d : BitVec 5) (h : BitVec 2) (i : BitVec 16) (s : State) : Host.Outcome State Fault Refusal :=
  .next (s.writeGPart 4 [] d fun b => insBits (b.gpr d.toNat) (16 * h.toNat) 16 i.toNat)

/-- MOVK.w gd, imm32, h (R119): the other half of g[d] is kept. -/
def execMovkW (d : BitVec 5) (h : BitVec 1) (lit : BitVec 32) (s : State) : Host.Outcome State Fault Refusal :=
  .next (s.writeGPart 8 [] d fun b => insBits (b.gpr d.toNat) (32 * h.toNat) 32 lit.toNat)

/-- EXT gd, ga, pos, len with len − 1 in l (R120). -/
def execExt (d a : BitVec 5) (l p : BitVec 6) (s : State) : Host.Outcome State Fault Refusal :=
  .next (s.writeG 4 [.g a.toNat] d fun b => BitVec.ofNat 64 (fld (b.gpr a.toNat).toNat (p.toNat + l.toNat) p.toNat))

/-- EXT.s gd, ga, pos, len (R120). -/
def execExtS (d a : BitVec 5) (l p : BitVec 6) (s : State) : Host.Outcome State Fault Refusal :=
  .next (s.writeG 4 [.g a.toNat] d fun b =>
    BitVec.ofInt 64 (sx (l.toNat + 1) (fld (b.gpr a.toNat).toNat (p.toNat + l.toNat) p.toNat)))

/-- INS gd, ga, pos, len: the other bits of g[d] are kept (R120). With pos 0 and len 64 no bit is kept and the whole
register is written, which clears its poison mark (R182). -/
def execIns (d a : BitVec 5) (l p : BitVec 6) (s : State) : Host.Outcome State Fault Refusal :=
  let f := fun b : Bank => insBits (b.gpr d.toNat) p.toNat (l.toNat + 1) (b.gpr a.toNat).toNat
  .next (if p = 0#6 ∧ l = 63#6 then s.writeG 4 [.g a.toNat] d f else s.writeGPart 4 [.g a.toNat] d f)

/-- XR: an ALU function with sext(literal, 32) in place of g[b] (R74, R108). -/
def execXr (f : AluOp) (d a : BitVec 5) (m : BitVec 3) (lit : BitVec 32) (s : State) : Host.Outcome State Fault Refusal :=
  .next (s.alu f d a [] (fun _ => sextW lit) m.toNat 8)

/-- XI: an immediate instruction with a 32-bit literal (R74, R119). -/
def execXi (f : ImmOp) (d a : BitVec 5) (lit : BitVec 32) (s : State) : Host.Outcome State Fault Refusal :=
  .next (match f with
    | .addi => s.aluImm .add d a (sextW lit) 8
    | .andi => s.aluImm .and d a (zextW lit) 8
    | .ori => s.aluImm .or d a (zextW lit) 8
    | .xori => s.aluImm .xor d a (zextW lit) 8
    | .slti => s.aluImm .slt d a (sextW lit) 8
    | .sltiu => s.aluImm .sltu d a (sextW lit) 8
    | .li => s.setImm d (sextW lit) 8
    | .lui => s.setImm d (lit ++ 0#32) 8)

end Sys2Proof.Machine
end

