-- ==== Sys2Proof/Machine/Translate.lean ====
section
/-! DEFINITION. Translation of virtual addresses: extents, translation caches and the page-table walk, with the checks
of permission and target (16_tables R385 to R397; 07_memories R161 to R165, R171; 09_ins_memory R209). -/
namespace Sys2Proof.Machine

/-- The context under which an agent translates (R385 to R388): CTXROOT, CTXKEY.KEY, the extents in use (none when
their table cannot be loaded), the mode, the core whose cluster's translation cache serves it, the entry of State.l1tlb that is
its own translation cache, and the cluster whose scratch it reaches. -/
structure Ctx where
  root : Nat
  key : Nat
  exts : Option (List Nat)
  user : Bool
  core : Nat
  own : Nat
  cluster : Nat
  deriving DecidableEq, Repr

/-- What an access needs of a leaf or extent (R392); `d` says that a write which passes its checks is performed, so that the
walk sets D (R391). -/
structure Need where
  r : Bool := false
  w : Bool := false
  x : Bool := false
  d : Bool := true
  deriving DecidableEq, Repr

/-- The outcome of translation and of the checks of R209: a physical address with KEY and KIND, a
translation fault, a permission fault with its REASON, a fault of the region kind with its SUB, or a poisoned PTE with its
REASON (R459). -/
inductive Tr where
  | ok (pa key kind : Nat)
  | f3
  | f4 (reason : Nat)
  | f5 (sub : Nat)
  | poison (reason : Nat)
  deriving DecidableEq, Repr

/-! ### Extents, R393 to R395 -/

/-- Dword `i` of an extent entry. -/
def extDw (e i : Nat) : Nat := fld e (64 * i + 63) (64 * i)

/-- An entry covers va (R394). -/
def extCovers (e va : Nat) : Bool :=
  let base := fld (extDw e 0) 54 16 * 2 ^ 16
  bitAt (extDw e 0) 0 && base ≤ va && va < base + fld (extDw e 1) 38 0 * 2 ^ 16

/-- Address that an entry gives (R394). -/
def extPa (e va : Nat) : Nat := (fld (extDw e 2) 53 16 * 2 ^ 16 + va - fld (extDw e 0) 54 16 * 2 ^ 16) % 2 ^ 54

/-- The permission bits U X W R of an entry or PTE, as bits 3 to 0. -/
def extPerm (e : Nat) : Nat := fld (extDw e 3) 5 2

/-- The extent that translates va: the lowest-numbered that covers it. -/
def findExt (l : List Nat) (va : Nat) : Option Nat := l.find? fun e => extCovers e va

/-- XTAB.COUNT; 65 to 127 act as 64 (R387). -/
def xtabCount (x : Nat) : Nat := Nat.min (fld x 6 0) 64

/-- XTAB.BASE as an address. -/
def xtabBase (x : Nat) : Nat := fld x 53 11 * 2 ^ 11

/-- The address names a tier of this package (R387). -/
def State.ownTier (s : State) (pa : Nat) : Bool := paPkg pa == s.pkg && isTier (paLocal pa)

/-- The 64 entries of a table as memory holds them, what is pending for its block applied. -/
def State.readTable (s : State) (base : Nat) : List Nat :=
  let s := s.applyAt (paLocal base) 64
  tabulate 64 fun i => s.num (paLocal base + 32 * i) 32

/-- A core holds the table that an XTAB names, loading it in place of the least recently named if it does not
(R395). A base outside the tiers of this package is not loaded (R387). -/
def State.holdTable (s : State) (core xtab : Nat) : State :=
  let base := xtabBase xtab
  let l := Tab.get [] s.held core
  match l.find? fun h => h.base == base with
  | some h => { s with held := Tab.set [] s.held core (h :: l.filter fun x => x.base != base) }
  | none =>
    if s.ownTier base then
      { s.sysRead (paLocal base) 2048 33 with held := Tab.set [] s.held core (({ base := base, ents := s.readTable base } :: l).take 4) }
    else s

/-- The extents in use of a core under an XTAB: of the copy it holds, or of the table as memory stands when it has to
load it again (R395). -/
def State.extsOf (s : State) (core xtab : Nat) : Option (List Nat) :=
  if xtabCount xtab = 0 then some []
  else
    let base := xtabBase xtab
    match (Tab.get [] s.held core).find? fun h => h.base == base with
    | some h => some (h.ents.take (xtabCount xtab))
    | none => if s.ownTier base then some ((s.readTable base).take (xtabCount xtab)) else none

/-- The core of a bank holds the table that its XTAB names before it translates (R395). -/
def State.readyTable (s : State) (r : Nat) : State :=
  let x := (s.bank r).xtab.toNat
  if xtabCount x = 0 || (Tab.get [] s.held (coreOf r)).any fun h => h.base == xtabBase x then s else s.holdTable (coreOf r) x

/-- The context of a bank. -/
def State.ctxOf (s : State) (r : Nat) : Ctx :=
  let b := s.bank r
  { root := b.ctxroot.toNat, key := b.ctxkey.toNat % 4096, exts := s.extsOf (coreOf r) b.xtab.toNat,
    user := !b.priv, core := coreOf r, own := coreOf r, cluster := clusterOf r }

/-! ### Page tables, R389 to R391 -/

/-- Low address bits of a leaf at a level. -/
def leafBits (level : Nat) : Nat := 16 + 13 * (3 - level)

/-- Index of va at a level (R389). -/
def ptIndex (level va : Nat) : Nat := va / 2 ^ leafBits level % 2 ^ 13

/-- A valid PTE that points to the next level. -/
def ptePointer (level pte : Nat) : Bool := level < 3 && fld pte 3 1 == 0

/-- The result of a walk: the leaf with its address and level, no translation, or poison. -/
inductive Walk where
  | leaf (addr pte level : Nat)
  | none
  | poison (reason : Nat)
  deriving DecidableEq, Repr

/-- The walk from a table at `t` × 2^16 (R390), and the state after its reads. -/
def State.walkFrom (s : State) (t va level fuel : Nat) : Walk × State :=
  match fuel with
  | 0 => (.none, s)
  | f + 1 =>
    if !s.ownTier (t * 2 ^ 16) then (.none, s)
    else
      let a := paLocal (t * 2 ^ 16) + ptIndex level va * 8
      let u := s.applyAt a 8
      let s := u.sysRead a 8 1
      match u.poisonAt a 8 with
      | some r => (.poison r, s)
      | none =>
        let pte := s.num a 8
        if !bitAt pte 0 then (.none, s)
        else if ptePointer level pte then s.walkFrom (fld pte 59 22) va (level + 1) f
        else (.leaf a pte level, s)

/-- The walk of a context (R390). -/
def State.walk (s : State) (root va : Nat) : Walk × State :=
  if bitAt root 0 then s.walkFrom (fld root 53 16) va 1 3 else (.none, s)

/-- The address that a leaf gives: its PPN with the low bits taken from va. -/
def leafPa (pte level va : Nat) : Nat :=
  let n := leafBits level
  fld pte 59 22 * 2 ^ 16 / 2 ^ n * 2 ^ n + va % 2 ^ n

/-- U X W R of a PTE as bits 3 to 0. -/
def ptePerm (pte : Nat) : Nat := fld pte 4 1

/-- The cached translation of a leaf: write permission only with D (R391, R397). -/
def cacheEntry (ctx pte level va : Nat) : TlbE :=
  let n := leafBits level
  let perm := ptePerm pte
  { ctx := ctx, va := va / 2 ^ n, bits := n, pa := leafPa pte level va / 2 ^ n, key := fld pte 21 10,
    kind := fld pte 6 5, perm := if bitAt pte 8 then perm else putFld perm 1 1 0 }

/-- A cached entry for a context and address. -/
def tlbHit (l : List TlbE) (ctx va : Nat) : Option TlbE := l.find? fun e => e.ctx == ctx && e.va == va / 2 ^ e.bits

/-- Number of the cluster translation cache of a core; a service core has one of its own. -/
def tlbCluster (core : Nat) : Nat := if core < 128 then core / 4 else core - 96

/-- Entry of State.l1tlb for the translation cache of an engine command, which has 16 entries (R388). -/
def engTlb (id : Nat) : Nat := 256 + id

/-- Entry of State.cltlb for a page of `bits` address bits: one of the 2,048 sets of 8 ways of a cluster's translation cache (R397), among
which the page number chooses (assumption 73). -/
def clTlbSet (cluster va bits : Nat) : Nat := cluster * 2048 + va / 2 ^ bits % 2048

/-- A cached entry of a cluster's translation cache for a context and address, of any page size (R397). -/
def State.clTlbHit (s : State) (cluster ctx va : Nat) : Option TlbE :=
  [1, 2, 3].findSome? fun level =>
    (Tab.get [] s.cltlb (clTlbSet cluster va (leafBits level))).find? fun e =>
      e.ctx == ctx && e.bits == leafBits level && e.va == va / 2 ^ e.bits

/-- Keep an entry in the cache of a core, or of an engine command, and in that of a cluster (R388, R397). -/
def State.cacheTlb (s : State) (own cluster : Nat) (e : TlbE) : State :=
  let k := clTlbSet cluster (e.va * 2 ^ e.bits) e.bits
  { s with
    l1tlb := Tab.set [] s.l1tlb own ((e :: (Tab.get [] s.l1tlb own).filter (· != e)).take (if own < 256 then 64 else 16))
    cltlb := Tab.set [] s.cltlb k ((e :: (Tab.get [] s.cltlb k).filter (· != e)).take 8) }

/-! ### Checks of R209 step 3 -/

/-- REASON of a refused permission: PRIVILEGE for a user access with U = 0, PERM for a missing R, W or X (R392). -/
def permReason (c : Ctx) (n : Need) (perm : Nat) : Option Nat :=
  if c.user && !bitAt perm 3 then some 1
  else if (n.r && !bitAt perm 0) || (n.w && !bitAt perm 1) || (n.x && !bitAt perm 2) then some 0
  else none

/-- REASON of a refused scratch access (R171, R173): the bank reads the mode being entered. -/
def State.scratchReason (s : State) (cluster key a : Nat) : Option Nat :=
  let b := s.bankCtl cluster (fld a 21 17)
  if b.mode != 1 then some 2 else if b.skey != key then some 3 else none

/-- The host window has a port (18_outside R437). -/
def State.hostUp (s : State) : Bool := Tab.get 0 s.hostPorts 0 != 0 || Tab.get 0 s.hostPorts 1 != 0

/-- REASON of a refused physical address of this package or another (R163, R165, R171). A privileged access to device space of
another package is NOTLOCAL, as R165 has it for the host window and scratch (assumption 49). -/
def State.targetReason (s : State) (c : Ctx) (pa : Nat) : Option Nat :=
  let a := paLocal pa
  if paPkg pa != s.pkg then
    if isTier a then none else if isHost a || isScratch a || isDevice a then some 5 else some 4
  else if isDevice a then (if c.user then some 1 else none)
  else if isScratch a then s.scratchReason c.cluster c.key a
  else if isTier a || (isHost a && s.hostUp) then none
  else some 4

/-- REASON of a leaf or extent that does not permit an access, in the order PRIVILEGE, PERM, KEYMISMATCH (assumption 11). A user
access to device space is PRIVILEGE through any mapping (R163). -/
def State.leafReason (s : State) (c : Ctx) (n : Need) (perm pa key : Nat) : Option Nat :=
  match if c.user && isDevice (paLocal pa) then some 1 else permReason c n perm with
  | some r => some r
  | none => if keyLive (s.key key) then none else some 3

/-- The checks that follow a translation: the leaf, then the target (assumption 11). -/
def State.checkPa (s : State) (c : Ctx) (n : Need) (perm pa key kind : Nat) : Tr :=
  match s.leafReason c n perm pa key with
  | some r => .f4 r
  | none => match s.targetReason c pa with
    | some r => .f4 r
    | none => .ok pa key kind

/-- Translate va for an access (R388): extents, then the caches, then the walk. The turn says whether a cached entry
is still there (R397). The walk sets A, and D for a write that passes its checks (R391). `chk` makes
the checks on permission, physical address, KEY and KIND, all those of R209 for a data access, so that a failing one leaves D. -/
def State.translateWith (chk : State → Ctx → Nat → Nat → Nat → Nat → Tr) (s : State) (c : Ctx) (n : Need)
    (va : Nat) : Tr × State :=
  if 2 ^ 55 ≤ va then (.f3, s)
  else
    match c.exts with
    | none => (.f3, s)
    | some l =>
      match findExt l va with
      | some e => (chk s c (extPerm e) (extPa e va) (fld (extDw e 3) 23 12) (fld (extDw e 3) 7 6), s)
      | none =>
        let hit := if bitAt s.choice 0 then none
          else match tlbHit (Tab.get [] s.l1tlb c.own) c.key va with
            | some e => some e
            | none => s.clTlbHit (tlbCluster c.core) c.key va
        let use := match hit with
          | some e => if n.w && !bitAt e.perm 1 then none else some e
          | none => none
        match use with
        | some e => (chk s c e.perm (e.pa * 2 ^ e.bits + va % 2 ^ e.bits) e.key e.kind, s)
        | none =>
          match s.walk c.root va with
          | (.none, s) => (.f3, s)
          | (.poison r, s) => (.poison r, s)
          | (.leaf a pte level, s) =>
            let r := chk s c (ptePerm pte) (leafPa pte level va) (fld pte 21 10) (fld pte 6 5)
            let pteA := putFld pte 7 7 1
            let pteD := match r with
              | .ok _ _ _ => if n.w && n.d then putFld pteA 8 8 1 else pteA
              | _ => pteA
            let s := if pteD = pte then s else s.sysWrite a 8 pteD 2
            (r, s.cacheTlb c.own (tlbCluster c.core) (cacheEntry c.key pteD level va))

end Sys2Proof.Machine
end

