-- ==== Sys2Proof/WellFormed.lean ====
section
/-! DEFINITION. Which terms of Instr are instructions that a program can hold: the limits of 03_encoding R61 to R75
that the widths of the operand fields do not already give. -/
namespace Sys2Proof

/-- The rows of opcode_table.json that have no word: events. -/
def Instr.isEvent (i : Instr) : Bool :=
  match i with
  | .illegalInstruction _ => true
  | .fetchFault _ => true
  | .pendingExceptionEntry _ => true
  | .qparkThreshold _ => true
  | .rparkThreshold _ => true
  | .parkDrainComplete _ => true
  | .bankReturn _ => true
  | .memoryRequestComplete _ => true
  | .suspensionWriteback _ => true
  | .wakeTimeReached _ => true
  | .continuationDispatch _ => true
  | .bankControlWrite _ _ _ => true
  | .bankModeChangeDone _ _ => true
  | .updatePairAccept _ => true
  | .regionStatusClear _ _ => true
  | .batchTimerClose _ _ => true
  | .streamBeatPush _ => true
  | .engineComplete _ => true
  | .engineFault _ => true
  | .promiseMissed _ => true
  | .barwTimeout _ => true
  | .semaphoreSignalWrite _ _ => true
  | .semaphoreValueWrite _ _ => true
  | .ownerSerialRequest _ => true
  | .ownerAckMessage _ => true
  | .ownerRqry _ => true
  | .ownerReadRequest _ => true
  | .remoteReply _ => true
  | .busyResend _ => true
  | .retransmitTimer _ => true
  | .retransmitExhausted _ => true
  | .ackMessageSend _ => true
  | .floorExpire _ => true
  | .queueStallEnd _ => true
  | .chainBeatReceive _ => true
  | .chainAckReceive _ => true
  | .chainRetransmit _ => true
  | .chainRetransmitExhausted _ => true
  | .chainKeepalive _ => true
  | .chainConsumerTimeout _ => true
  | .chainFaultNotice _ => true
  | .stageFire _ _ _ => true
  | .scratchUnitCycle _ _ => true
  | .ochreTokenStep _ => true
  | .matrixFireStart _ => true
  | .matrixFireEnd _ => true
  | .matrixMarkerStep _ => true
  | .matrixDrainRow _ _ => true
  | .matrixUncorrectableError _ => true
  | .patrolStep => true
  | .formatRangeWrite _ _ => true
  | .formatRangeHeldWrite _ _ _ => true
  | .launchTake _ => true
  | .launchWaitMet _ => true
  | .stagingComplete _ => true
  | .groupPlace _ _ _ _ => true
  | .groupConfigAck _ _ => true
  | .groupDone _ _ => true
  | .launchComplete _ => true
  | .pageWaitPriority _ => true
  | .groupIdlePark _ _ => true
  | .groupSaveComplete _ _ => true
  | .groupUnpark _ _ _ _ => true
  | .preemptDeadline _ => true
  | .sync _ => true
  | .preempt _ => true
  | .resume _ => true
  | .evict _ => true
  | .restore _ => true
  | .restoreany _ => true
  | .endcont _ => true
  | .endgroup _ => true
  | .answer _ => true
  | .scmdRefused _ _ => true
  | .hostCxlMemRead _ => true
  | .hostCxlMemWrite _ _ _ => true
  | .hostSnoop _ _ => true
  | .hostBar0Access _ _ _ _ => true
  | .hostPortUp _ _ => true
  | .hostPortDown _ => true
  | .fabricFlitReceive _ _ _ => true
  | .fabricPortUp _ _ => true
  | .fabricPortDown _ => true
  | .routingTableWrite _ _ => true
  | .packageReset _ => true
  | .pkgidWrite _ => true
  | .plimitWrite _ => true
  | .scrubctlWrite _ => true
  | .sbootWrite _ _ => true
  | .strapWrite _ _ => true
  | .throttleChange _ _ => true
  | .spdmGetVersion _ => true
  | .spdmGetCapabilities _ => true
  | .spdmNegotiateAlgorithms _ => true
  | .spdmGetDigests _ => true
  | .spdmGetCertificate _ => true
  | .spdmChallenge _ => true
  | .spdmGetMeasurements _ => true
  | .deviceRegisterWrite _ _ => true
  | .stagingFault _ => true
  | _ => false

/-- Integer element codes of R28 in a 3-bit etype field. -/
def etInt (e : BitVec 3) : Bool := e.toNat < 4

/-- Floating-point element codes, R66. -/
def etFp (e : BitVec 3) : Bool := 4 ≤ e.toNat && e.toNat < 7

/-- Codes of types that VCVT converts, R66 and R133. -/
def cvtType (t : BitVec 4) : Bool := t.toNat < 7 || (8 ≤ t.toNat && t.toNat < 11)

/-- An order with its scope: scope 11 is reserved, and plain order takes scope 00 (R75). -/
def scopeOk (o : Bool) (c : BitVec 2) : Bool := c != 3#2 && (o || c == 0#2)

/-- pos + len must not exceed 64; the fields hold len − 1 and pos (R65). -/
def extOk (l p : BitVec 6) : Bool := l.toNat + 1 + p.toNat ≤ 64

/-- The control registers of R92. -/
def csrAssigned (i : BitVec 8) : Bool :=
  i.toNat ≤ 6 || (8 ≤ i.toNat && i.toNat ≤ 0x0b) || (0x40 ≤ i.toNat && i.toNat ≤ 0x45)

/-- Field limits of the memory instructions, R69: t, size and extend. -/
def memFieldOk (f : MemOp) (t : BitVec 5) (s : BitVec 2) (x : BitVec 1) : Bool :=
  match f with
  | .ld | .ldrc => x == 0#1 || s != 3#2
  | .st => x == 0#1
  | .pref => t.toNat < 2 && s == 3#2 && x == 0#1
  | .discard | .uflush => t == 0#5 && s == 3#2 && x == 0#1
  | .upd => 2 ≤ s.toNat && x == 0#1
  | .ldv | .stv => t.toNat < 16 && s == 3#2 && x == 0#1

/-- Orders and scopes that a memory instruction accepts, R75. -/
def memOrderOk (f : MemOp) (o c : BitVec 2) : Bool :=
  match f with
  | .ld | .ldv => (o == 0#2 || o == 1#2) && scopeOk (o != 0#2) c
  | .st | .stv => (o == 0#2 || o == 2#2) && scopeOk (o != 0#2) c
  | .ldrc => true
  | .pref | .discard | .upd | .uflush => o == 0#2 && c == 0#2

/-- Marker codes that software may push, R283. -/
def markerOk (c : BitVec 8) : Bool := 1 ≤ c.toNat && c.toNat ≤ 5

/-- Well-formed instructions: every limit of a fetched word that a field's width does not give. Events are
well-formed when their word-like operands name objects that exist. -/
def Instr.wf (i : Instr) : Bool :=
  match i with
  | .clz _ _ w | .ctz _ _ w | .popc _ _ w | .brev _ _ w => w.toNat < 4
  | .bswap _ _ w => w.toNat < 3
  | .ext _ _ l p | .extS _ _ l p | .ins _ _ l p => extOk l p
  | .vadd _ _ _ _ e | .vsub _ _ _ _ e | .vmul _ _ _ _ e | .vmulh _ _ _ _ e | .vmin _ _ _ _ e | .vmax _ _ _ _ e
  | .vand _ _ _ _ e | .vor _ _ _ _ e | .vxor _ _ _ _ e | .vshl _ _ _ _ e | .vshr _ _ _ _ e
  | .vsra _ _ _ _ e => etInt e
  | .vcmpEq _ _ _ _ e | .vcmpNe _ _ _ _ e | .vcmpLt _ _ _ _ e | .vcmpLe _ _ _ _ e =>
      e == 2#3 || e == 3#3 || e == 4#3
  | .vsel _ _ _ _ e | .vmovv _ _ _ e | .vperm _ _ _ e | .vcompress _ _ _ e => e != 7#3
  | .vfadd _ _ _ _ e | .vfmul _ _ _ _ e | .vfma _ _ _ _ e | .vfmin _ _ _ _ e | .vfmax _ _ _ _ e => etFp e
  | .vcvt _ _ s _ r t => cvtType s && cvtType t && r.toNat < 6
  | .vmovg _ _ l w => w == 0#1 || l.toNat < 8
  | .csrr _ i | .csrw _ i | .csrx _ _ i => csrAssigned i
  | .ld _ _ s x o c _ => memFieldOk .ld 0#5 s x && scopeOk (o != 0#1) c
  | .st _ _ _ o c _ => scopeOk (o != 0#1) c
  | .ldrc _ _ s x _ _ => memFieldOk .ldrc 0#5 s x
  | .fence _ c => c != 3#2
  | .cas _ _ _ o c _ | .swap _ _ _ o c _ | .fadd _ _ _ o c _ => scopeOk (o != 0#2) c
  | .ldv _ _ o c _ | .stv _ _ o c _ => scopeOk (o != 0#1) c
  | .vupd _ _ _ e _ _ => e == 2#3 || e == 3#3 || e == 4#3 || e == 6#3
  | .vpush _ q _ _ p | .spush _ q _ p => q != 63#6 && p.toNat ≤ 10
  | .mpush _ q c => q != 63#6 && markerOk c
  | .qflush q => q != 63#6
  | .qstat _ _ x s => s.toNat ≤ 9 && (x == 0#1 || (3 ≤ s.toNat && s.toNat ≤ 6))
  | .qwait _ _ m => m.toNat ≤ 2
  | .xr f _ _ m _ => f == .lea || m == 0#3
  | .xi f _ a _ => (f != .li && f != .lui) || a == 0#5
  | .xm f t _ s x o c _ => memFieldOk f t s x && memOrderOk f o c
  | .xq q lit => q != 63#6 && markerOk (lit.extractLsb' 24 8)
  | _ => true

end Sys2Proof
end

