-- ==== Sys2Proof/Machine/Control.lean ====
section
/-! DEFINITION. Branches, jumps, traps, return from exception and the control-register instructions
(06_ins_control R136 to R141, R157 to R160; 04_registers R92 to R95). Suspension points are in Suspend.lean. -/
namespace Sys2Proof.Machine

/-- Two signed or unsigned register values compared by a branch (R136). -/
def State.branch (s : State) (a b : BitVec 5) (o : BitVec 16) (c : Word → Word → Bool) : State :=
  s.issue [.g a.toNat, .g b.toNat] [] fun s =>
    let k := s.b
    .done (s.setB (if c (k.gpr a.toNat) (k.gpr b.toNat) then k.jump (target k.pc o) else k.advance 4))

/-- BEQ ga, gb, label (R136). -/
def execBeq (a b : BitVec 5) (o : BitVec 16) (s : State) : Host.Outcome State Fault Refusal :=
  .next (s.branch a b o fun x y => x == y)

/-- BNE ga, gb, label (R136). -/
def execBne (a b : BitVec 5) (o : BitVec 16) (s : State) : Host.Outcome State Fault Refusal :=
  .next (s.branch a b o fun x y => x != y)

/-- BLT ga, gb, label (R136). -/
def execBlt (a b : BitVec 5) (o : BitVec 16) (s : State) : Host.Outcome State Fault Refusal :=
  .next (s.branch a b o fun x y => x.slt y)

/-- BGE ga, gb, label (R136). -/
def execBge (a b : BitVec 5) (o : BitVec 16) (s : State) : Host.Outcome State Fault Refusal :=
  .next (s.branch a b o fun x y => y.sle x)

/-- BLTU ga, gb, label (R136). -/
def execBltu (a b : BitVec 5) (o : BitVec 16) (s : State) : Host.Outcome State Fault Refusal :=
  .next (s.branch a b o fun x y => x.ult y)

/-- BGEU ga, gb, label (R136). -/
def execBgeu (a b : BitVec 5) (o : BitVec 16) (s : State) : Host.Outcome State Fault Refusal :=
  .next (s.branch a b o fun x y => y.ule x)

/-- J label (R139). -/
def execJ (o : BitVec 26) (s : State) : Host.Outcome State Fault Refusal :=
  .next (s.issue [] [] fun s => .done (s.setB (s.b.jump (target s.b.pc o))))

/-- JAL label: lr := PC + 4 first (R139). -/
def execJal (o : BitVec 26) (s : State) : Host.Outcome State Fault Refusal :=
  .next (s.issue [] [.g 31] fun s =>
    let k := s.b
    .done (s.setB ((k.setGpr 31 (k.pc + 4)).jump (target k.pc o))))

/-- A register jump: a target with bit 1 or 0 set raises exception 0x02 with EADDR the target (R140). -/
def State.regJump (s : State) (a : BitVec 5) (ws : List Reg) (f : Bank → Bank) : State :=
  s.issue [.g a.toNat] ws fun s =>
    let k := s.b
    let t := k.gpr a.toNat
    if t.toNat % 4 ≠ 0 then .exc 2 0 t.toNat else .done (s.setB ((f k).jump t))

/-- JR ga (R140). -/
def execJr (a : BitVec 5) (s : State) : Host.Outcome State Fault Refusal := .next (s.regJump a [] id)

/-- JALR gd, ga: g[a] is read before g[d] is written (R140). -/
def execJalr (d a : BitVec 5) (s : State) : Host.Outcome State Fault Refusal :=
  .next (s.regJump a [.g d.toNat] fun k => k.setGpr d.toNat (k.pc + 4))

/-- NOP (R68). -/
def execNop (s : State) : Host.Outcome State Fault Refusal := .next (s.issue [] [] fun s => s.next 4 id)

/-- TRAP and SYSC raise their cause with EPC the next instruction and EINFO the code (R157). -/
def State.trapOp (s : State) (cause : Nat) (code : BitVec 8) : State :=
  s.takeExc s.cur { cause := cause, epc := s.b.pc + 4, einfo := code.toNat, eaddr := 0 }

/-- TRAP code (R157). -/
def execTrap (i : BitVec 8) (s : State) : Host.Outcome State Fault Refusal := .next (s.trapOp 0x0e i)

/-- SYSC code (R157). -/
def execSysc (i : BitVec 8) (s : State) : Host.Outcome State Fault Refusal := .next (s.trapOp 0x0f i)

/-- ERET (R158). -/
def execEret (s : State) : Host.Outcome State Fault Refusal := .next (s.privileged fun s => s.returnExc s.cur)

/-! ### Control registers -/

/-- Value of a control register (R92). -/
def State.csrRead (s : State) (i : Nat) : Word :=
  let b := s.b
  match i with
  | 0x00 => b.readStat s.cur
  | 0x01 => b.epc
  | 0x02 => b.ecause
  | 0x03 => b.einfo
  | 0x04 => b.eaddr
  | 0x05 => b.ids
  | 0x06 => b.qtrapcfg
  | 0x08 => Tab.get 0 b.scratch 0
  | 0x09 => Tab.get 0 b.scratch 1
  | 0x0a => Tab.get 0 b.scratch 2
  | 0x0b => Tab.get 0 b.scratch 3
  | 0x40 => b.ctxroot
  | 0x41 => b.ctxkey
  | 0x42 => b.xtab
  | 0x43 => BitVec.ofNat 64 s.rcbptr
  | 0x44 => BitVec.ofNat 64 s.faultq
  | 0x45 => BitVec.ofNat 64 (s.rchan s.cur)
  | _ => 0

/-- Write a scratch register. -/
def Bank.setScratch (b : Bank) (n : Nat) (v : Word) : Bank := { b with scratch := Tab.set 0 b.scratch n v }

/-- Write of a control register: only the fields its map makes RW change, reserved fields read as zero (R3, R92). A write
of RCBPTR makes every leaf unknown (17_work R411), and with V = 1 sets LOCK (18_outside R461). -/
def State.csrWrite (s : State) (i : Nat) (v : Word) : State :=
  let b := s.b
  match i with
  | 0x00 => s.setB (b.writeStat v.toNat)
  | 0x01 => s.setB { b with epc := v }
  | 0x02 => s.setB { b with ecause := v &&& 0xff }
  | 0x03 => s.setB { b with einfo := v }
  | 0x04 => s.setB { b with eaddr := v }
  | 0x06 => s.setB { b with qtrapcfg := v &&& 0xff03 }
  | 0x08 => s.setB (b.setScratch 0 v)
  | 0x09 => s.setB (b.setScratch 1 v)
  | 0x0a => s.setB (b.setScratch 2 v)
  | 0x0b => s.setB (b.setScratch 3 v)
  | 0x40 => s.setB { b with ctxroot := v &&& 0x3fffffffff0001 }
  | 0x41 => s.setB { b with ctxkey := v &&& 0xfff }
  | 0x42 =>
    let x := v &&& 0x3ffffffffff87f
    (s.setB { b with xtab := x }).holdTable (coreOf s.cur) x.toNat
  | 0x43 =>
    let x := v &&& 0x3fffffffffff81
    { s with rcbptr := x.toNat, leaves := [], pkgLock := s.pkgLock || bitAt x.toNat 0 }
  | 0x44 => { s with faultq := (v &&& 0x3fffffffffffc1).toNat }
  | _ => s

/-- Whether user mode may access a control register, R92: privileged registers never, EPC to EADDR for reads only. -/
def csrUser (i : Nat) (write : Bool) : Bool := i < 0x40 && !(write && 1 ≤ i && i ≤ 4)

/-- A control-register instruction with the permission of R92; an unassigned index is FIELD. -/
def State.csrOp (s : State) (i : Nat) (write : Bool) (k : State → State) : State :=
  if !csrAssigned (BitVec.ofNat 8 i) then s.illegal 2
  else if !s.b.priv && !csrUser i write then s.illegal 4
  else k s

/-- CSRR gd, csr (R159). -/
def execCsrr (d : BitVec 5) (i : BitVec 8) (s : State) : Host.Outcome State Fault Refusal :=
  .next (s.csrOp i.toNat false fun s => s.issue [] [.g d.toNat] fun s =>
    .done (s.setB ((s.b.setGpr d.toNat (s.csrRead i.toNat)).advance 4)))

/-- CSRW csr, ga (R159). -/
def execCsrw (a : BitVec 5) (i : BitVec 8) (s : State) : Host.Outcome State Fault Refusal :=
  .next (s.csrOp i.toNat true fun s => s.issue [.g a.toNat] [] fun s =>
    let t := s.csrWrite i.toNat (s.b.gpr a.toNat)
    .done (t.setB (t.b.advance 4)))

/-- CSRX gd, ga, csr: the old value is returned even when the write is ignored (R159). -/
def execCsrx (d a : BitVec 5) (i : BitVec 8) (s : State) : Host.Outcome State Fault Refusal :=
  .next (s.csrOp i.toNat true fun s => s.issue [.g a.toNat] [.g d.toNat] fun s =>
    let old := s.csrRead i.toNat
    let t := s.csrWrite i.toNat (s.b.gpr a.toNat)
    .done (t.setB ((t.b.setGpr d.toNat old).advance 4)))

end Sys2Proof.Machine
end

