-- ==== Sys2Proof/Machine/Remote.lean ====
section
/-! DEFINITION. The requester side of remote operations: channels, serials, transmission and update batches (11_remote R256
to R264, R270, R271, R273; 10_updates R254; 19_programs_sync R462; 18_outside R438, R439). -/
namespace Sys2Proof.Machine

/-! ### Sending, R438 and R439 -/

/-- The ports that lead to a package and are up (R439). -/
def State.usablePorts (s : State) (dst : Nat) : List Nat :=
  let e := Tab.get 0 s.routes dst
  if bitAt e 63 then (List.range 36).filter fun p => bitAt e p && bitAt (Tab.get 0 s.ports p) 0 else []

/-- The port that a message takes among those that lead to its package: a hash selects it, and a chain keeps the one it has while that
port stays up (R439). -/
def State.portOf (s : State) (m : Msg) (h : Nat) : Option Nat :=
  let l := s.usablePorts m.dst
  let new := l[Config.portChoice m.dst h % l.length]?
  match if m.chained then Tab.get none s.chainPort (m.chain * 4096 + m.dst) else none with
  | some p => if l.contains p then some p else new
  | none => new

/-- A message leaves for its package by its port; one for this package stays here, and one without a usable port is dropped and counted
(R439). -/
def State.sendMsg (s : State) (m : Msg) (h : Nat) : State :=
  if m.dst = s.pkg then { s with inbox := s.inbox ++ [m] }
  else match s.portOf m h with
    | some p =>
      { s with
        outbox := s.outbox ++ [(p, m)]
        chainPort := if m.chained then Tab.set none s.chainPort (m.chain * 4096 + m.dst) (some p) else s.chainPort }
    | none => s.bump 2 (Config.portChoice m.dst h % 36) 3 1

/-- Traffic class of a requester (01_machine R23). -/
def State.tcOf (s : State) (r : Nat) : Nat :=
  if isSvc r then 3
  else match (s.bank r).cont with
    | some c => fld (s.eff (s.contLeaf c) 11 3) 5 4
    | none => 0

/-! ### Channels, R261 to R264, R273, R276 -/

def State.chan (s : State) (r : Nat) : Chan := Tab.get {} s.chans r
def State.setChan (s : State) (r : Nat) (c : Chan) : State := { s with chans := Tab.set {} s.chans r c }

/-- An operation of a requester. -/
def State.rop (s : State) (id : Nat) : Option RemOp := Tab.get none s.rops id

/-- Write or remove an operation. -/
def State.setRop (s : State) (id : Nat) (o : Option RemOp) : State := { s with rops := Tab.set none s.rops id o }

/-- The operations of a bank's own, in issue order. -/
def State.opsOf (s : State) (r : Nat) : List (Nat × RemOp) :=
  s.rops.filterMap fun e => match e.2 with
    | some o => if o.who = r ∧ o.eng = none then some (e.1, o) else none
    | none => none

/-- The slots of a channel that are not FREE. -/
def State.slotsOf (s : State) (r : Nat) : List (Nat × RemOp) := (s.opsOf r).filter fun e => e.2.serial.isSome

/-- The oldest slot of a channel that is not FREE. -/
def State.oldest (s : State) (r : Nat) : Option RemOp :=
  ((s.slotsOf r).find? fun e => !e.2.moved).map (·.2)

/-- ACKT of a channel (R263). -/
def State.ackt (s : State) (r : Nat) : Nat :=
  match s.oldest r with
  | some o => (o.serial.getD 0 + 2 ^ 32 - 1) % 2 ^ 32
  | none => ((s.chan r).next + 2 ^ 32 - 1) % 2 ^ 32

/-- Some SENT operation of a requester awaits its reply. -/
def RemOp.sent (o : RemOp) : Bool := o.held.isNone

/-- Serial a is at or below b (R262). -/
def serialLe (a b : Nat) : Bool := (b + 2 ^ 32 - a % 2 ^ 32) % 2 ^ 32 ≤ 2 ^ 31 - 1

/-- EINFO of a remote fault (R271): the register is the first destination that is not g0, which takes no mark. -/
def RemOp.einfo (o : RemOp) : Nat :=
  (match o.dsts.find? fun d => match d with | .g r _ _ => r != 0 | _ => true with
    | some (.g r _ _) => r * 2 ^ 12
    | some (.v r) => r * 2 ^ 12 + 2 ^ 17
    | some (.lane r _ _) => r * 2 ^ 12 + 2 ^ 17
    | none => 0)
    + o.kind * 2 + o.pkg * 2 ^ 20
    + (match o.serial with | some n => n * 2 ^ 32 | none => 2 ^ 11)

/-- Whether serial-class operations may issue now: `n` of them; they wait; or the instruction takes exception 0x09
with the values of a HELD operation (R264, R273). -/
inductive SerialGo where
  | ok
  | wait
  | exc (o : RemOp)
  deriving DecidableEq, Repr

/-- The operation whose serial the last of `n` new ones would be too far from (R273). -/
def State.serialFar (s : State) (r n : Nat) : Option RemOp :=
  (s.oldest r).filter fun o => 2 ^ 30 ≤ ((s.chan r).next + (n - 1) + 2 ^ 32 - o.serial.getD 0) % 2 ^ 32

/-- `n` slots of a channel are FREE (R264). -/
def State.slotFree (s : State) (r n : Nat) : Bool := (s.slotsOf r).length + n ≤ 16

/-- The check of R264 and R273 for `n` operations. -/
def State.serialGo (s : State) (r n : Nat) : SerialGo :=
  match s.serialFar r n with
  | some o => if o.held.isSome then .exc o else .wait
  | none => if s.slotFree r n then .ok else .wait

/-- Transmit an operation (R257), in the traffic class it was issued with (01_machine R23): a serial-class request carries ACKT,
and its package joins the list of R261. -/
def State.transmit (s : State) (id : Nat) (o : RemOp) : State :=
  let a := s.ackt o.who
  let rc := s.rchan o.who
  let m : Msg :=
    { src := s.pkg, dst := o.pkg, oinc := o.oinc, rcid := rc % 2 ^ 32, svc := isSvc o.who, op := id,
      serial := o.serial, ackt := if o.serial.isSome then a else 0, tc := o.tc, body := .request o.body }
  let s := s.sendMsg m (o.lines.headD 0)
  if o.serial.isSome then
    let c := s.chan o.who
    s.setChan o.who { c with owed := (o.pkg, a) :: c.owed.filter (fun e => e.1 != o.pkg), sentAt := s.time, tc := o.tc }
  else s

/-- Issue an operation; a serial-class one takes NEXT (R276). It carries the owner incarnation of the table of R265
unless another is given (R274), and the traffic class of its requester, an engine command's that of the command. -/
def State.issueRop (s : State) (o : RemOp) (serialClass : Bool) (inc : Option Nat := none) : State :=
  let id := s.nextOp
  let c := s.chan o.who
  let o := { o with
    serial := if serialClass then some c.next else none
    oinc := inc.getD (Tab.get 0 s.oincs o.pkg)
    sentAt := s.time
    born := if o.born = 0 then s.nextCmd else o.born
    tc := if o.eng.isSome then o.tc else s.tcOf o.who }
  let s := { s with nextOp := id + 1 }.setRop id (some o)
  let s := if serialClass then
      (s.setChan o.who { c with next := (c.next + 1) % 2 ^ 32 }).setBank o.who ((s.bank o.who).count 4)
    else s
  s.transmit id o

/-! ### Batches, R254 and R462 -/

/-- A batch as an operation. -/
def Batch.op (r : Nat) (b : Batch) : RemOp :=
  { who := r, kind := 6, pkg := b.pkg, va := b.va, lines := (b.pairs.map fun p => p.1 / 64).eraseDups,
    body := .batch b.pairs, born := b.born, ctx := b.ctx }

/-- A batch names a line of a package. -/
def Batch.names (b : Batch) (pkg line : Nat) : Bool := b.pkg == pkg && b.pairs.any fun p => p.1 / 64 == line

/-- An earlier access of the requester to a remote line awaits its reply (08_ordering R206). -/
def State.lineBusy (s : State) (r pkg line : Nat) : Bool :=
  (s.opsOf r).any fun e => e.2.sent && e.2.pkg == pkg && e.2.lines.contains line

/-- A line that a batch names has an earlier access outstanding: the batch is not sent yet (08_ordering R206). -/
def State.batchBusy (s : State) (r : Nat) (x : Batch) : Bool := (x.op r).lines.any fun l => s.lineBusy r x.pkg l

/-- Issue the batches that a bank has closed and that wait, the oldest first, while slots are free (R462). -/
def State.flushClosed (s : State) (r fuel : Nat) : State :=
  match fuel with
  | 0 => s
  | f + 1 =>
    let b := s.bank r
    match b.batches.find? (·.closed) with
    | none => s
    | some x =>
      match if s.batchBusy r x then SerialGo.wait else s.serialGo r 1 with
      | .ok =>
        let rest := match findIdx (fun y : Batch => y.closed) b.batches with
          | some i => dropNth b.batches i
          | none => b.batches
        ((s.setBank r { b with batches := rest }).issueRop (x.op r) true).flushClosed r f
      | _ => s

/-- Close the open batches that meet `p` without an instruction (R462). -/
def State.closeQuiet (s : State) (r : Nat) (p : Batch → Bool) : State :=
  let b := s.bank r
  (s.setBank r { b with batches := b.batches.map fun x => if p x then { x with closed := true } else x }).flushClosed r 64

/-- Whether the batches that an instruction would close, and `n` further operations, can issue: a batch that waits is
served first; an instruction that closes and issues nothing goes on (R462). -/
def State.closeGo (s : State) (r : Nat) (p : Batch → Bool) (n : Nat) : SerialGo :=
  let l := (s.bank r).batches.filter fun x => x.closed || p x
  if (l.filter fun x => !x.closed).length + n = 0 then .ok
  else if l.any (s.batchBusy r) then .wait else s.serialGo r (l.length + n)

/-- Close the open batches that meet `p`, once closeGo has answered ok. -/
def State.closeNow (s : State) (r : Nat) (p : Batch → Bool) : State := s.closeQuiet r p

/-- BATCH_TIMER_CLOSE: 512 cycles after its first pair an open batch is closed (R254, R462). -/
def execBatchTimerClose (r n : Nat) (s : State) : Host.Outcome State Fault Refusal :=
  .next (match (s.bank r).batches[n]? with
    | some x =>
      if !x.closed && x.age + 512 ≤ s.cycle then
        let b := s.bank r
        (s.setBank r { b with batches := modNth (fun y => { y with closed := true }) b.batches n }).flushClosed r 64
      else s
    | none => s)

end Sys2Proof.Machine
end

