-- ==== Sys2Proof/Machine/Update.lean ====
section
/-! DEFINITION. The Mordant of each slice: acceptance of pairs, bins, spills, and what befalls a region as a whole (10_updates
R240, R243 to R247, R249, R251, R255). -/
namespace Sys2Proof.Machine

/-! ### Bins and spills, R243, R246, R247 -/

/-- The 48 bytes of a spill record (R245). -/
def Partial.bytes (p : Partial) (pkg : Nat) : Nat :=
  (pkg % 4096 * 2 ^ 42 + p.pa + fld p.flags 0 0 * 2 ^ 55 + fld p.flags 4 1 * 2 ^ 56) + ux 320 p.acc * 2 ^ 64

/-- The lowest record number that is not in use. -/
def freeRecord (used : List Nat) (n fuel : Nat) : Nat :=
  match fuel with
  | 0 => n
  | f + 1 => if used.contains n then freeRecord used (n + 1) f else n

/-- Write records while free ones last; the partials that found none (R247). -/
def State.spillRecords (s : State) (i slice : Nat) : List Partial → State × List Partial
  | [] => (s, [])
  | p :: l =>
    let recs := Tab.get [] s.logs i
    let r := s.region i
    let n := freeRecord (recs.map (·.1)) 0 recs.length
    if n < r.logLen then
      let s := s.sysWrite (paLocal r.logBase + n * 48) 48 (p.bytes s.pkg) 3
      let s := { s with logs := Tab.set [] s.logs i ((n, p) :: recs) }
      (s.bump 1 slice 4 1).spillRecords i slice l
    else (s, p :: l)

/-- Spill a bin: its records are written in ascending order of key, and the keys that find no record are applied
early with rounding (R246, R247). -/
def State.spillBin (s : State) (slice : Nat) (b : Bin) : State :=
  let s := s.setBins slice ((s.binsOf slice).filter fun x => x.block != b.block)
  match s.regionAt (b.block * 4096) with
  | none => s
  | some i =>
    let (s, rest) := s.spillRecords i slice (sortPartials b.keys)
    let s := s.regStatus i (2 ^ 10)
    if rest.isEmpty then s
    else ((s.applyKeys i slice rest).bump 1 slice 5 1).regStatus i
      (2 ^ 11 + if (s.region i).op = 1 then 2 ^ 12 else 0)

/-- Open a key in the bin of its block, with a bin taken or emptied when there is no room (R243). -/
def State.openKey (s : State) (slice block : Nat) (p : Partial) : State :=
  match (s.binsOf slice).find? fun b => b.block == block with
  | some b =>
    if b.keys.length < 32 then
      s.setBins slice ({ b with keys := p :: b.keys } :: (s.binsOf slice).filter fun x => x.block != block)
    else
      let s := s.spillBin slice b
      s.setBins slice ({ block := block, keys := [p] } :: s.binsOf slice)
  | none =>
    let l := s.binsOf slice
    let s := if l.length < 4096 then s else match l.getLast? with
      | some b => s.spillBin slice b
      | none => s
    s.setBins slice ({ block := block, keys := [p] } :: s.binsOf slice)

/-- A pair reaches its Mordant (R243 to R245): it is combined, or dropped and reported when no valid region holds
its address. -/
def State.acceptKey (s : State) (pa v : Nat) : State :=
  let slice := homeSlice pa
  let block := pa / 4096
  match s.regionAt pa with
  | none => (s.bump 1 slice 6 1).faultqRecord { kind := 7, loc := slice, addr := s.pkg % 4096 * 2 ^ 42 + pa }
  | some i =>
    let r := s.region i
    let s := s.bump 1 slice 2 1
    let old := ((s.binsOf slice).find? fun b => b.block == block).bind fun b =>
      (b.keys.find? fun p => p.pa == pa).map fun p => (b, p)
    match old with
    | none => s.openKey slice block (openPartial r.op r.etype pa v)
    | some (b, p) =>
      let put (s : State) (q : Partial) : State :=
        s.setBins slice ({ b with keys := q :: b.keys.filter fun x => x.pa != pa } ::
          (s.binsOf slice).filter fun x => x.block != block)
      match addPartial r.op r.etype p v with
      | some (q, f) => put (s.regStatus i f) q
      | none =>
        put (((s.applyKey i slice pa [p]).bump 1 slice 5 1).regStatus i (2 ^ 11 + 2 ^ 12))
          (openPartial r.op r.etype pa v)

/-- The keys of one update event are accepted together: an event for the coherence order of their elements (R203), whoever
sends it. -/
def State.acceptKeys (s : State) (by' : By) (l : List (Nat × Nat)) : State :=
  let s := { s with pre := (l.map (·.1 / 64)).eraseDups.foldl (fun t x => State.preMark { s with pre := t } by' x) s.pre }
  l.foldl (fun s k => s.acceptKey k.1 k.2) s

/-- One update event is accepted: both halves of a BF16 word together (R240, R244). -/
def State.acceptPair (s : State) (p : Pair) : State := s.acceptKeys (.core (coreOf p.who)) p.keys

/-- Two updates of one thread name one element, so that they are accepted in program order (08_ordering R190). -/
def Pair.clash (p q : Pair) : Bool := q.who == p.who && q.keys.any fun k => p.keys.any fun j => j.1 == k.1

/-- UPDATE_PAIR_ACCEPT: the n-th update in flight reaches its Mordant (R243), behind the earlier ones of its thread to its
elements. -/
def execUpdatePairAccept (n : Nat) (s : State) : Host.Outcome State Fault Refusal :=
  .next (match s.pairs[n]? with
    | some p => if (s.pairs.take n).any p.clash then s else { s with pairs := dropNth s.pairs n }.acceptPair p
    | none => s)

/-! ### Regions as a whole, R249 and R255 -/

/-- The blocks of a region with anything pending. -/
def State.pendingBlocks (s : State) (i : Nat) : List Nat :=
  let inBins := (tabulate 10 fun k => (s.binsOf k).map (·.block)).flatten.filter fun b => s.regionAt (b * 4096) == some i
  (inBins ++ (Tab.get [] s.logs i).map fun (x : Nat × Partial) => x.2.pa / 4096).eraseDups

/-- Apply every block of a region and free its log (R249, R406). -/
def State.applyRegion (s : State) (i : Nat) : State :=
  let s := (s.pendingBlocks i).foldl State.applyBlock s
  { s with logs := Tab.set [] s.logs i [] }

/-- Drop what is pending for a line whose key is destroyed (R255). -/
def State.dropLine (s : State) (l : Nat) : State :=
  match s.regionAt (l * 64) with
  | none => s
  | some i =>
    let slice := homeSlice (l * 64)
    let gone (p : Partial) : Bool := p.pa / 64 == l
    let bs := s.binsOf slice
    let recs := Tab.get [] s.logs i
    let n := (bs.flatMap fun b => b.keys.filter gone).length + (recs.filter fun x => gone x.2).length
    if n = 0 then s
    else
      let s := s.setBins slice
        ((bs.map fun b => { b with keys := b.keys.filter fun p => !gone p }).filter fun b => !b.keys.isEmpty)
      let s := { s with logs := Tab.set [] s.logs i (recs.filter fun x => !gone x.2) }
      (s.bump 1 slice 7 n).regStatus i (2 ^ 9)

/-- REGION_STATUS_CLEAR: a write of a region's status register clears the bits that it sets (R251). -/
def execRegionStatusClear (i : Nat) (v : BitVec 64) (s : State) : Host.Outcome State Fault Refusal :=
  let old := Tab.get 0 s.regstat (i % 256)
  .next { s with regstat := Tab.set 0 s.regstat (i % 256) (old - (old &&& (v.toNat &&& 0x1e1f))) }

end Sys2Proof.Machine
end

