-- ==== Sys2Proof/Machine/Device.lean ====
section
/-! DEFINITION. The registers of device space and their write events (07_memories R172 to R174; 10_updates R251;
15_counters R375; 16_tables R403; 17_work R432; 18_outside R434, R439 to R441, R447, R461). -/
namespace Sys2Proof.Machine

/-- A register of device space. -/
inductive DevReg where
  | bankCtl (cluster bank : Nat)
  | regStat (i : Nat)
  | signal (n : Nat)
  | value (n : Nat)
  | range (n dword : Nat)
  | scmd (n : Nat)
  | sstat (n : Nat)
  | route (pkg : Nat)
  | pkgid
  | incs
  | plimit
  | pstat
  | scrubctl
  | portstat (n : Nat)
  | sboot (n : Nat)
  | strap (n : Nat)
  | island (i : Nat)
  deriving DecidableEq, Repr

/-- The register whose dword holds a local address; none where no chapter defines one (R163). -/
def devReg (a : Nat) : Option DevReg :=
  let o := a - 0x3f800000000
  let d := o % 0x100000 / 8
  match o / 0x100000 with
  | 0 =>
    if o % 0x100000 < 32 * 0x1000 ∧ o % 0x1000 < 256 then some (.bankCtl (o / 0x1000) (o % 0x1000 / 8)) else none
  | 1 => if d < 256 then some (.regStat d) else none
  | 2 => if d < 8192 then some (if d % 2 = 0 then .signal (d / 2) else .value (d / 2)) else none
  | 3 => if d < 256 then some (.range (d / 4) (d % 4)) else none
  | 4 => if d < 8 then some (if d % 2 = 0 then .scmd (d / 2) else .sstat (d / 2)) else none
  | 5 => if d < 4096 then some (.route d) else none
  | 6 =>
    if d = 0 then some .pkgid else if d = 1 then some .incs else if d = 2 then some .plimit
    else if d = 3 then some .pstat else if d = 4 then some .scrubctl
    else if 32 ≤ d ∧ d < 68 then some (.portstat (d - 32))
    else if 96 ≤ d ∧ d < 104 then some (if d % 2 = 0 then .sboot ((d - 96) / 2) else .strap ((d - 96) / 2))
    else none
  | 7 => if d < 256 then some (.island d) else none
  | _ => none

/-- Whether a register refuses an access by a requester with REASON PRIVILEGE: any but an LD.d or ST.d, as `dword` says
(R432, R434, R447). -/
def DevReg.refuses (g : DevReg) (r : Nat) (dword : Bool) : Bool :=
  match g with
  | .scmd n | .sstat n => !dword || r != 4096 + n
  | .pkgid | .incs | .plimit | .pstat | .scrubctl | .portstat _ | .sboot _ | .strap _ => !dword
  | _ => false

/-- The bits of `old` outside the mask with those of `v` inside it. -/
def maskIn (old v mask : Nat) : Nat := (old - (old &&& mask)) + (v &&& mask)

/-! ### Bank control registers, R172 to R174 -/

/-- Whether any queue has backing placed in a FIFO bank (R174). -/
def State.fifoUsed (s : State) (cluster bank : Nat) : Bool :=
  s.groups.any fun e => e.2.home == some cluster && e.2.fifo.any fun x => x.1 == bank

/-- The value that a bank control register reads. -/
def BankCtl.word (b : BankCtl) : Nat := b.skey * 2 ^ 20 + bit01 b.busy * 8 + bit01 b.refused * 4 + b.mode

/-- A write of a bank control register (R173, R174). A bank that leaves CACHE gives up its way, and its modified lines go home. -/
def State.bankWrite (s : State) (c n v : Nat) : State :=
  let k := c * 32 + n
  let b := Tab.get {} s.ctl k
  let b' := { b with refused := b.refused && !bitAt v 2 }
  let m := fld v 1 0
  if m = b.mode then { s with ctl := Tab.set {} s.ctl k { b' with skey := fld v 31 20 } }
  else if b.busy || (b.mode = 2 && s.fifoUsed c n) then
    { s with ctl := Tab.set {} s.ctl k { b with refused := true } }
  else
    { s with ctl := Tab.set {} s.ctl k { b' with skey := fld v 31 20, mode := m, old := b.mode, busy := true } }.recache
      (if b.mode = 0 then s.caches.wayLeave s.fill c n else s.caches)

/-- BANK_CONTROL_WRITE (R173). -/
def execBankControlWrite (c b : Nat) (v : BitVec 64) (s : State) : Host.Outcome State Fault Refusal :=
  .next (if c < 32 ∧ b < 32 then s.bankWrite c b v.toNat else s)

/-- A scratch access that the bank has accepted is still to be performed. -/
def State.scratchPending (s : State) (c n : Nat) : Bool :=
  let hit (b : Bank) : Bool := b.reqs.any fun q =>
    isScratch (paLocal q.pa) && q.cluster == c && fld (paLocal q.pa) 21 17 == n
  s.banks.any (fun e => hit e.2) || s.svcs.any (fun e => hit e.2)

/-- BANK_MODE_CHANGE_DONE: the steps of R173 end. A bank that enters SCRATCH holds zeros. -/
def execBankModeChangeDone (c b : Nat) (s : State) : Host.Outcome State Fault Refusal :=
  let k := c * 32 + b
  let x := Tab.get {} s.ctl k
  .next (if x.busy && !(x.old == 1 && s.scratchPending c b) then
    let s := { s with ctl := Tab.set {} s.ctl k { x with busy := false, old := x.mode } }
    if x.mode = 1 then
      let lo := scratchKey c (b * 2 ^ 17)
      { s with
        mem := s.mem.filter fun e => e.1 < lo || lo + 2 ^ 17 ≤ e.1
        wpoison := s.wpoison.filter fun e => e.1 < lo / 4 || lo / 4 + 2 ^ 15 ≤ e.1 }
    else s
    else s)

/-! ### The format range table, R403 and R404 -/

def State.fmtRange (s : State) (n : Nat) : FmtRange := Tab.get {} s.ranges n

/-- Element width in bits of a packing code (12_queues R282). FMT of a format range is such a code, as R403 says; R28, which counts
the format range table among the fields that hold its own codes, disagrees (assumption 51). -/
def packWidth (p : Nat) : Nat :=
  match p with
  | 3 | 4 | 5 => 16
  | 6 | 7 | 8 | 9 => 8
  | 0xa => 4
  | _ => 32

/-- Length of the scale region of a range: one byte for each block of 32 elements. -/
def FmtRange.scaleLen (d1 d2 : Nat) : Nat := cdiv (fld d1 47 0 * 512 / packWidth (fld d2 3 0)) 32

/-- Two spans overlap; an empty one overlaps nothing. -/
def spansMeet (a n b m : Nat) : Bool := a < b + m && b < a + n && 0 < n && 0 < m

/-- A physical span lies within one tier of this package. -/
def State.spanOwn (s : State) (a n : Nat) : Bool :=
  paPkg a == s.pkg % 4096 && inOneTier (paLocal a) n && a < 2 ^ 54

/-- Whether a write of dword 0 is refused (R403). -/
def State.rangeRefused (s : State) (n d0 d1 d2 d3 : Nat) : Bool :=
  let (a, len) := FmtRange.span d0 d1
  let blk := fld d2 7 4
  let sc := fld d3 53 0
  let slen := FmtRange.scaleLen d1 d2
  bitAt d0 63 &&
    (1 < blk || 0xa < fld d2 3 0 || fld d1 47 0 = 0 || !s.spanOwn a len
      || (blk = 1 && (!s.spanOwn sc slen || spansMeet a len sc slen))
      || s.ranges.any fun e =>
        let (b, m) := FmtRange.span e.2.d0 e.2.d1
        e.1 != n && bitAt e.2.d0 63 && spansMeet a len b m)

/-- Dwords 1 to 3 that an agent's write of dword 0 brings in: those that it holds, or the last written where it has written none since
its own last write of dword 0, so that the records of two agents do not mix (R407; assumption 26). -/
def FmtRange.heldBy (e : FmtRange) (who : Nat) : Nat × Nat × Nat := (Tab.get none e.mine who).getD (e.h1, e.h2, e.h3)

/-- A write of dword 0 of entry `n` by an agent: the dwords that it holds take effect with it, or it is refused (R403); the cached lines
take the index that the table now gives them (R176). -/
def State.rangeWrite (s : State) (who n v : Nat) : State :=
  let e := s.fmtRange n
  let (h1, h2, h3) := e.heldBy who
  let d0 := v &&& 0x803fffffffffffc0
  let e' : FmtRange :=
    if s.rangeRefused n d0 h1 h2 h3 then { e with d0 := putFld e.d0 62 62 1 }
    else { e with d0 := d0, d1 := h1, d2 := h2, d3 := h3 }
  let t := Tab.set {} s.ranges n { e' with mine := Tab.set none e.mine who none }
  { s with ranges := t, caches := s.caches.reindex fun l => rangeIn t (l * 64) }

/-- A write of a held dword by an agent. -/
def State.rangeHold (s : State) (who n i v : Nat) : State :=
  let e := s.fmtRange n
  let (h1, h2, h3) := e.heldBy who
  let (e', m) : FmtRange × (Nat × Nat × Nat) := match i with
    | 1 => ({ e with h1 := v % 2 ^ 48 }, (v % 2 ^ 48, h2, h3))
    | 2 => ({ e with h2 := v % 256 }, (h1, v % 256, h3))
    | _ => ({ e with h3 := v % 2 ^ 54 }, (h1, h2, v % 2 ^ 54))
  { s with ranges := Tab.set {} s.ranges n { e' with mine := Tab.set none e.mine who (some m) } }

/-- FORMAT_RANGE_WRITE, by the agent that the turn names (R403). -/
def execFormatRangeWrite (n : Nat) (v : BitVec 64) (s : State) : Host.Outcome State Fault Refusal :=
  .next (if n < 64 then s.rangeWrite s.cur n v.toNat else s)

/-- FORMAT_RANGE_HELD_WRITE, by the agent that the turn names (R403). -/
def execFormatRangeHeldWrite (n i : Nat) (v : BitVec 64) (s : State) : Host.Outcome State Fault Refusal :=
  .next (if n < 64 ∧ 1 ≤ i ∧ i ≤ 3 then s.rangeHold s.cur n i v.toNat else s)

/-- Physical address of the scale byte of the element at local address `a` (R404). -/
def FmtRange.scaleAt (e : FmtRange) (a : Nat) : Nat :=
  fld e.d3 53 0 + ((a - paLocal (fld e.d0 53 6 * 64)) * 8 / packWidth (fld e.d2 3 0)) / 32

/-! ### Package registers, R434, R440, R441, R447, R461 -/

/-- A write of PKG is ignored once LOCK is set (R434, R461). -/
def State.pkgidWrite (s : State) (v : Nat) : State := if s.pkgLock then s else { s with pkg := v % 4096 }

/-- PLIMIT holds 800 to 2,600 W (R434). -/
def State.plimitWrite (s : State) (v : Nat) : State := { s with plimit := Nat.max 800 (Nat.min 2600 (v % 4096)) }

/-- SCRUBCTL.PERIOD, 0 taken as 24 (R434). -/
def State.scrubWrite (s : State) (v : Nat) : State :=
  { s with scrubPeriod := if v % 256 = 0 then 24 else v % 256 }

/-- PKGID_WRITE (R461). -/
def execPkgidWrite (v : BitVec 64) (s : State) : Host.Outcome State Fault Refusal := .next (s.pkgidWrite v.toNat)

/-- PLIMIT_WRITE (R434). -/
def execPlimitWrite (v : BitVec 64) (s : State) : Host.Outcome State Fault Refusal := .next (s.plimitWrite v.toNat)

/-- SCRUBCTL_WRITE (R434). -/
def execScrubctlWrite (v : BitVec 64) (s : State) : Host.Outcome State Fault Refusal := .next (s.scrubWrite v.toNat)

/-- A boot or trap address keeps bits 54:2 (R447). -/
def bootAddr (v : Nat) : Nat := fld v 54 2 * 4

/-- Boot address of a service core; the image's is a constant of the model until it is written (assumption 5). -/
def State.sbootOf (s : State) (n : Nat) : Nat := Tab.get 0x10000 s.sboot n

/-- SBOOT_WRITE (R447). -/
def execSbootWrite (n : Nat) (v : BitVec 64) (s : State) : Host.Outcome State Fault Refusal :=
  .next (if n < 4 then { s with sboot := Tab.set 0x10000 s.sboot n (bootAddr v.toNat) } else s)

/-- STRAP_WRITE (R447). -/
def execStrapWrite (n : Nat) (v : BitVec 64) (s : State) : Host.Outcome State Fault Refusal :=
  .next (if n < 4 then { s with strap := Tab.set 0x20000 s.strap n (bootAddr v.toNat) } else s)

/-- ROUTING_TABLE_WRITE (R439). -/
def execRoutingTableWrite (p : Nat) (v : BitVec 64) (s : State) : Host.Outcome State Fault Refusal :=
  .next (if p < 4096 then { s with routes := Tab.set 0 s.routes p (v.toNat &&& 0x8000000fffffffff) } else s)

/-- A page is occupied while a group holds it (R440). -/
def State.pageOccupied (s : State) (p : Nat) : Bool :=
  s.groups.any fun e => e.2.pages.contains p &&
    (e.2.st == .placing || e.2.st == .resident || e.2.st == .parking || e.2.st == .preempting || e.2.st == .faulted)

/-- Status of an island (R440): the clock and the power are measurements, free values here (assumption 3). -/
def State.islandWord (s : State) (i : Nat) : Nat :=
  let w := (Config.freeWord s.fresh).toNat
  (if i < 144 ∧ !s.pageOccupied i then 1 else 0) + fld w 15 4 * 16 + fld w 31 16 * 2 ^ 16

/-! ### Semaphore registers, R375 -/

/-- SEMAPHORE_SIGNAL_WRITE: a write to SIGNAL acts as SEMS (R375). -/
def execSemaphoreSignalWrite (n : Nat) (v : BitVec 64) (s : State) : Host.Outcome State Fault Refusal :=
  .next (if n < 4096 then s.semSignal n (v.toNat % 2 ^ 32) else s)

/-- SEMAPHORE_VALUE_WRITE: a write to VALUE sets the count and wakes met waiters (R375). -/
def execSemaphoreValueWrite (n : Nat) (v : BitVec 64) (s : State) : Host.Outcome State Fault Refusal :=
  .next (if n < 4096 then s.semValue n v.toNat else s)

/-! ### Reads and writes by an instruction -/

/-- The dword that a register reads; measurements use up a free value. -/
def State.devRead (s : State) (g : DevReg) : Nat × State :=
  match g with
  | .bankCtl c n => ((Tab.get {} s.ctl (c * 32 + n)).word, s)
  | .regStat i => (Tab.get 0 s.regstat i, s)
  | .signal n | .value n => ((s.sem n).count, s)
  | .range n i =>
    let e := s.fmtRange n
    (match i with | 0 => e.d0 | 1 => e.h1 | 2 => e.h2 | _ => e.h3, s)
  | .scmd _ => ((Config.freeWord s.fresh).toNat, { s with fresh := s.fresh + 1 })
  | .sstat n => (if (Tab.get none s.scmd n).isSome then 2 else Tab.get 0 s.sstat n, s)
  | .route p => (Tab.get 0 s.routes p, s)
  | .pkgid => (s.pkg % 4096 + bit01 s.pkgLock * 2 ^ 12, s)
  | .incs => (s.rinc % 256 + s.oinc % 2 ^ 16 * 256, s)
  | .plimit => (s.plimit, s)
  | .pstat => (s.power % 4096 + bit01 s.throttled * 2 ^ 12, s)
  | .scrubctl => (s.scrubPeriod + s.scrubPasses % 2 ^ 32 * 256 + bit01 s.scrubActive * 2 ^ 63, s)
  | .portstat n => (Tab.get 0 s.ports n, s)
  | .sboot n => (s.sbootOf n, s)
  | .strap n => (Tab.get 0x20000 s.strap n, s)
  | .island i => (s.islandWord i, { s with fresh := s.fresh + 1 })

/-- A store to SCMD starts a command; one while BUSY is refused and ignored (R432). -/
def State.scmdWrite (s : State) (n v : Nat) : State :=
  if (Tab.get none s.scmd n).isSome then s else { s with scmd := Tab.set none s.scmd n (some v) }

/-- A write of the bits of a register that `mask` selects, by the requester that acts. -/
def State.devWrite (s : State) (g : DevReg) (v mask : Nat) : State :=
  let whole := maskIn (s.devRead g).1 v mask
  match g with
  | .bankCtl c n =>
    s.bankWrite c n (whole - (whole &&& 4) + (v &&& (mask &&& 4)))
  | .regStat i =>
    let old := Tab.get 0 s.regstat i
    { s with regstat := Tab.set 0 s.regstat i (old - (old &&& (v &&& (mask &&& 0x1e1f)))) }
  | .signal n => if bitAt mask 0 then s.semSignal n (v % 2 ^ 32) else s
  | .value n => if bitAt mask 0 then s.semValue n (v % 2 ^ 32) else s
  | .range n i =>
    if i = 0 then s.rangeWrite s.cur n whole
    else
      let (h1, h2, h3) := (s.fmtRange n).heldBy s.cur
      s.rangeHold s.cur n i (maskIn (match i with | 1 => h1 | 2 => h2 | _ => h3) v mask)
  | .scmd n => s.scmdWrite n v
  | .route p => { s with routes := Tab.set 0 s.routes p (whole &&& 0x8000000fffffffff) }
  | .pkgid => s.pkgidWrite v
  | .plimit => s.plimitWrite v
  | .scrubctl => s.scrubWrite v
  | .sboot n => { s with sboot := Tab.set 0x10000 s.sboot n (bootAddr v) }
  | .strap n => { s with strap := Tab.set 0x20000 s.strap n (bootAddr v) }
  | .sstat _ | .incs | .pstat | .portstat _ | .island _ => s

/-- DEVICE_REGISTER_WRITE: a write of a device-space dword; an address without a register takes none (R163). -/
def execDeviceRegisterWrite (a v : BitVec 64) (s : State) : Host.Outcome State Fault Refusal :=
  .next (match devReg a.toNat with
    | some g => if isDevice a.toNat then s.devWrite g v.toNat (2 ^ 64 - 1) else s
    | none => s)

end Sys2Proof.Machine
end

