-- ==== Sys2Proof/Machine/Access.lean ====
section
/-! DEFINITION. What every data access shares: the checks of an address, the value a read returns and what a write does,
and what an access waits for (09_ins_memory R208 to R211; 10_updates R239, R249, R253; 08_ordering R195, R196, R199,
R206; 07_memories R179, R181, R182). -/
namespace Sys2Proof.Machine

/-! ### Kinds of access -/

/-- The data accesses of instructions. -/
inductive Cls where
  | ld | st | ldv | stv | ldgv | stsv | ldrc | discard | rmw | upd | vupd (etype : Nat) | uflush | record | bar (w : Bool)
  deriving DecidableEq, Repr

/-- EINFO.KIND (R179); the source record of EXTW, URTW and LAUNCH has KIND 0 and the counter instructions KIND 5. -/
def Cls.kind : Cls → Nat
  | .ld | .record => 0
  | .st => 1
  | .ldv | .stv => 2
  | .ldgv => 3
  | .stsv => 4
  | .rmw | .bar _ => 5
  | .upd | .vupd _ | .uflush => 6
  | .ldrc => 7
  | .discard => 8

/-- The permissions of R209 and R392. -/
def Cls.need : Cls → Need
  | .ld | .ldv | .ldgv | .ldrc | .uflush | .record => { r := true }
  | .st | .stv | .stsv | .discard | .upd | .vupd _ => { w := true }
  | .rmw => { r := true, w := true }
  | .bar w => { r := !w, w := w }

/-- ETYPE of the update region of this or another package that holds a physical address; the regions of another
package are those that its tables hold (assumption 15). -/
def State.regionEtype (s : State) (pa : Nat) : Option Nat :=
  if paPkg pa = s.pkg then (s.regionAt (paLocal pa)).map fun i => (s.region i).etype
  else (s.peerRegions.find? fun x => x.1 == paPkg pa && x.2.1 ≤ paLocal pa && paLocal pa < x.2.1 + x.2.2.1).map (·.2.2.2)

/-- The lowest subcode of R239 that applies to an access of `size` bytes, if any. -/
def State.kindSub (s : State) (c : Cls) (pa kind size : Nat) : Option Nat :=
  let isUpd := match c with | .upd | .vupd _ | .uflush => true | _ => false
  let dev := isDevice (paLocal pa)
  let form := match c with | .ld | .st => 4 ≤ size | _ => false
  let wrong := match s.regionEtype pa, c with
    | some e, .upd => (size == 8) != (e == 3)
    | some e, .vupd t => e != t
    | _, _ => false
  let isBar := match c with | .bar _ => !isScratch (paLocal pa) | _ => false
  if isUpd && kind != 1 then some 1
  else if isBar && kind != 2 then some 2
  else if c == .rmw && kind != 2 then some 2
  else if c == .discard && kind != 0 then some 3
  else if dev != (kind == 3) then some 4
  else if kind == 3 && !form then some 5
  else if kind == 1 && (s.regionEtype pa).isNone then some 6
  else if wrong then some 7
  else none

/-- REASON of a refused target that the translation does not see: an unassigned or refusing register of device space,
DISCARD or BARW
on another package, and the spill log of a valid region (R163, R219, R246, R381, R432, R434). -/
def State.lateReason (s : State) (c : Cls) (pa size : Nat) : Option Nat :=
  let a := paLocal pa
  if paPkg pa != s.pkg then (if c == .discard || c == .bar false then some 5 else none)
  else if isDevice a then
    match devReg a with
    | none => some 4
    | some g => if g.refuses s.cur (size == 8 && (c == .ld || c == .st)) then some 1 else none
  else if isTier a && (s.inLog a || s.inLog (a + (size - 1))) then some 0
  else none

/-- The checks of R209 that follow a translation: permission, KEY and target, then the region kind. -/
def State.checkData (s : State) (cls : Cls) (size : Nat) (c : Ctx) (n : Need) (perm pa key kind : Nat) : Tr :=
  match s.checkPa c n perm pa key kind with
  | .ok pa key kind =>
    match s.lateReason cls pa size with
    | some r => .f4 r
    | none => match s.kindSub cls pa kind size with
      | some u => .f5 u
      | none => .ok pa key kind
  | r => r

/-- Translation of a data access with the checks of R209; `d` says that the access follows, so that a write sets D (R391). -/
def State.translate (s : State) (cls : Cls) (size : Nat) (c : Ctx) (d : Bool) (va : Nat) : Tr × State :=
  let n : Need := { cls.need with d := d }
  State.translateWith (fun s c perm pa key kind => s.checkData cls size c n perm pa key kind) s c n va

/-- The outcome of the checks of R209 on one address. -/
inductive Acc where
  | ok (pa key kind : Nat)
  | exc (cause einfo eaddr : Nat)
  | fault3 (einfo eaddr : Nat)
  | wait
  deriving DecidableEq, Repr

/-- A scratch access waits while its bank is entering SCRATCH mode (R173). -/
def State.scratchBusy (s : State) (cluster pa : Nat) : Bool :=
  let a := paLocal pa
  isScratch a && paPkg pa == s.pkg && (s.bankCtl cluster (fld a 21 17)).busy

/-- The checks of R209, in order, and the state after the translation's walk. UFLUSH need not be aligned. An access at the
all-ones address of more than one byte is misaligned first: R209 puts alignment before the rule of R116 that gives 0x03 there
(assumption 50). -/
def State.access (s : State) (c : Cls) (va size lane : Nat) (d : Bool := true) : Acc × State :=
  let info := lane * 2 ^ 5 + c.kind * 2
  if c != .uflush && va % size != 0 then (.exc 2 info va, s)
  else
    let s := s.readyTable s.cur
    let x := s.ctxOf s.cur
    match s.translate c size x d va with
    | (.f3, s) => (.fault3 info va, s)
    | (.f4 r, s) => (.exc 4 (info + r * 2 ^ 9) va, s)
    | (.f5 u, s) => (.exc 5 (info + u * 2 ^ 12) va, s)
    | (.poison r, s) => (.exc 6 (info + r * 2 ^ 9) va, s)
    | (.ok pa key kind, s) => if s.scratchBusy x.cluster pa then (.wait, s) else (.ok pa key kind, s)

/-- An instruction whose address fails its checks: the walk's writes stay. -/
def State.accFail (s : State) : Acc → Res
  | .exc c i a => .done (s.raise c i a)
  | .fault3 i a => .done (s.parkFault i a)
  | _ => .wait none

/-! ### Scopes, 08_ordering R192, R193, R75 -/

/-- The scope of a release or acquire of the acting bank at a physical address: 0 none, so that it acts as plain; 1 cluster, 2
package, 3 domain. On a service core cluster acts as package; an address of another package lies in the location set of domain scope
only. At a scratch address the scope written holds: R193 gives cluster scope to an edge whose two events both lie in scratch, where
only the cluster sees them, and R75 says of the whole access that it acts as cluster scope (assumption 71). -/
def State.scopeAt (s : State) (c : BitVec 2) (pa : Nat) : Nat :=
  if paPkg pa ≠ s.pkg then (if c = 2 then 3 else 0)
  else if c = 2 then 3
  else if c = 1 || isSvc s.cur then 2 else 1

/-- The scope of a FENCE. -/
def State.scopeOf (s : State) (c : BitVec 2) : Nat := if c = 2 then 3 else if c = 1 || isSvc s.cur then 2 else 1

/-! ### Values -/

/-- The physical address is of this package. -/
def State.own (s : State) (pa : Nat) : Bool := paPkg pa == s.pkg

/-- Read `n` bytes of this package at once, `core` the core that reads, with the read count of an LDRC, if one does: the value and
the REASON of its poison (R182). A block of an update region is
applied first (R249), and a host-window line is fetched (R168). -/
def State.readAt (s : State) (cluster pa n : Nat) (core : Option Nat := none) (cnt : Option Nat := none) :
    Nat × Option Nat × State :=
  let a := paLocal pa
  if isDevice a then
    match devReg a with
    | some g =>
      let (v, s) := s.devRead g
      (v / 2 ^ (a % 8 * 8) % 2 ^ (8 * n), none, s)
    | none => (0, none, s)
  else
    let s := (s.hostFill (a / 64)).applyAt a n
    let k := cellKey cluster a
    (s.num k n, s.poisonAt k n, (s.found (k / 64)).recache (s.cacheRead core k cnt))

/-- Write `n` bytes of this package at once, under the present version of a key or that of `ver`. -/
def State.writeAt (s : State) (cluster pa n v key : Nat) (by' : By := .home) (ver : Option Nat := none) : State :=
  let a := paLocal pa
  if isDevice a then
    match devReg a with
    | some g => s.devWrite g (v * 2 ^ (a % 8 * 8)) ((2 ^ (8 * n) - 1) * 2 ^ (a % 8 * 8))
    | none => s
  else
    let s := (s.hostFill (a / 64)).applyAt a n
    let t := match ver with
      | some x => s.tagFor key x
      | none => s.tagOf key
    s.rawWrite (cellKey cluster a) n v (if isTier a || isHost a then some t else none) by'

/-- A value delivered to its destination, with the mark of poisoned data (R182, R212); a lane keeps the mark that its register
already has. -/
def Bank.deliver (b : Bank) (d : Dst) (v : Nat) (m : Option Mark) : Bank :=
  match d with
  | .g r n sext =>
    let w := if sext then ux 64 (sx (8 * n) v) else v % 2 ^ (8 * n)
    let b := b.setGpr r (BitVec.ofNat 64 w)
    match m with | some x => b.markG r x | none => b
  | .v r =>
    let b := b.setVreg r (BitVec.ofNat 512 v)
    match m with | some x => b.markV r x | none => b
  | .lane r i w =>
    let old := b.vreg r
    let b := b.setVregPart r (ofElems w fun e => if e = i then v else elem old w e)
    match m, b.mark (.v r) with | some x, none => b.markV r x | _, _ => b

/-- The mark of a read. -/
def markOf (p : Option Nat) (va : Nat) : Option Mark := p.map fun r => { reason := r, va := BitVec.ofNat 64 va }

/-! ### What an access waits for -/

/-- The line of a request of the acting bank. -/
def MemReq.line (q : MemReq) : Nat := cellKey q.cluster (paLocal q.pa) / 64

/-- An earlier request of the bank to a line. -/
def Bank.reqOn (b : Bank) (line : Nat) : Bool := b.reqs.any fun q => q.line == line

/-- A request to device space. -/
def MemReq.device (q : MemReq) : Bool := isDevice (paLocal q.pa)

/-- An earlier device access of the bank is still to be made: device accesses keep program order (R195, R170). -/
def Bank.devPending (b : Bank) : Bool := b.reqs.any MemReq.device

/-- An update of a requester to the block of a local address is in flight (R253). -/
def State.pairTo (s : State) (r a : Nat) : Bool :=
  isTier a && s.pairs.any fun p => p.who == r && p.keys.any fun k => k.1 / 4096 == a / 4096

/-- An update of a requester to a block of another package awaits its acceptance (R253, R254). -/
def State.remotePairTo (s : State) (r pkg a : Nat) : Bool :=
  (s.bank r).batches.any (fun b => b.pkg == pkg && b.pairs.any fun p => p.1 / 4096 == a / 4096) ||
    (s.opsOf r).any fun e => e.2.sent && e.2.pkg == pkg && match e.2.body with
      | .batch l => l.any fun p => p.1 / 4096 == a / 4096
      | _ => false

/-- An earlier acquire of domain scope whose read is remote has not returned (R199). -/
def State.acqHeld (s : State) : Bool := (s.opsOf s.cur).any fun e => e.2.sent && e.2.acq

/-- Requests that pairs for another package count: one for each update, whose first pair lies at a word (R240, R241). -/
def pairRequests (l : List (Nat × Nat)) : Nat := (l.filter fun p => p.1 % 4 == 0).length

/-- Updates whose first half has been accepted with one batch while the second half begins another that has not (R240): batches as
their packages and pairs. -/
def halfRequests (l : List (Nat × List (Nat × Nat))) : Nat :=
  (l.filter fun x => match x.2.head? with
    | some p => p.1 % 4 != 0 && !l.any fun y => y.1 == x.1 && (y.2.getLast?.map (·.1 + 2)) == some p.1
    | none => false).length

/-- The batches of a requester that are not yet accepted, open, waiting or sent. -/
def State.farPairs (s : State) (r : Nat) : List (Nat × List (Nat × Nat)) :=
  (s.bank r).batches.map (fun b => (b.pkg, b.pairs)) ++ (s.opsOf r).filterMap fun e => match e.2.sent, e.2.body with
    | true, .batch l => some (e.2.pkg, l)
    | _, _ => none

/-- Requests that a remote operation counts against the slot until it is answered (R211, R240, R242). -/
def RemOp.requests (o : RemOp) : Nat :=
  if !o.sent then 0
  else match o.body with
    | .read _ _ => if o.record then 0 else 1
    | .apply _ | .write .. | .cas .. | .swap .. | .fadd .. => 1
    | .batch l => pairRequests l
    | _ => 0

/-- Requests outstanding of one requester (R211). -/
def State.requests (s : State) (r : Nat) : Nat :=
  (s.bank r).reqs.length + (s.pairs.filter fun p => p.who == r).length +
    ((s.bank r).batches.foldl (fun n b => n + pairRequests b.pairs) 0) + halfRequests (s.farPairs r) +
    ((s.opsOf r).foldl (fun n e => n + e.2.requests) 0)

/-- The slot and its core have room for a memory-class instruction (R211). -/
def State.room (s : State) : Bool :=
  let r := s.cur
  if isSvc r then s.requests r < 16
  else s.requests r + s.requests (otherBank r) < 16 &&
    ((List.range 32).foldl (fun n i => n + s.requests (r / 32 * 32 + i)) 0 < 256)

/-- A remote operation of the acting bank awaits its reply, or a batch has not been sent. -/
def State.farWaits (s : State) : Bool := (s.opsOf s.cur).any (fun e => e.2.sent) || !s.b.batches.isEmpty

/-- Every earlier write and update has been accepted and every read has returned, as a release or a fence of a scope asks (R199);
one of domain scope also waits for every remote operation. Cluster scope orders no device access (R207). -/
def State.releaseGo (s : State) (scope : Nat) : Option Res :=
  if scope = 0 then none
  else if scope = 3 && s.farWaits then some (.wait (some .all))
  else if s.acqHeld then some (.wait (some .acq))
  else if s.b.reqs.any (fun q => !(scope = 1 && q.device)) || s.pairs.any (fun p => p.who == s.cur) then some (.wait none)
  else none

/-- Close batches for an instruction: it goes on, waits, or takes exception 0x09 (R462). -/
def State.closing (s : State) (p : Batch → Bool) (n : Nat) (k : State → Res) : Res :=
  match s.closeGo s.cur p n with
  | .ok => k (s.closeNow s.cur p)
  | .wait => .wait none
  | .exc o => .exc 9 o.einfo o.va

/-- A result that is reached after the state has changed: a wait keeps the change. -/
def State.settle (s : State) : Res → Res
  | .wait w => .done (s.waitOn w)
  | r => r

/-- An earlier release of the bank comes before a later acquire (R195). -/
def State.acquireGo (s : State) (scope : Nat) : Bool :=
  scope = 0 || (s.b.reqs.all (fun q => !q.rel) && !(s.opsOf s.cur).any fun e => e.2.sent && e.2.rel)

/-- No request of a bank is before a release fence that holds a later write back (R196); a fence of cluster scope orders no device
access (R207), and `dev` says that the write is one. -/
def Bank.fenced (b : Bank) (dev : Bool := false) : Bool :=
  b.reqs.all fun q => q.hard == b.hard && (dev || q.device || q.epoch == b.epoch)

/-- A release fence holds a queued store behind an earlier request (R196, R207). -/
def MemReq.behind (q x : MemReq) : Bool :=
  decide (x.hard < q.hard) || (!q.device && !x.device && decide (x.epoch < q.epoch))

/-- A release closes every batch and then waits; then the instruction goes on (R199, R254). -/
def State.release (s : State) (on : Bool) (scope : Nat) (k : State → Res) : Res :=
  if on then s.closing (fun _ => true) 0 fun s =>
    match s.releaseGo scope with
    | some r => s.settle r
    | none => k s
  else k s

/-- The gate of a memory-class instruction: room, and no remote acquire before it (R199, R211). -/
def State.gate (s : State) (k : State → Res) : Res :=
  if s.acqHeld then .wait (some .acq) else if s.room then k s else .wait none

/-- The gate of a suspension point, whose waits never park its bank (06_ins_control R143). -/
def State.gateSusp (s : State) (k : State → Res) : Res := if s.acqHeld || !s.room then .wait none else k s

/-- The gate of a memory-class instruction that makes no memory event: room alone (R211). -/
def State.gateRoom (s : State) (k : State → Res) : Res := if s.room then k s else .wait none

/-! ### Accesses of this package -/

/-- A store of the bank that covers the bytes of a later load of its own. -/
def MemReq.covers (q : MemReq) (pa n : Nat) : Bool := q.dst.isNone && q.pa ≤ pa && pa + n ≤ q.pa + q.size

/-- A request of the acting bank. -/
def State.newReq (s : State) (va pa key n : Nat) : MemReq :=
  { dst := none, va := BitVec.ofNat 64 va, pa := pa, size := n, data := 0, key := key, cluster := clusterOf s.cur,
    epoch := s.b.epoch, hard := s.b.hard, tc := s.tcOf s.cur, ctx := s.b.ctxkey.toNat % 4096, ver := (s.tagOf key).ver }

/-- Queue a request of the acting bank. -/
def State.addReq (s : State) (q : MemReq) : State :=
  let b := s.b
  s.setB { b with reqs := b.reqs ++ [q] }

/-- A load of this package (R212), `acq` the scope of an acquire or 0, `cnt` the read count of an LDRC, `deps` the registers
that give its address. It waits for its bank's earlier accesses to the line, unless a store in the buffer
holds all its bytes. It is performed now or later, as the turn says, an acquire now, a device access behind those before it; or it
returns what its thread has read ahead (R195, R197). -/
def State.loadLocal (s : State) (va pa key n : Nat) (d : Dst) (acq : Nat) (cnt : Option Nat) (deps : List (Bool × Nat))
    (k : State → Res) : Res :=
  let cl := clusterOf s.cur
  let a := paLocal pa
  let b := s.b
  let line := cellKey cl a / 64
  let same := b.reqs.filter fun q => q.line == line
  let dev := isDevice a
  if s.pairTo s.cur a || !s.acquireGo acq then .wait none
  else if dev || same.isEmpty then
    if acq = 0 && (s.late || (dev && b.devPending)) then
      k (s.addReq { s.newReq va pa key n with dst := some d, cnt := cnt })
    else if dev && b.devPending then .wait none
    else match if acq = 0 && bitAt s.choice 3 then s.preFind s.cur line deps else none with
      | some x => k (s.setB (b.deliver d (x.data.toNat / 2 ^ (8 * (a % 64)) % 2 ^ (8 * n)) none))
      | none =>
        let (v, p, s) := s.readAt cl pa n (some (coreOf s.cur)) cnt
        let s := (s.preAcquire s.cur acq).preKeep s.cur fun x => x.line != line
        k (s.setB (s.b.deliver d v (markOf p va)))
  else
    match same.getLast? with
    | some q =>
      if q.covers pa n && acq = 0 && (s.poisonAt (cellKey cl a) n).isNone && (s.regionAt a).isNone then
        k (s.setB (b.deliver d (q.data / 2 ^ (8 * (pa - q.pa)) % 2 ^ (8 * n)) none))
      else .wait none
    | none => .wait none

/-- A store of this package (R213): it goes into the store buffer or is performed now, as the turn says; behind a
release fence, or a device access behind another, it waits in the buffer. -/
def State.storeLocal (s : State) (va pa key n v : Nat) (rel : Bool) (k : State → Res) : Res :=
  let cl := clusterOf s.cur
  let a := paLocal pa
  let b := s.b
  let line := cellKey cl a / 64
  let dev := isDevice a
  if !dev && (s.pairTo s.cur a || b.reqOn line) then .wait none
  else
    let s := s.preKeep s.cur fun x => x.line != line
    if s.late || !b.fenced dev || (dev && b.devPending) then
      k (s.addReq { s.newReq va pa key n with data := v % 2 ^ (8 * n), rel := rel })
    else k (s.writeAt cl pa n v key (.core (coreOf s.cur)))

/-- The keys of an update of this package: its element, or the two halves of a BF16 word (R240). -/
def updKeys (etype a v : Nat) : List (Nat × Nat) :=
  if etype = 6 then [(a, v % 2 ^ 16), (a + 2, v / 2 ^ 16 % 2 ^ 16)] else [(a, v % 2 ^ updWidth etype)]

/-- An update of this package: accepted now or later, as the turn says, and behind an earlier one of the thread to the same
element (R190). -/
def State.updLocal (s : State) (pa v etype : Nat) (k : State → Res) : Res :=
  let p : Pair :=
    { who := s.cur, keys := updKeys etype (paLocal pa) v, tc := s.tcOf s.cur, ctx := s.b.ctxkey.toNat % 4096 }
  if !s.b.fenced || s.b.reqOn (paLocal pa / 64) then .wait none
  else
    let s := s.preKeep s.cur fun x => x.line != paLocal pa / 64
    if s.late || s.pairs.any p.clash then k { s with pairs := s.pairs ++ [p] } else k (s.acceptPair p)

/-! ### Accesses of another package, R256 -/

/-- The lines of [a, a + n). -/
def linesOf (a n : Nat) : List Nat := (List.range ((a + (n - 1)) / 64 + 1 - a / 64)).map (· + a / 64)

/-- A line of an operation has an earlier access of the bank outstanding, or a block an update (R206, R253). -/
def State.farBusy (s : State) (o : RemOp) : Bool :=
  o.lines.any fun l => s.lineBusy s.cur o.pkg l || s.remotePairTo s.cur o.pkg (l * 64)

/-- A read-class operation on [a, a + n): it waits for an earlier access to its lines, which a batch may have to be closed for (R206,
R253, R254). -/
def State.readRemote (s : State) (o : RemOp) (a n : Nat) (k : State → Res) : Res :=
  let o : RemOp := { o with who := s.cur, lines := linesOf a n, ctx := [s.b.ctxkey.toNat % 4096] }
  s.closing (fun b => o.lines.any (b.names o.pkg)) 0 fun s =>
    if s.farBusy o then .done (s.waitOn none) else k (s.issueRop o false)

/-- A serial-class operation: as readRemote, and it needs a free slot (R264), and a serial near enough (R273); a release fence holds it
(R196). A lane of an instruction that goes on (`near`) takes no exception: it waits until its serial is near enough. -/
def State.serialRemote (s : State) (o : RemOp) (a : Nat) (near : Bool) (k : State → Res) : Res :=
  let o : RemOp := { o with who := s.cur, lines := [a / 64], ctx := [s.b.ctxkey.toNat % 4096] }
  if s.b.batches.any fun b => !b.closed && o.lines.any (b.names o.pkg) then
    s.closing (fun b => o.lines.any (b.names o.pkg)) 0 fun s => .done (s.waitOn none)
  else if s.farBusy o || !s.b.fenced then .wait none
  else if near then
    (if s.slotFree s.cur 1 && (s.serialFar s.cur 1).isNone && !s.b.batches.any (·.closed) then k (s.issueRop o true)
      else .wait none)
  else s.closing (fun _ => false) 1 fun s => k (s.issueRop o true)

/-- Add the pairs of one update to the open batch of a package, in order: a batch of 64 pairs is closed (R254). `va` is the
address of the update and `a` its local address there: the first pair of a batch gives the batch its address (R271). -/
def State.addPairs (s : State) (r pkg va a : Nat) : List (Nat × Nat) → State
  | [] => s
  | p :: l =>
    let b := s.bank r
    let ctx := b.ctxkey.toNat % 4096
    let bs := match findIdx (fun x : Batch => x.pkg == pkg && !x.closed) b.batches with
      | some i => modNth (fun x => { x with pairs := x.pairs ++ [p], ctx := (ctx :: x.ctx).eraseDups }) b.batches i
      | none =>
        b.batches ++ [{ pkg := pkg, age := s.cycle, va := va + (p.1 - a), born := s.nextCmd, ctx := [ctx], pairs := [p] }]
    ((s.setBank r { b with batches := bs }).closeQuiet r
      (fun x => x.pkg == pkg && !x.closed && 64 ≤ x.pairs.length)).addPairs r pkg va a l

/-- How many batches the pairs for each package would fill (R462). -/
def State.batchesFilled (s : State) (l : List (Nat × Nat)) : Nat :=
  ((l.map (·.1)).eraseDups).foldl (fun n pkg =>
    let have' := (s.b.batches.filter fun x => x.pkg == pkg && !x.closed).foldl (fun m x => m + x.pairs.length) 0
    n + (have' + (l.filter fun p => p.1 == pkg).length) / 64) 0

/-- A thread reads a line of a tier of this package ahead of its instructions (R195, R197): no edge keeps it back while no acquire
of another package is awaited and no store or update of its own to the line is pending. A block with pending values is not read so:
no instruction asks for its apply (10_updates R249). -/
def State.readAhead (s : State) (r line : Nat) : State :=
  let b := s.bank r
  let a := line * 64
  if !isTier a || (b.cont.isNone && !isSvc r) || b.susp.isSome || b.reqOn line || s.pairTo r a || s.blockPending (a / 4096)
      || (s.opsOf r).any (fun e => e.2.sent && e.2.acq) then s
  else
    match s.readAt 0 (s.pkg * 2 ^ 42 + a) 64 (some (coreOf r)) none with
    | (v, none, s) =>
      { s with pre := Tab.set [] s.pre r ({ line := line, data := BitVec.ofNat 512 v } :: Tab.get [] s.pre r) }
    | (_, some _, s) => s

end Sys2Proof.Machine
end

