-- ==== Sys2Proof/Machine/LoadStore.lean ====
section
/-! DEFINITION. Loads, stores, indexed accesses, read-modify-writes, updates, PREF, DISCARD and FENCE (09_ins_memory R208
to R221; 10_updates R240 to R242; 08_ordering R196; 07_memories R183, R184). -/
namespace Sys2Proof.Machine

/-! ### LD, LDRC, LDV -/

/-- The instruction is complete. -/
def State.doneM (s : State) (len : Nat) : Res := .done (s.setB (s.b.advanceM len))

/-- A load of `n` bytes (R212, R214, R217). -/
def State.opLoad (s : State) (len : Nat) (c : Cls) (base : BitVec 5) (va : Bank → Word) (n : Nat) (d : Dst) (w : Reg)
    (acq : Bool) (o : BitVec 2) (cnt : Option Nat) : State :=
  s.issue [.g base.toNat] [w] fun s => s.gate fun s =>
    let v := (va s.b).toNat
    match s.access c v n 0 with
    | (.ok pa key kind, s) =>
      let scope := if acq then s.scopeAt o pa else 0
      if s.own pa then
        s.loadLocal v pa key n d scope (if kind = 0 then cnt else none) [(false, base.toNat)] fun s => s.doneM len
      else if !s.acquireGo scope then .wait none
      else
        s.readRemote { who := s.cur, kind := c.kind, pkg := paPkg pa, va := v, dsts := [d],
                       body := .read (paLocal pa) n, acq := scope != 0 } (paLocal pa) n fun s =>
          (s.preAcquire s.cur scope).doneM len
    | (a, s) => s.accFail a

/-- LD with its address given (R212). -/
def State.opLd (s : State) (len : Nat) (t b : BitVec 5) (sz : BitVec 2) (x : BitVec 1) (acq : Bool) (c : BitVec 2)
    (va : Bank → Word) : State :=
  s.opLoad len .ld b va (sizeOf' sz) (.g t.toNat (sizeOf' sz) (x == 1)) (.g t.toNat) acq c none

/-- LDRC with its address given: n − 1 is its field (R217). -/
def State.opLdrc (s : State) (len : Nat) (t b : BitVec 5) (sz : BitVec 2) (x : BitVec 1) (n : BitVec 4)
    (va : Bank → Word) : State :=
  s.opLoad len .ldrc b va (sizeOf' sz) (.g t.toNat (sizeOf' sz) (x == 1)) (.g t.toNat) false 0 (some (n.toNat + 1))

/-- LDV with its address given (R214). -/
def State.opLdv (s : State) (len : Nat) (t : BitVec 4) (b : BitVec 5) (acq : Bool) (c : BitVec 2) (va : Bank → Word) :
    State :=
  s.opLoad len .ldv b va 64 (.v t.toNat) (.v t.toNat) acq c none

/-! ### ST, STV -/

/-- A store of `n` bytes (R213, R214). -/
def State.opStore (s : State) (len : Nat) (c : Cls) (base : BitVec 5) (va : Bank → Word) (n : Nat) (src : Reg)
    (val : Bank → Nat) (rel : Bool) (o : BitVec 2) : State :=
  s.issue [src, .g base.toNat] [] fun s => s.gate fun s =>
    let v := (va s.b).toNat
    let x := val s.b % 2 ^ (8 * n)
    match s.access c v n 0 with
    | (.ok pa key _, s) =>
      let scope := s.scopeAt o pa
      s.release rel scope fun s =>
        if s.own pa then s.storeLocal v pa key n x rel fun s => s.doneM len
        else
          s.serialRemote { who := s.cur, kind := c.kind, pkg := paPkg pa, va := v,
                           body := .write (paLocal pa) n x key c.kind, rel := rel && scope != 0 } (paLocal pa) false
            fun s => s.doneM len
    | (a, s) => s.accFail a

/-- ST with its address given. -/
def State.opSt (s : State) (len : Nat) (t b : BitVec 5) (sz : BitVec 2) (rel : Bool) (c : BitVec 2) (va : Bank → Word) :
    State :=
  s.opStore len .st b va (sizeOf' sz) (.g t.toNat) (fun k => (k.gpr t.toNat).toNat) rel c

/-- STV with its address given. -/
def State.opStv (s : State) (len : Nat) (t : BitVec 4) (b : BitVec 5) (rel : Bool) (c : BitVec 2) (va : Bank → Word) :
    State :=
  s.opStore len .stv b va 64 (.v t.toNat) (fun k => (k.vreg t.toNat).toNat) rel c

/-! ### PREF, DISCARD, UFLUSH, UPD -/

/-- The caches after a PREF: the line comes into the cluster cache, or into the memory-side cache (R218). -/
def State.prefCaches (s : State) (ms : Bool) (a : Nat) : Caches :=
  let core := coreOf s.cur
  if ms || isSvc s.cur then s.caches.home s.fill (a / 64) false
  else s.caches.pref s.fill core (s.ways (core / 4)) (a / 64)

/-- PREF (R218): an address that would fail its checks, or that lies outside the tiers of this package or in an update or device
region, makes it do nothing. It takes no exception, so a marked base register is not consumed. -/
def State.opPref (s : State) (len : Nat) (ms : Bool) (b : BitVec 5) (va : Bank → Word) : State :=
  if s.awaits (.g b.toNat) then
    s.waitOn (if s.remoteAwaits s.cur (.g b.toNat) then some (.regs [(false, b.toNat)]) else none)
  else s.finish (s.gate fun s =>
    match s.access .ld (va s.b).toNat 1 0 with
    | (.ok pa _ kind, t) =>
      if s.own pa && isTier (paLocal pa) && (kind = 0 || kind = 2) then
        (t.recache (t.prefCaches ms (paLocal pa))).doneM len
      else s.doneM len
    | _ => s.doneM len)

/-- The line returns to the value of its backing memory (R184): no cache holds it, and the errors of its SRAM words go with
them. -/
def State.restoreLine (s : State) (l : Nat) : State :=
  match Tab.get none s.dirty l with
  | some x =>
    { s with
      mem := memPut s.mem (l * 64) 64 x.bytes.toNat
      lines := Tab.set {} s.lines l x.info
      dirty := Tab.set none s.dirty l none
      wpoison := clearWords s.wpoison (l * 64) 64
      caches := s.caches.drop (· == l) }
  | none => s

/-- DISCARD with its address given (R184, R219): the turn says which of the two values the line keeps. It is a write of
its line (08_ordering R187), so what is pending for the block is applied first (10_updates R249). -/
def State.opDiscard (s : State) (len : Nat) (b : BitVec 5) (va : Bank → Word) : State :=
  s.issue [.g b.toNat] [] fun s => s.gate fun s =>
    let v := (va s.b).toNat
    match s.access .discard v 64 0 with
    | (.ok pa _ _, s) =>
      let a := paLocal pa
      if !s.b.fenced || s.pairTo s.cur a || s.b.reqOn (cellKey (clusterOf s.cur) a / 64) then .wait none
      else
        let me : By := .core (coreOf s.cur)
        let s := (s.applyAt a 64).preKeep s.cur fun x => x.line != a / 64
        let s := { s with pre := s.preMark me (a / 64) }.recache (s.cacheWrite me a)
        (if bitAt s.choice 1 && isTier a then s.restoreLine (a / 64) else s).doneM len
    | (a, s) => s.accFail a

/-- UFLUSH with its address given (R242). -/
def State.opUflush (s : State) (len : Nat) (b : BitVec 5) (va : Bank → Word) : State :=
  s.issue [.g b.toNat] [] fun s => s.gate fun s =>
    let v := (va s.b).toNat
    match s.access .uflush v 1 0 with
    | (.ok pa _ _, s) =>
      let a := paLocal pa
      if s.own pa then
        if s.pairTo s.cur a then .wait none else (s.applyAt a 1).doneM len
      else
        s.readRemote { who := s.cur, kind := 6, pkg := paPkg pa, va := v, body := .apply a } a 1 fun s => s.doneM len
    | (a, s) => s.accFail a

/-- UPD with its address given (R240): the batches that its pairs would close are checked first (R462). -/
def State.opUpd (s : State) (len : Nat) (t b : BitVec 5) (z : Nat) (va : Bank → Word) : State :=
  s.issue [.g t.toNat, .g b.toNat] [] fun s => s.gate fun s =>
    let v := (va s.b).toNat
    let x := (s.b.gpr t.toNat).toNat
    match s.access .upd v z 0 with
    | (.ok pa _ _, s) =>
      let e := (s.regionEtype pa).getD 2
      if s.own pa then s.updLocal pa x e fun s => s.doneM len
      else if !s.b.fenced then .wait none
      else
        let l := updKeys e (paLocal pa) x
        s.closing (fun _ => false) (s.batchesFilled (l.map fun p => (paPkg pa, p.1))) fun s =>
          (s.addPairs s.cur (paPkg pa) v (paLocal pa) l).doneM len
    | (a, s) => s.accFail a

/-! ### The instructions of the M format -/

/-- LD.size gt, [gB+off] (R212). -/
def execLd (t b : BitVec 5) (z : BitVec 2) (x o : BitVec 1) (c : BitVec 2) (f : BitVec 9) (s : State) :
    Host.Outcome State Fault Refusal :=
  .next (s.opLd 4 t b z x (o == 1) c fun k => eaOff (k.gpr b.toNat) f (sizeOf' z))

/-- ST.size gt, [gB+off] (R213). -/
def execSt (t b : BitVec 5) (z : BitVec 2) (o : BitVec 1) (c : BitVec 2) (f : BitVec 9) (s : State) :
    Host.Outcome State Fault Refusal :=
  .next (s.opSt 4 t b z (o == 1) c fun k => eaOff (k.gpr b.toNat) f (sizeOf' z))

/-- LDRC.size gt, [gB+off], n (R217). -/
def execLdrc (t b : BitVec 5) (z : BitVec 2) (x : BitVec 1) (n : BitVec 4) (f : BitVec 9) (s : State) :
    Host.Outcome State Fault Refusal :=
  .next (s.opLdrc 4 t b z x n fun k => eaOff (k.gpr b.toNat) f (sizeOf' z))

/-- PREF.cc or PREF.ms [gB+off] (R218). -/
def execPref (l : BitVec 1) (b : BitVec 5) (f : BitVec 9) (s : State) : Host.Outcome State Fault Refusal :=
  .next (s.opPref 4 (l == 1) b fun k => eaOff (k.gpr b.toNat) f 64)

/-- DISCARD [gB+off] (R219). -/
def execDiscard (b : BitVec 5) (f : BitVec 9) (s : State) : Host.Outcome State Fault Refusal :=
  .next (s.opDiscard 4 b fun k => eaOff (k.gpr b.toNat) f 64)

/-- UPD.w or UPD.d gt, [gB+off] (R240). -/
def execUpd (t b : BitVec 5) (z : BitVec 1) (f : BitVec 9) (s : State) : Host.Outcome State Fault Refusal :=
  .next (s.opUpd 4 t b (sizeWd z) fun k => eaOff (k.gpr b.toNat) f (sizeWd z))

/-- UFLUSH [gB+off] (R242). -/
def execUflush (b : BitVec 5) (f : BitVec 9) (s : State) : Host.Outcome State Fault Refusal :=
  .next (s.opUflush 4 b fun k => eaOff (k.gpr b.toNat) f 64)

/-- LDV v, [gB+off] (R214). -/
def execLdv (t : BitVec 4) (b : BitVec 5) (o : BitVec 1) (c : BitVec 2) (f : BitVec 9) (s : State) :
    Host.Outcome State Fault Refusal :=
  .next (s.opLdv 4 t b (o == 1) c fun k => eaOff (k.gpr b.toNat) f 64)

/-- STV v, [gB+off] (R214). -/
def execStv (t : BitVec 4) (b : BitVec 5) (o : BitVec 1) (c : BitVec 2) (f : BitVec 9) (s : State) :
    Host.Outcome State Fault Refusal :=
  .next (s.opStv 4 t b (o == 1) c fun k => eaOff (k.gpr b.toNat) f 64)

/-- XM: a memory instruction with a 32-bit byte offset (R74, R208). -/
def State.opXm (s : State) (f : MemOp) (t b : BitVec 5) (z : BitVec 2) (x : BitVec 1) (o c : BitVec 2)
    (lit : BitVec 32) : State :=
  let va (k : Bank) : Word := eaLit (k.gpr b.toNat) lit
  let v4 : BitVec 4 := t.setWidth 4
  match f with
  | .ld => s.opLd 8 t b z x (o == 1) c va
  | .st => s.opSt 8 t b z (o == 2) c va
  | .ldrc => s.opLdrc 8 t b z x (o ++ c) va
  | .pref => s.opPref 8 (t == 1) b va
  | .discard => s.opDiscard 8 b va
  | .upd => s.opUpd 8 t b (sizeOf' z) va
  | .uflush => s.opUflush 8 b va
  | .ldv => s.opLdv 8 v4 b (o == 1) c va
  | .stv => s.opStv 8 v4 b (o == 2) c va

/-- XM (R74). -/
def execXm (f : MemOp) (t b : BitVec 5) (z : BitVec 2) (x : BitVec 1) (o c : BitVec 2) (lit : BitVec 32) (s : State) :
    Host.Outcome State Fault Refusal :=
  .next (s.opXm f t b z x o c lit)

/-! ### CAS, SWAP, FADD, R220 and R221 -/

/-- A read-modify-write of this package: the value to write is a function of the old one, none to write nothing. A
poisoned word is not written (R220). -/
def State.rmwLocal (s : State) (va pa key n t : Nat) (f : Nat → Option Nat) (k : State → Res) : Res :=
  let cl := clusterOf s.cur
  let core := coreOf s.cur
  let (old, p, s) := s.readAt cl pa n (some core)
  let s := match p with
    | some _ => s
    | none => match f old with
      | some new => s.writeAt cl pa n new key (.core core)
      | none => s
  let s := s.preKeep s.cur fun x => x.line != paLocal pa / 64
  k (s.setB (s.b.deliver (.g t n false) old (markOf p va)))

/-- CAS, SWAP or FADD: `f` gives the value to write from the old one and the operands; `body` is the operation at
another package. -/
def State.opRmw (s : State) (reads : List Reg) (t b : BitVec 5) (z : BitVec 1) (o c : BitVec 2)
    (f : Bank → Nat → Option Nat) (body : Bank → Nat → Nat → RemBody) : State :=
  let n := sizeWd z
  let rel := o == 2 || o == 3
  let acq := o == 1 || o == 3
  s.issue (reads ++ [.g b.toNat]) [.g t.toNat] fun s => s.gate fun s =>
    let v := (s.b.gpr b.toNat).toNat
    match s.access .rmw v n 0 with
    | (.ok pa key _, s) =>
      let scope := s.scopeAt c pa
      s.release rel scope fun s =>
        let a := paLocal pa
        let sa := if acq then scope else 0
        if !s.acquireGo sa then .done (s.waitOn none)
        else if s.own pa then
          if !s.b.fenced || s.pairTo s.cur a || s.b.reqOn (cellKey (clusterOf s.cur) a / 64) then .done (s.waitOn none)
          else s.rmwLocal v pa key n t.toNat (f s.b) fun s => (s.preAcquire s.cur sa).doneM 4
        else
          let far : RemOp :=
            { who := s.cur, kind := 5, pkg := paPkg pa, va := v, dsts := [.g t.toNat n false], body := body s.b a key,
              acq := sa != 0, rel := rel && scope != 0 }
          s.settle (s.serialRemote far a false fun s => (s.preAcquire s.cur sa).doneM 4)
    | (a, s) => s.accFail a

/-- Low bits of a register for a read-modify-write. -/
def Bank.low (k : Bank) (r : BitVec 5) (n : Nat) : Nat := (k.gpr r.toNat).toNat % 2 ^ (8 * n)

/-- CAS gt, gs, [gB] (R220). -/
def execCas (t b : BitVec 5) (z : BitVec 1) (o c : BitVec 2) (r : BitVec 5) (s : State) :
    Host.Outcome State Fault Refusal :=
  let n := sizeWd z
  .next (s.opRmw [.g t.toNat, .g r.toNat] t b z o c
    (fun k old => if old = k.low t n then some (k.low r n) else none) fun k a y =>
      .cas a n (k.low t n) (k.low r n) y)

/-- SWAP gt, gs, [gB] (R220). -/
def execSwap (t b : BitVec 5) (z : BitVec 1) (o c : BitVec 2) (r : BitVec 5) (s : State) :
    Host.Outcome State Fault Refusal :=
  let n := sizeWd z
  .next (s.opRmw [.g r.toNat] t b z o c (fun k _ => some (k.low r n)) fun k a y =>
      .swap a n (k.low r n) y)

/-- FADD gt, gs, [gB]: an integer fetch-and-add (R220). -/
def execFadd (t b : BitVec 5) (z : BitVec 1) (o c : BitVec 2) (r : BitVec 5) (s : State) :
    Host.Outcome State Fault Refusal :=
  let n := sizeWd z
  .next (s.opRmw [.g r.toNat] t b z o c (fun k old => some ((old + k.low r n) % 2 ^ (8 * n))) fun k a y =>
    .fadd a n (k.low r n) y)

/-! ### Indexed accesses, R215, R216, R241 -/

/-- The checks of every active lane in ascending order: the lane operations, or the failure of the lowest failing
lane. -/
def State.checkLanes (s : State) (c : Cls) (w : Nat) (va : Nat → Nat) (data : Nat → Nat) :
    List Nat → List LaneOp → Except Acc (List LaneOp) × State
  | [], acc => (.ok acc.reverse, s)
  | i :: l, acc =>
    match s.access c (va i) w i false with
    | (.ok pa key _, s) => s.checkLanes c w va data l ({ lane := i, va := va i, pa := pa, key := key, data := data i } :: acc)
    | (a, s) => (.error a, s)

/-- Once every lane has passed, the walks set D for the lanes of a write (16_tables R391). -/
def State.markLanes (s : State) (c : Cls) (w : Nat) (l : List LaneOp) : State :=
  if c.need.w then l.foldl (fun s x => (s.access c x.va w x.lane).2) s else s

/-- Issue the lanes that are left, in order: the instruction keeps its place where one must wait (R206, R211, R264). -/
def State.runLanes (f : State → LaneOp → (State → Res) → Res) (fin : State → Res) (fuel : Nat) (s : State) : Res :=
  match fuel with
  | 0 => .wait none
  | n + 1 =>
    match s.b.todo with
    | [] =>
      let b := s.b
      fin (s.setB { b with busy := none })
    | x :: rest =>
      if !s.room then .done (s.waitOn none)
      else s.settle (f s x fun s =>
        let b := s.b
        State.runLanes f fin n (s.setB { b with todo := rest }))

/-- The active lanes of an indexed access. -/
def activeLanes (k : BitVec 16) (n : Nat) : List Nat := (List.range n).filter fun i => laneOn k i

/-- An indexed instruction: its checks, then its lanes; `i` is the instruction that goes on while lanes are left. -/
def State.opIndexed (s : State) (i : Instr) (c : Cls) (reads writes : List Reg) (w h : Nat) (a : BitVec 4)
    (k : BitVec 3) (b : BitVec 5) (data : Bank → Nat → Nat) (start : List LaneOp → State → (State → Res) → Res)
    (f : State → LaneOp → (State → Res) → Res) : State :=
  let fin (s : State) : Res := s.doneM 4
  if s.b.busy = some i then s.finish (s.runLanes f fin 17)
  else
    s.issue (reads ++ [.v a.toNat, .g b.toNat]) writes fun s => s.gate fun s =>
      let x := s.b
      let va (j : Nat) : Nat := (eaLane (x.gpr b.toNat) (elem (x.vreg a.toNat) (8 * w) j) h).toNat
      match s.checkLanes c w va (data x) (activeLanes (x.kreg k.toNat) (64 / w)) [] with
      | (.error e, s) => s.accFail e
      | (.ok l, s) =>
        start l (s.markLanes c w l) fun s =>
          let y := s.b
          (s.setB { y with todo := l, busy := some i }).runLanes f fin 17

/-- The serial-class operations of a list of lanes, and the closing of the batches that name their lines, may issue: the check of
R273 for all of them and for the batches that wait before them (R462), before any executes. -/
def State.lanesNear (s : State) (serial : Bool) (l : List LaneOp) (k : State → Res) : Res :=
  let far := l.filter fun x => !s.own x.pa
  let names (b : Batch) : Bool := far.any fun x => b.names (paPkg x.pa) (paLocal x.pa / 64)
  let n := (if serial then far.length else 0) + (s.b.batches.filter fun b => !b.closed && names b).length
  let n := if n = 0 then 0 else n + (s.b.batches.filter (·.closed)).length
  if n = 0 then k s
  else match s.serialFar s.cur n with
    | some o => if o.held.isSome then .exc 9 o.einfo o.va else .wait none
    | none => s.closing names 0 k

/-- LDGV vd, [gB], va, h, k (R215). -/
def execLdgv (d a : BitVec 4) (k : BitVec 3) (e : BitVec 1) (h : BitVec 3) (b : BitVec 5) (s : State) :
    Host.Outcome State Fault Refusal :=
  let w := sizeWd e
  .next (s.opIndexed (.ldgv d a k e h b) .ldgv [] [.v d.toNat] w h.toNat a k b (fun _ _ => 0)
    (fun l s go => s.lanesNear false l fun s =>
      let x := s.b
      go (if (List.range (64 / w)).all (laneOn (x.kreg k.toNat)) then s.setB (x.setVreg d.toNat (x.vreg d.toNat)) else s))
    fun s x go =>
      let dst : Dst := .lane d.toNat x.lane (8 * w)
      if s.own x.pa then
        s.loadLocal x.va x.pa x.key w dst 0 none [(false, b.toNat), (true, a.toNat)] go
      else
        s.readRemote { who := s.cur, kind := 3, pkg := paPkg x.pa, va := x.va, dsts := [dst],
                       body := .read (paLocal x.pa) w } (paLocal x.pa) w go)

/-- STSV vd, [gB], va, h, k (R215): the active lanes in ascending order. -/
def execStsv (d a : BitVec 4) (k : BitVec 3) (e : BitVec 1) (h : BitVec 3) (b : BitVec 5) (s : State) :
    Host.Outcome State Fault Refusal :=
  let w := sizeWd e
  .next (s.opIndexed (.stsv d a k e h b) .stsv [.v d.toNat] [] w h.toNat a k b
    (fun x j => elem (x.vreg d.toNat) (8 * w) j) (fun l s go => s.lanesNear true l go)
    fun s x go =>
      if s.own x.pa then s.storeLocal x.va x.pa x.key w x.data false go
      else
        s.serialRemote { who := s.cur, kind := 4, pkg := paPkg x.pa, va := x.va,
                         body := .write (paLocal x.pa) w x.data x.key 4 } (paLocal x.pa) true go)

/-- VUPD vd, [gB], va, h, k (R241): one update for each active lane, in ascending order. The batches that the pairs would
close are checked before any pair is emitted (R462). -/
def execVupd (d a : BitVec 4) (k e h : BitVec 3) (b : BitVec 5) (s : State) : Host.Outcome State Fault Refusal :=
  let w := if e = 3 then 8 else 4
  let et := e.toNat
  .next (s.opIndexed (.vupd d a k e h b) (.vupd et) [.v d.toNat] [] w h.toNat a k b
    (fun x j => elem (x.vreg d.toNat) (8 * w) j)
    (fun l s go =>
      let far := (l.filter fun x => !s.own x.pa).flatMap fun x =>
        (updKeys et (paLocal x.pa) x.data).map fun p => (paPkg x.pa, p.1)
      s.closing (fun _ => false) (s.batchesFilled far) go)
    fun s x go =>
      if s.own x.pa then s.updLocal x.pa x.data et go
      else if !s.b.fenced then .wait none
      else go (s.addPairs s.cur (paPkg x.pa) x.va (paLocal x.pa) (updKeys et (paLocal x.pa) x.data)))

/-! ### FENCE, R196 -/

/-- Earlier reads have returned, as a fence of a scope asks: those of other packages count for domain scope only (R193). -/
def State.readsGo (s : State) (scope : Nat) : Option Res :=
  let far := (s.opsOf s.cur).filter fun e => e.2.sent && !e.2.dsts.isEmpty
  if scope = 3 && !far.isEmpty then some (.wait (some (.ops (far.map (·.1)))))
  else if s.acqHeld then some (.wait (some .acq))
  else if s.b.reqs.any (fun q => q.dst.isSome && !(scope = 1 && q.device)) then some (.wait none)
  else none

/-- A release fence: later writes stay behind the accesses before it; reads do not. A fence of domain scope waits for
the replies of other packages. -/
def State.fenceRel (s : State) (scope : Nat) (k : State → Res) : Res :=
  if scope = 3 && s.farWaits then .wait (some .all)
  else if s.acqHeld then .wait (some .acq)
  else if s.pairs.any fun p => p.who == s.cur then .wait none
  else if s.b.reqs.isEmpty then k s
  else
    let b := s.b
    k (s.setB { b with epoch := b.epoch + 1, hard := if scope = 1 then b.hard else b.hard + 1 })

/-- FENCE.order.scope (R196): a domain-scope fence first closes the bank's batches (R254); one that orders later reads forgets what
was read ahead. -/
def State.opFence (s : State) (o c : BitVec 2) : State :=
  let scope := s.scopeOf c
  s.issue [] [] fun s => if !s.room then .wait none else s.closing (fun _ => scope = 3) 0 fun s =>
    let fin (s : State) : Res := s.doneM 4
    let reads (s : State) : State := s.preAcquire s.cur scope
    s.settle (match o with
      | 0 => match s.releaseGo scope with
        | some r => r
        | none => fin (reads s)
      | 1 => match s.readsGo scope with
        | some r => r
        | none => fin (reads s)
      | 2 => s.fenceRel scope fin
      | _ => match s.readsGo scope with
        | some r => r
        | none => (reads s).fenceRel scope fin)

/-- FENCE (R196). -/
def execFence (o c : BitVec 2) (s : State) : Host.Outcome State Fault Refusal := .next (s.opFence o c)

/-! ### Completion of a bank's request, R211 -/

/-- The n-th outstanding request of a bank is performed: a load writes its register, and what its thread has read ahead may not be used
under an address that the register gives (R194); a store behind a release fence waits for the requests before the fence, and a device
access for those before it (R195). The store is one of its thread and is written under the key that it was translated with (16_tables
R407). -/
def State.bankRequestDone (s : State) (r n : Nat) : State :=
  let b := s.bank r
  match b.reqs[n]? with
  | none => s
  | some q =>
    let b' := { b with reqs := dropNth b.reqs n }
    if q.device && (b.reqs.take n).any MemReq.device then s
    else match q.dst with
    | some d =>
      let (v, p, t) := s.readAt q.cluster q.pa q.size (some (coreOf r)) q.cnt
      ((t.setBank r (b'.deliver d v (markOf p q.va.toNat))).preKeep r fun x => x.line != q.line).preWritten r
        (d.reg.toList.map Reg.pair)
    | none =>
      if b.reqs.any q.behind then s
      else { ({ s with cur := r }.setBank r b').writeAt q.cluster q.pa q.size q.data q.key (.core (coreOf r)) (some q.ver) with
        cur := s.cur }

end Sys2Proof.Machine
end

