-- ==== Sys2Proof/Machine/Counters.lean ====
section
/-! DEFINITION. Semaphores, barrier objects, TIME and the event counters (15_counters R371 to R383). SEMW and BARW are
suspension points and stand in Suspend.lean. -/
namespace Sys2Proof.Machine

/-! ### Semaphores, R371, R373, R374 -/

/-- Global number of a leaf's doorbell. -/
def State.doorbell (s : State) (leaf : Nat) : Nat := fld (s.eff leaf 11 3) 19 8 + fld (s.rcb leaf 12) 15 8

/-- A leaf's semaphore window and doorbell meet R410. -/
def State.windowOk (s : State) (leaf : Nat) : Bool :=
  let sc := s.eff leaf 11 3
  let len := fld sc 28 20
  fld sc 19 8 + len ≤ 4096 && len ≤ 256 && fld (s.rcb leaf 12) 15 8 < len

/-- The semaphore that an instruction of the acting bank names; none at or above the window's length, and none past 4,095, where no
usable leaf reaches (R371). -/
def State.semIndex (s : State) (x : Word) : Option Nat :=
  if isSvc s.cur then some (x.toNat % 4096)
  else match s.b.cont with
    | some c =>
      let w := s.eff (s.contLeaf c) 11 3
      if x.toNat < fld w 28 20 ∧ fld w 19 8 + x.toNat < 4096 then some (fld w 19 8 + x.toNat) else none
    | none => none

/-- SEMS ga, gb: a release at package scope (R373, R202). -/
def execSems (a b : BitVec 5) (s : State) : Host.Outcome State Fault Refusal :=
  .next (s.issue [.g a.toNat, .g b.toNat] [] fun s => s.gate fun s =>
    match s.semIndex (s.b.gpr a.toNat) with
    | none => .exc 4 0 (s.b.gpr a.toNat).toNat
    | some n => s.release true 2 fun s =>
        let v := (s.b.gpr b.toNat).toNat % 2 ^ 32
        .done ((s.setB (s.b.advanceM 4)).semSignal n v))

/-- SEMR gd, ga (R374): no memory event, so that no acquire holds it. -/
def execSemr (d a : BitVec 5) (s : State) : Host.Outcome State Fault Refusal :=
  .next (s.issue [.g a.toNat] [.g d.toNat] fun s => s.gateRoom fun s =>
    match s.semIndex (s.b.gpr a.toNat) with
    | none => .exc 4 0 (s.b.gpr a.toNat).toNat
    | some n => .done (s.setB ((s.b.setGpr d.toNat (BitVec.ofNat 64 (s.sem n).count)).advanceM 4)))

/-! ### Barrier objects, R376 to R381 -/

/-- A barrier object as its 16 bytes hold it (R376); `rsv` is its reserved field. -/
structure Bar where
  expected : Nat
  arrived : Nat
  early : Nat
  phase : Nat
  armed : Bool
  rsv : Nat
  tmo : Nat
  deriving DecidableEq, Repr

/-- An object from its 16 bytes. -/
def barOf (w : Nat) : Bar :=
  { expected := fld w 63 32, arrived := fld w 31 0, early := fld w 127 96, phase := fld w 95 88, armed := bitAt w 87,
    rsv := fld w 86 80, tmo := fld w 79 64 }

/-- The 16 bytes of an object. -/
def Bar.word (b : Bar) : Nat :=
  b.arrived % 2 ^ 32 + b.expected % 2 ^ 32 * 2 ^ 32 + b.tmo % 2 ^ 16 * 2 ^ 64 + b.rsv % 2 ^ 7 * 2 ^ 80
    + bit01 b.armed * 2 ^ 87 + b.phase % 256 * 2 ^ 88 + b.early % 2 ^ 32 * 2 ^ 96

/-- Counts saturate at 2^32 − 1 (R376). -/
def satAdd (a b : Nat) : Nat := Nat.min (a + b) (2 ^ 32 - 1)

/-- A phase completes (R377). -/
def Bar.complete (b : Bar) : Bar :=
  { b with early := b.arrived - b.expected, arrived := 0, armed := false, phase := (b.phase + 1) % 256 }

/-- A counted arrival of `n` bytes (R377). -/
def Bar.arrive (b : Bar) (n : Nat) : Bar :=
  if !b.armed then { b with early := satAdd b.early n }
  else
    let b := { b with arrived := satAdd b.arrived n }
    if b.expected ≤ b.arrived then b.complete else b

/-- BARI (R378). -/
def Bar.arm (b : Bar) (expected tmo : Nat) (keep : Bool) : Bar :=
  let b := if b.armed then b else { b with arrived := if keep then b.early else 0, early := 0, armed := true }
  let b := { b with expected := expected % 2 ^ 32, tmo := tmo % 2 ^ 16 }
  if b.expected ≤ b.arrived then b.complete else b

/-- Key of an object for its waiter list. -/
def barKey (cluster pa : Nat) : Nat := cellKey cluster (paLocal pa)

/-- What a waiter of an object acquires as it completes: what was counted into the phase that it noted, when that is over, and the
object's own bytes (08_ordering R201). -/
def State.preDone (s : State) (key : Nat) (b : Bar) (w : BarWaiter) : State :=
  if w.phase = b.phase then s.preKeep (preWho w.who) fun x => x.line != key / 64 else s.preBarw (preWho w.who) key w.phase

/-- After a counter action every BARW waiter of the object is examined: it completes when ARMED is 0 or PHASE differs
from the one it noted (R376), and its timer has not run out before (R380). -/
def State.barExamine (s : State) (key : Nat) (b : Bar) : State :=
  let l := Tab.get [] s.bars key
  let go (w : BarWaiter) : Bool := decide (s.time ≤ w.expiry) && (!b.armed || w.phase != b.phase)
  let s := { s with bars := Tab.set [] s.bars key (l.filter fun w => !go w) }
  ((l.filter go).foldl (State.preDone · key b ·) s).wakeAll ((l.filter go).map (·.who))

/-- A counter action on an object of this package, in one atomic step; none when a byte of it is poisoned (R376,
R459), with the REASON. `see` is what the action counts into the phase of the object (08_ordering R201). -/
def State.barAction (s : State) (by' : By) (cluster pa key : Nat) (see : Nat → State → State) (f : Bar → Bar) : Except Nat State :=
  match s.readAt cluster pa 16 (match by' with | .core n => some n | _ => none) with
  | (_, some r, _) => .error r
  | (w, none, s) =>
    let b := f (barOf w)
    .ok (((see (barOf w).phase s).writeAt cluster pa 16 b.word key by').barExamine (barKey cluster pa) b)

/-- Scope of the edges through a barrier object (08_ordering R201): cluster in scratch, package in a sync region of this package,
domain at another package. -/
def State.barScope (s : State) (pa : Nat) : Nat :=
  if !s.own pa then 3 else if isScratch (paLocal pa) && !isSvc s.cur then 1 else 2

/-- A BARA is a release of what its thread has seen (08_ordering R201): a BARW of its phase acquires what agents of the scope have written. -/
def State.preBara (s : State) (key scope phase : Nat) : State := s.preCount key phase fun x => x.stale scope

/-- BARI and BARA: the checks of R381, then the action here, or a serial-class operation whose reply completes the
instruction (R381, R459). -/
def State.opBar (s : State) (a b : BitVec 5) (rel : Bool) (f : Word → Bar → Bar) (body : Word → Nat → Nat → RemBody) : State :=
  s.issue [.g a.toNat, .g b.toNat] [] fun s => s.gate fun s =>
    let v := (s.b.gpr a.toNat).toNat
    let x := s.b.gpr b.toNat
    match s.access (.bar true) v 16 0 with
    | (.ok pa key _, s) =>
      let cl := clusterOf s.cur
      let ck := barKey cl pa
      s.release rel (s.barScope pa) fun s =>
        if s.own pa then
          if !s.b.fenced || s.b.reqOn (ck / 64) || s.pairTo s.cur (paLocal pa) then .done (s.waitOn none)
          else match s.barAction (.core (coreOf s.cur)) cl pa key
              (fun n s => if rel then s.preBara ck (s.barScope pa) n else s) (f x) with
            | .error r => .done (s.raise 6 (10 + r * 2 ^ 9) v)
            | .ok t => (t.preKeep t.cur fun y => y.line != ck / 64).doneM 4
        else
          s.settle (s.serialRemote { who := s.cur, kind := 5, pkg := paPkg pa, va := v, body := body x (paLocal pa) key }
            (paLocal pa) false fun s =>
              let k := s.b
              .done (s.setB { k with blocked := some (s.nextOp - 1) }))
    | (e, s) => s.accFail e

/-- BARI ga, gb and BARI.ke ga, gb (R378). -/
def execBari (a b : BitVec 5) (k : BitVec 1) (s : State) : Host.Outcome State Fault Refusal :=
  .next (s.opBar a b false (fun x o => o.arm (x.toNat % 2 ^ 32) (fld x.toNat 47 32) (k == 1)) fun x p y =>
    .bari p (x.toNat % 2 ^ 32) (fld x.toNat 47 32) (k == 1) y)

/-- BARA ga, gb: a counted arrival and a release (R379). -/
def execBara (a b : BitVec 5) (s : State) : Host.Outcome State Fault Refusal :=
  .next (s.opBar a b true (fun x o => o.arrive (x.toNat % 2 ^ 32)) fun x p y =>
    .bara p (x.toNat % 2 ^ 32) y)

/-! ### TIME and the event counters, R382 and R383 -/

/-- RDTIME gd (R382). -/
def execRdtime (d : BitVec 5) (s : State) : Host.Outcome State Fault Refusal :=
  .next (s.issue [] [.g d.toNat] fun s =>
    .done (s.setB ((s.b.setGpr d.toNat (BitVec.ofNat 64 s.time)).advance 4)))

/-- Owner entries in use of a slice (11_remote R267). -/
def ownerSlice (rcid : Nat) : Nat := 8 + (fld rcid 20 20 ^^^ fld rcid 0 0)

/-- The counters of R383: none for a selector that the table does not list. -/
def State.perfRead (s : State) (cls inst ev : Nat) : Option Nat :=
  let get := Tab.get 0 s.events (cls * 2 ^ 24 + inst * 2 ^ 8 + ev)
  match cls with
  | 0 => if ev ≤ 6 then some (Tab.get 0 s.b.perf ev) else none
  | 1 =>
    if 9 < inst ∨ 0x0e < ev then none
    else match ev with
      | 0 => some (Tab.get 0 s.caches.hits inst)
      | 1 => some (Tab.get 0 s.caches.misses inst)
      | 0x0e => some (s.owner.filter fun e => ownerSlice e.rcid == inst).length
      | _ => some get
  | 2 => if 35 < inst ∨ 3 < ev then none else some get
  | 3 => if 143 < inst ∨ 6 < ev then none else some get
  | 4 => if 9 < inst ∨ 1 < ev then none else some get
  | _ => none

/-- RDPERF gd, ga (R383): a class other than 0x00 is privileged. -/
def execRdperf (d a : BitVec 5) (s : State) : Host.Outcome State Fault Refusal :=
  .next (s.issue [.g a.toNat] [.g d.toNat] fun s =>
    let x := (s.b.gpr a.toNat).toNat
    let cls := fld x 15 8
    if cls ≠ 0 ∧ s.b.priv = false then .exc 1 4 0
    else
      let v := (s.perfRead cls (fld x 31 16) (fld x 7 0)).getD (2 ^ 64 - 1)
      .done (s.setB ((s.b.setGpr d.toNat (BitVec.ofNat 64 v)).advance 4)))

end Sys2Proof.Machine
end

