-- ==== Sys2Proof/Decode.lean ====
section
/-! DEFINITION. Decoding of instruction words and the encoder beside it (03_encoding R59 to R76). Decoding is total:
a word that is not an instruction gives the subcode that exception 0x01 reports, the lowest that applies (R76). -/
namespace Sys2Proof

/-! ### Formats of R60 -/

/-- R format: major · d · a · b · func8 · mod. -/
def encR (mj : BitVec 6) (d a b : BitVec 5) (f : BitVec 8) (m : BitVec 3) : BitVec 32 :=
  mj ++ d ++ a ++ b ++ f ++ m

/-- I format: major · d · a · imm16. -/
def encI (mj : BitVec 6) (d a : BitVec 5) (i : BitVec 16) : BitVec 32 := mj ++ d ++ a ++ i

/-- M format: major · t · base · size · extend · order · scope · off9. -/
def encM (mj : BitVec 6) (t b : BitVec 5) (s : BitVec 2) (x : BitVec 1) (o c : BitVec 2) (f : BitVec 9) :
    BitVec 32 := mj ++ t ++ b ++ s ++ x ++ o ++ c ++ f

/-- B format: major · a · b · off16. -/
def encB (mj : BitVec 6) (a b : BitVec 5) (o : BitVec 16) : BitVec 32 := mj ++ a ++ b ++ o

/-- J format: major · off26. -/
def encJ (mj : BitVec 6) (o : BitVec 26) : BitVec 32 := mj ++ o

/-- V format: major · vd · va · vb · mask · etype · func8. -/
def encV (mj : BitVec 6) (d a b : BitVec 4) (k e : BitVec 3) (f : BitVec 8) : BitVec 32 :=
  mj ++ d ++ a ++ b ++ k ++ e ++ f

/-- Q format: major · reg · queue · mask · kind · arg. -/
def encQ (mj : BitVec 6) (r : BitVec 5) (q : BitVec 6) (k : BitVec 3) (n : BitVec 4) (g : BitVec 8) : BitVec 32 :=
  mj ++ r ++ q ++ k ++ n ++ g

/-- E format: major · d · s · b · c · func6. -/
def encE (mj : BitVec 6) (d s b c : BitVec 5) (f : BitVec 6) : BitVec 32 := mj ++ d ++ s ++ b ++ c ++ f

/-- First word of XI: major · d · a · base major · zero (R74). -/
def encX2 (mj : BitVec 6) (d a : BitVec 5) (bm : BitVec 6) (z : BitVec 10) : BitVec 32 := mj ++ d ++ a ++ bm ++ z

/-- Bits 7:3 of an 8-bit index, which lie in the b field (R68). -/
def idxHi (i : BitVec 8) : BitVec 5 := i.extractLsb' 3 5
/-- Bits 2:0 of an 8-bit index, which lie in the mod field (R68). -/
def idxLo (i : BitVec 8) : BitVec 3 := i.extractLsb' 0 3

/-! ### Function spaces -/

/-- func8 of the ALU functions that read b, R64. -/
def aluCode (f : AluOp) : BitVec 8 :=
  match f with
  | .add => 0x00 | .sub => 0x01 | .mul => 0x02 | .mulh => 0x03 | .mulhu => 0x04 | .div => 0x05 | .divu => 0x06
  | .rem => 0x07 | .remu => 0x08 | .and => 0x10 | .or => 0x11 | .xor => 0x12 | .andn => 0x13 | .orn => 0x14
  | .shl => 0x18 | .shr => 0x19 | .sra => 0x1a | .ror => 0x1b | .min => 0x20 | .max => 0x21 | .minu => 0x22
  | .maxu => 0x23 | .slt => 0x24 | .sltu => 0x25 | .seq => 0x26 | .sne => 0x27 | .sel => 0x28 | .addw => 0x38
  | .subw => 0x39 | .mulw => 0x3a | .lea => 0x40 | .clamp => 0x41 | .idx2 => 0x42

/-- The ALU function of a func8 that reads b. -/
def aluOfCode (f : Nat) : Option AluOp :=
  match f with
  | 0x00 => some .add | 0x01 => some .sub | 0x02 => some .mul | 0x03 => some .mulh | 0x04 => some .mulhu
  | 0x05 => some .div | 0x06 => some .divu | 0x07 => some .rem | 0x08 => some .remu | 0x10 => some .and
  | 0x11 => some .or | 0x12 => some .xor | 0x13 => some .andn | 0x14 => some .orn | 0x18 => some .shl
  | 0x19 => some .shr | 0x1a => some .sra | 0x1b => some .ror | 0x20 => some .min | 0x21 => some .max
  | 0x22 => some .minu | 0x23 => some .maxu | 0x24 => some .slt | 0x25 => some .sltu | 0x26 => some .seq
  | 0x27 => some .sne | 0x28 => some .sel | 0x38 => some .addw | 0x39 => some .subw | 0x3a => some .mulw
  | 0x40 => some .lea | 0x41 => some .clamp | 0x42 => some .idx2 | _ => none

/-- The three-register instruction of an ALU function. -/
def aluInstr (f : AluOp) (d a b : BitVec 5) (m : BitVec 3) : Instr :=
  match f with
  | .add => .add d a b | .sub => .sub d a b | .mul => .mul d a b | .mulh => .mulh d a b | .mulhu => .mulhu d a b
  | .div => .div d a b | .divu => .divu d a b | .rem => .rem d a b | .remu => .remu d a b | .and => .and d a b
  | .or => .or d a b | .xor => .xor d a b | .andn => .andn d a b | .orn => .orn d a b | .shl => .shl d a b
  | .shr => .shr d a b | .sra => .sra d a b | .ror => .ror d a b | .min => .min d a b | .max => .max d a b
  | .minu => .minu d a b | .maxu => .maxu d a b | .slt => .slt d a b | .sltu => .sltu d a b | .seq => .seq d a b
  | .sne => .sne d a b | .sel => .sel d a b | .addw => .addw d a b | .subw => .subw d a b | .mulw => .mulw d a b
  | .lea => .lea d a b m | .clamp => .clamp d a b | .idx2 => .idx2 d a b

/-- Base major of XI, R63 and R74. -/
def immMajor (f : ImmOp) : BitVec 6 :=
  match f with
  | .addi => 0x02 | .andi => 0x03 | .ori => 0x04 | .xori => 0x05 | .slti => 0x06 | .sltiu => 0x07 | .li => 0x09
  | .lui => 0x0a

/-- The instruction that a base major of XI names. -/
def immOfMajor (m : Nat) : Option ImmOp :=
  match m with
  | 0x02 => some .addi | 0x03 => some .andi | 0x04 => some .ori | 0x05 => some .xori | 0x06 => some .slti
  | 0x07 => some .sltiu | 0x09 => some .li | 0x0a => some .lui | _ => none

/-- Base major of XM, R63 and R74. -/
def memMajor (f : MemOp) : BitVec 6 :=
  match f with
  | .ld => 0x24 | .st => 0x25 | .ldrc => 0x26 | .pref => 0x27 | .discard => 0x28 | .upd => 0x2d | .uflush => 0x2e
  | .ldv => 0x2f | .stv => 0x30

/-- The instruction that a base major of XM names. -/
def memOfMajor (m : Nat) : Option MemOp :=
  match m with
  | 0x24 => some .ld | 0x25 => some .st | 0x26 => some .ldrc | 0x27 => some .pref | 0x28 => some .discard
  | 0x2d => some .upd | 0x2e => some .uflush | 0x2f => some .ldv | 0x30 => some .stv | _ => none


/-- The words of an instruction: its instruction word and, for an X form, its literal word (R59); an event has none. -/
def encode (i : Instr) : Option (BitVec 32 × Option (BitVec 32)) :=
  match i with
  | .add d a b => some (encR 0x01#6 d a b 0x0#8 0x0#3, none)
  | .sub d a b => some (encR 0x01#6 d a b 0x1#8 0x0#3, none)
  | .mul d a b => some (encR 0x01#6 d a b 0x2#8 0x0#3, none)
  | .mulh d a b => some (encR 0x01#6 d a b 0x3#8 0x0#3, none)
  | .mulhu d a b => some (encR 0x01#6 d a b 0x4#8 0x0#3, none)
  | .div d a b => some (encR 0x01#6 d a b 0x5#8 0x0#3, none)
  | .divu d a b => some (encR 0x01#6 d a b 0x6#8 0x0#3, none)
  | .rem d a b => some (encR 0x01#6 d a b 0x7#8 0x0#3, none)
  | .remu d a b => some (encR 0x01#6 d a b 0x8#8 0x0#3, none)
  | .and d a b => some (encR 0x01#6 d a b 0x10#8 0x0#3, none)
  | .or d a b => some (encR 0x01#6 d a b 0x11#8 0x0#3, none)
  | .xor d a b => some (encR 0x01#6 d a b 0x12#8 0x0#3, none)
  | .andn d a b => some (encR 0x01#6 d a b 0x13#8 0x0#3, none)
  | .orn d a b => some (encR 0x01#6 d a b 0x14#8 0x0#3, none)
  | .shl d a b => some (encR 0x01#6 d a b 0x18#8 0x0#3, none)
  | .shr d a b => some (encR 0x01#6 d a b 0x19#8 0x0#3, none)
  | .sra d a b => some (encR 0x01#6 d a b 0x1a#8 0x0#3, none)
  | .ror d a b => some (encR 0x01#6 d a b 0x1b#8 0x0#3, none)
  | .min d a b => some (encR 0x01#6 d a b 0x20#8 0x0#3, none)
  | .max d a b => some (encR 0x01#6 d a b 0x21#8 0x0#3, none)
  | .minu d a b => some (encR 0x01#6 d a b 0x22#8 0x0#3, none)
  | .maxu d a b => some (encR 0x01#6 d a b 0x23#8 0x0#3, none)
  | .slt d a b => some (encR 0x01#6 d a b 0x24#8 0x0#3, none)
  | .sltu d a b => some (encR 0x01#6 d a b 0x25#8 0x0#3, none)
  | .seq d a b => some (encR 0x01#6 d a b 0x26#8 0x0#3, none)
  | .sne d a b => some (encR 0x01#6 d a b 0x27#8 0x0#3, none)
  | .sel d a b => some (encR 0x01#6 d a b 0x28#8 0x0#3, none)
  | .clz d a w => some (encR 0x01#6 d a 0x0#5 0x30#8 w, none)
  | .ctz d a w => some (encR 0x01#6 d a 0x0#5 0x31#8 w, none)
  | .popc d a w => some (encR 0x01#6 d a 0x0#5 0x32#8 w, none)
  | .brev d a w => some (encR 0x01#6 d a 0x0#5 0x33#8 w, none)
  | .bswap d a w => some (encR 0x01#6 d a 0x0#5 0x34#8 w, none)
  | .addw d a b => some (encR 0x01#6 d a b 0x38#8 0x0#3, none)
  | .subw d a b => some (encR 0x01#6 d a b 0x39#8 0x0#3, none)
  | .mulw d a b => some (encR 0x01#6 d a b 0x3a#8 0x0#3, none)
  | .lea d a b h => some (encR 0x01#6 d a b 0x40#8 h, none)
  | .clamp d a b => some (encR 0x01#6 d a b 0x41#8 0x0#3, none)
  | .idx2 d a b => some (encR 0x01#6 d a b 0x42#8 0x0#3, none)
  | .addi d a i => some (encI 0x02#6 d a i, none)
  | .andi d a i => some (encI 0x03#6 d a i, none)
  | .ori d a i => some (encI 0x04#6 d a i, none)
  | .xori d a i => some (encI 0x05#6 d a i, none)
  | .slti d a i => some (encI 0x06#6 d a i, none)
  | .sltiu d a i => some (encI 0x07#6 d a i, none)
  | .shli d a n => some (encI 0x08#6 d a (0x0#8 ++ n), none)
  | .shri d a n => some (encI 0x08#6 d a (0x1#8 ++ n), none)
  | .srai d a n => some (encI 0x08#6 d a (0x2#8 ++ n), none)
  | .li d i => some (encI 0x09#6 d 0x0#5 i, none)
  | .lui d i => some (encI 0x0a#6 d 0x0#5 i, none)
  | .movk d h i => some (encI 0x0b#6 d (0x0#3 ++ h) i, none)
  | .movkW d h lit => some (encX2 0x3d#6 d (0x0#4 ++ h) 0x0b#6 0x0#10, some lit)
  | .ext d a l p => some (encI 0x0c#6 d a (0x0#4 ++ l ++ p), none)
  | .extS d a l p => some (encI 0x0c#6 d a (0x4#4 ++ l ++ p), none)
  | .ins d a l p => some (encI 0x0c#6 d a (0x8#4 ++ l ++ p), none)
  | .vadd d a b k e => some (encV 0x10#6 d a b k e 0x0#8, none)
  | .vsub d a b k e => some (encV 0x10#6 d a b k e 0x1#8, none)
  | .vmul d a b k e => some (encV 0x10#6 d a b k e 0x2#8, none)
  | .vmulh d a b k e => some (encV 0x10#6 d a b k e 0x3#8, none)
  | .vmin d a b k e => some (encV 0x10#6 d a b k e 0x4#8, none)
  | .vmax d a b k e => some (encV 0x10#6 d a b k e 0x5#8, none)
  | .vand d a b k e => some (encV 0x10#6 d a b k e 0x6#8, none)
  | .vor d a b k e => some (encV 0x10#6 d a b k e 0x7#8, none)
  | .vxor d a b k e => some (encV 0x10#6 d a b k e 0x8#8, none)
  | .vshl d a b k e => some (encV 0x10#6 d a b k e 0x9#8, none)
  | .vshr d a b k e => some (encV 0x10#6 d a b k e 0xa#8, none)
  | .vsra d a b k e => some (encV 0x10#6 d a b k e 0xb#8, none)
  | .vcmpEq d a b k e => some (encV 0x10#6 (0x0#1 ++ d) a b k e 0x10#8, none)
  | .vcmpNe d a b k e => some (encV 0x10#6 (0x0#1 ++ d) a b k e 0x11#8, none)
  | .vcmpLt d a b k e => some (encV 0x10#6 (0x0#1 ++ d) a b k e 0x12#8, none)
  | .vcmpLe d a b k e => some (encV 0x10#6 (0x0#1 ++ d) a b k e 0x13#8, none)
  | .vcmpLtu d a b k e => some (encV 0x10#6 (0x0#1 ++ d) a b k (0x1#2 ++ e) 0x14#8, none)
  | .vcmpLeu d a b k e => some (encV 0x10#6 (0x0#1 ++ d) a b k (0x1#2 ++ e) 0x15#8, none)
  | .vsel d a b k e => some (encV 0x10#6 d a b k e 0x18#8, none)
  | .vmovv d a k e => some (encV 0x10#6 d a 0x0#4 k e 0x19#8, none)
  | .viota d k e => some (encV 0x10#6 d 0x0#4 0x0#4 k (0x1#2 ++ e) 0x1a#8, none)
  | .vperm d a b e => some (encV 0x10#6 d a b 0x0#3 e 0x1b#8, none)
  | .vcompress d a k e => some (encV 0x10#6 d a 0x0#4 k e 0x1c#8, none)
  | .vredAdd d a k e => some (encV 0x10#6 d a 0x0#4 k (0x1#2 ++ e) 0x20#8, none)
  | .vredMin d a k e => some (encV 0x10#6 d a 0x0#4 k (0x1#2 ++ e) 0x21#8, none)
  | .vredMax d a k e => some (encV 0x10#6 d a 0x0#4 k (0x1#2 ++ e) 0x22#8, none)
  | .vredMinu d a k e => some (encV 0x10#6 d a 0x0#4 k (0x1#2 ++ e) 0x23#8, none)
  | .vredMaxu d a k e => some (encV 0x10#6 d a 0x0#4 k (0x1#2 ++ e) 0x24#8, none)
  | .vredAnd d a k e => some (encV 0x10#6 d a 0x0#4 k (0x1#2 ++ e) 0x25#8, none)
  | .vredOr d a k e => some (encV 0x10#6 d a 0x0#4 k (0x1#2 ++ e) 0x26#8, none)
  | .vredXor d a k e => some (encV 0x10#6 d a 0x0#4 k (0x1#2 ++ e) 0x27#8, none)
  | .vredFadd d a k => some (encV 0x10#6 d a 0x0#4 k 0x4#3 0x28#8, none)
  | .vredFmin d a k => some (encV 0x10#6 d a 0x0#4 k 0x4#3 0x29#8, none)
  | .vredFmax d a k => some (encV 0x10#6 d a 0x0#4 k 0x4#3 0x2a#8, none)
  | .vscanAdd d a k e => some (encV 0x10#6 d a 0x0#4 k (0x1#2 ++ e) 0x30#8, none)
  | .vscanMin d a k e => some (encV 0x10#6 d a 0x0#4 k (0x1#2 ++ e) 0x31#8, none)
  | .vscanMax d a k e => some (encV 0x10#6 d a 0x0#4 k (0x1#2 ++ e) 0x32#8, none)
  | .vscanMinu d a k e => some (encV 0x10#6 d a 0x0#4 k (0x1#2 ++ e) 0x33#8, none)
  | .vscanMaxu d a k e => some (encV 0x10#6 d a 0x0#4 k (0x1#2 ++ e) 0x34#8, none)
  | .vscanAnd d a k e => some (encV 0x10#6 d a 0x0#4 k (0x1#2 ++ e) 0x35#8, none)
  | .vscanOr d a k e => some (encV 0x10#6 d a 0x0#4 k (0x1#2 ++ e) 0x36#8, none)
  | .vscanXor d a k e => some (encV 0x10#6 d a 0x0#4 k (0x1#2 ++ e) 0x37#8, none)
  | .vscanFadd d a k => some (encV 0x10#6 d a 0x0#4 k 0x4#3 0x38#8, none)
  | .vscanFmin d a k => some (encV 0x10#6 d a 0x0#4 k 0x4#3 0x39#8, none)
  | .vscanFmax d a k => some (encV 0x10#6 d a 0x0#4 k 0x4#3 0x3a#8, none)
  | .vfadd d a b k e => some (encV 0x10#6 d a b k e 0x40#8, none)
  | .vfmul d a b k e => some (encV 0x10#6 d a b k e 0x41#8, none)
  | .vfma d a b k e => some (encV 0x10#6 d a b k e 0x42#8, none)
  | .vfmin d a b k e => some (encV 0x10#6 d a b k e 0x43#8, none)
  | .vfmax d a b k e => some (encV 0x10#6 d a b k e 0x44#8, none)
  | .vcvt d a s k r t => some (encV 0x10#6 d a s k 0x0#3 (0x1#1 ++ r ++ t), none)
  | .kand d a b => some (encV 0x11#6 (0x0#1 ++ d) (0x0#1 ++ a) (0x0#1 ++ b) 0x0#3 0x0#3 0x0#8, none)
  | .kor d a b => some (encV 0x11#6 (0x0#1 ++ d) (0x0#1 ++ a) (0x0#1 ++ b) 0x0#3 0x0#3 0x1#8, none)
  | .knot d a => some (encV 0x11#6 (0x0#1 ++ d) (0x0#1 ++ a) 0x0#4 0x0#3 0x0#3 0x2#8, none)
  | .kmov d a => some (encV 0x11#6 (0x0#1 ++ d) (0x0#1 ++ a) 0x0#4 0x0#3 0x0#3 0x3#8, none)
  | .vbcast d a w => some (encR 0x12#6 (0x0#1 ++ d) a 0x0#5 0x0#8 (0x0#2 ++ w), none)
  | .vmovg d a l w => some (encR 0x12#6 d (0x0#1 ++ a) (0x0#1 ++ l) 0x1#8 (0x0#2 ++ w), none)
  | .kmovKg d a => some (encR 0x12#6 (0x0#2 ++ d) a 0x0#5 0x2#8 0x0#3, none)
  | .kmovGk d a => some (encR 0x12#6 d (0x0#2 ++ a) 0x0#5 0x3#8 0x0#3, none)
  | .beq a b o => some (encB 0x18#6 a b o, none)
  | .bne a b o => some (encB 0x19#6 a b o, none)
  | .blt a b o => some (encB 0x1a#6 a b o, none)
  | .bge a b o => some (encB 0x1b#6 a b o, none)
  | .bltu a b o => some (encB 0x1c#6 a b o, none)
  | .bgeu a b o => some (encB 0x1d#6 a b o, none)
  | .bqb a o => some (encB 0x1e#6 a 0x0#5 o, none)
  | .j o => some (encJ 0x20#6 o, none)
  | .jal o => some (encJ 0x21#6 o, none)
  | .nop => some (encR 0x22#6 0x0#5 0x0#5 0x0#5 0x0#8 0x0#3, none)
  | .jr a => some (encR 0x22#6 0x0#5 a 0x0#5 0x1#8 0x0#3, none)
  | .jalr d a => some (encR 0x22#6 d a 0x0#5 0x2#8 0x0#3, none)
  | .susp => some (encR 0x22#6 0x0#5 0x0#5 0x0#5 0x8#8 0x0#3, none)
  | .spawn a u => some (encR 0x22#6 0x0#5 a 0x0#5 0x9#8 (0x0#2 ++ u), none)
  | .exit => some (encR 0x22#6 0x0#5 0x0#5 0x0#5 0xa#8 0x0#3, none)
  | .wakeat a => some (encR 0x22#6 0x0#5 a 0x0#5 0xb#8 0x0#3, none)
  | .trap i => some (encR 0x22#6 0x0#5 0x0#5 (idxHi i) 0x10#8 (idxLo i), none)
  | .sysc i => some (encR 0x22#6 0x0#5 0x0#5 (idxHi i) 0x11#8 (idxLo i), none)
  | .eret => some (encR 0x22#6 0x0#5 0x0#5 0x0#5 0x12#8 0x0#3, none)
  | .csrr d i => some (encR 0x22#6 d 0x0#5 (idxHi i) 0x18#8 (idxLo i), none)
  | .csrw a i => some (encR 0x22#6 0x0#5 a (idxHi i) 0x19#8 (idxLo i), none)
  | .csrx d a i => some (encR 0x22#6 d a (idxHi i) 0x1a#8 (idxLo i), none)
  | .ld t b s x o c f => some (encM 0x24#6 t b s x (0x0#1 ++ o) c f, none)
  | .st t b s o c f => some (encM 0x25#6 t b s 0x0#1 (o ++ 0x0#1) c f, none)
  | .ldrc t b s x n f => some (encM 0x26#6 t b s x (n.extractLsb' 2 2) (n.extractLsb' 0 2) f, none)
  | .pref l b f => some (encM 0x27#6 (0x0#4 ++ l) b 0x3#2 0x0#1 0x0#2 0x0#2 f, none)
  | .discard b f => some (encM 0x28#6 0x0#5 b 0x3#2 0x0#1 0x0#2 0x0#2 f, none)
  | .fence o c => some (encM 0x29#6 0x0#5 0x0#5 0x0#2 0x0#1 o c 0x0#9, none)
  | .cas t b z o c s => some (encM 0x2a#6 t b (0x1#1 ++ z) 0x0#1 o c (s ++ 0x0#4), none)
  | .swap t b z o c s => some (encM 0x2b#6 t b (0x1#1 ++ z) 0x0#1 o c (s ++ 0x0#4), none)
  | .fadd t b z o c s => some (encM 0x2c#6 t b (0x1#1 ++ z) 0x0#1 o c (s ++ 0x0#4), none)
  | .upd t b z f => some (encM 0x2d#6 t b (0x1#1 ++ z) 0x0#1 0x0#2 0x0#2 f, none)
  | .uflush b f => some (encM 0x2e#6 0x0#5 b 0x3#2 0x0#1 0x0#2 0x0#2 f, none)
  | .ldv t b o c f => some (encM 0x2f#6 (0x0#1 ++ t) b 0x3#2 0x0#1 (0x0#1 ++ o) c f, none)
  | .stv t b o c f => some (encM 0x30#6 (0x0#1 ++ t) b 0x3#2 0x0#1 (o ++ 0x0#1) c f, none)
  | .ldgv d a k e h b => some (encV 0x31#6 d a 0x0#4 k (0x1#2 ++ e) (h ++ b), none)
  | .stsv d a k e h b => some (encV 0x32#6 d a 0x0#4 k (0x1#2 ++ e) (h ++ b), none)
  | .vupd d a k e h b => some (encV 0x33#6 d a 0x0#4 k e (h ++ b), none)
  | .cpy d s b c => some (encE 0x34#6 d s b c 0x0#6, none)
  | .mcast d s b c => some (encE 0x34#6 d s b c 0x1#6, none)
  | .strm d s b c => some (encE 0x34#6 d s b c 0x2#6, none)
  | .gath d s b c => some (encE 0x34#6 d s b c 0x3#6, none)
  | .waitp d => some (encE 0x34#6 d 0x0#5 0x0#5 0x0#5 0x4#6, none)
  | .rqry d a => some (encR 0x35#6 d a 0x0#5 0x0#8 0x0#3, none)
  | .vpush r q k s p => some (encQ 0x36#6 (0x0#1 ++ r) q k 0x0#4 (0x0#3 ++ s ++ p), none)
  | .spush r q w p => some (encQ 0x36#6 r q 0x0#3 0x1#4 (0x0#3 ++ w ++ p), none)
  | .mpush r q c => some (encQ 0x36#6 r q 0x0#3 0x2#4 c, none)
  | .qflush q => some (encQ 0x36#6 0x0#5 q 0x0#3 0x3#4 0x0#8, none)
  | .vpop r q k m d => some (encQ 0x36#6 (0x0#1 ++ r) q k 0x4#4 (0x0#2 ++ m ++ d), none)
  | .spop r q => some (encQ 0x36#6 r q 0x0#3 0x5#4 0x0#8, none)
  | .qstat r q x s => some (encQ 0x36#6 r q 0x0#3 0x6#4 (x ++ s), none)
  | .qwait r q m => some (encQ 0x36#6 r q 0x0#3 0x7#4 (0x0#6 ++ m), none)
  | .semw a b => some (encR 0x37#6 0x0#5 a b 0x0#8 0x0#3, none)
  | .sems a b => some (encR 0x37#6 0x0#5 a b 0x1#8 0x0#3, none)
  | .semr d a => some (encR 0x37#6 d a 0x0#5 0x2#8 0x0#3, none)
  | .bari a b k => some (encR 0x37#6 0x0#5 a b 0x8#8 (0x0#2 ++ k), none)
  | .bara a b => some (encR 0x37#6 0x0#5 a b 0x9#8 0x0#3, none)
  | .barw a => some (encR 0x37#6 0x0#5 a 0x0#5 0xa#8 0x0#3, none)
  | .rdtime d => some (encR 0x37#6 d 0x0#5 0x0#5 0x10#8 0x0#3, none)
  | .rdperf d a => some (encR 0x37#6 d a 0x0#5 0x11#8 0x0#3, none)
  | .tinvAll => some (encR 0x38#6 0x0#5 0x0#5 0x0#5 0x0#8 0x0#3, none)
  | .tinvCtx a => some (encR 0x38#6 0x0#5 a 0x0#5 0x0#8 0x1#3, none)
  | .tinvPage a b => some (encR 0x38#6 0x0#5 a b 0x0#8 0x2#3, none)
  | .extw a b => some (encR 0x38#6 0x0#5 a b 0x1#8 0x0#3, none)
  | .urtw a b => some (encR 0x38#6 0x0#5 a b 0x2#8 0x0#3, none)
  | .keyopCreate d a => some (encR 0x38#6 d a 0x0#5 0x3#8 0x0#3, none)
  | .keyopRotate d a => some (encR 0x38#6 d a 0x0#5 0x3#8 0x1#3, none)
  | .keyopDestroy d a => some (encR 0x38#6 d a 0x0#5 0x3#8 0x2#3, none)
  | .keyopQuery d a => some (encR 0x38#6 d a 0x0#5 0x3#8 0x3#3, none)
  | .launch a => some (encR 0x38#6 0x0#5 a 0x0#5 0x4#8 0x0#3, none)
  | .xr f d a m lit => some (encR 0x3c#6 d a 0x0#5 (aluCode f) m, some lit)
  | .xi f d a lit => some (encX2 0x3d#6 d a (immMajor f) 0x0#10, some lit)
  | .xm f t b s x o c lit => some (encM 0x3e#6 t b s x o c (memMajor f ++ 0x0#3), some lit)
  | .xq q lit => some (encQ 0x3f#6 0x0#5 q 0x0#3 0x2#4 0x0#8, some lit)
  | .illegalInstruction _ => none
  | .fetchFault _ => none
  | .pendingExceptionEntry _ => none
  | .qparkThreshold _ => none
  | .rparkThreshold _ => none
  | .parkDrainComplete _ => none
  | .bankReturn _ => none
  | .memoryRequestComplete _ => none
  | .suspensionWriteback _ => none
  | .wakeTimeReached _ => none
  | .continuationDispatch _ => none
  | .bankControlWrite _ _ _ => none
  | .bankModeChangeDone _ _ => none
  | .updatePairAccept _ => none
  | .regionStatusClear _ _ => none
  | .batchTimerClose _ _ => none
  | .streamBeatPush _ => none
  | .engineComplete _ => none
  | .engineFault _ => none
  | .promiseMissed _ => none
  | .barwTimeout _ => none
  | .semaphoreSignalWrite _ _ => none
  | .semaphoreValueWrite _ _ => none
  | .ownerSerialRequest _ => none
  | .ownerAckMessage _ => none
  | .ownerRqry _ => none
  | .ownerReadRequest _ => none
  | .remoteReply _ => none
  | .busyResend _ => none
  | .retransmitTimer _ => none
  | .retransmitExhausted _ => none
  | .ackMessageSend _ => none
  | .floorExpire _ => none
  | .queueStallEnd _ => none
  | .chainBeatReceive _ => none
  | .chainAckReceive _ => none
  | .chainRetransmit _ => none
  | .chainRetransmitExhausted _ => none
  | .chainKeepalive _ => none
  | .chainConsumerTimeout _ => none
  | .chainFaultNotice _ => none
  | .stageFire _ _ _ => none
  | .scratchUnitCycle _ _ => none
  | .ochreTokenStep _ => none
  | .matrixFireStart _ => none
  | .matrixFireEnd _ => none
  | .matrixMarkerStep _ => none
  | .matrixDrainRow _ _ => none
  | .matrixUncorrectableError _ => none
  | .patrolStep => none
  | .formatRangeWrite _ _ => none
  | .formatRangeHeldWrite _ _ _ => none
  | .launchTake _ => none
  | .launchWaitMet _ => none
  | .stagingComplete _ => none
  | .groupPlace _ _ _ _ => none
  | .groupConfigAck _ _ => none
  | .groupDone _ _ => none
  | .launchComplete _ => none
  | .pageWaitPriority _ => none
  | .groupIdlePark _ _ => none
  | .groupSaveComplete _ _ => none
  | .groupUnpark _ _ _ _ => none
  | .preemptDeadline _ => none
  | .sync _ => none
  | .preempt _ => none
  | .resume _ => none
  | .evict _ => none
  | .restore _ => none
  | .restoreany _ => none
  | .endcont _ => none
  | .endgroup _ => none
  | .answer _ => none
  | .scmdRefused _ _ => none
  | .hostCxlMemRead _ => none
  | .hostCxlMemWrite _ _ _ => none
  | .hostSnoop _ _ => none
  | .hostBar0Access _ _ _ _ => none
  | .hostPortUp _ _ => none
  | .hostPortDown _ => none
  | .fabricFlitReceive _ _ _ => none
  | .fabricPortUp _ _ => none
  | .fabricPortDown _ => none
  | .routingTableWrite _ _ => none
  | .packageReset _ => none
  | .pkgidWrite _ => none
  | .plimitWrite _ => none
  | .scrubctlWrite _ => none
  | .sbootWrite _ _ => none
  | .strapWrite _ _ => none
  | .throttleChange _ _ => none
  | .spdmGetVersion _ => none
  | .spdmGetCapabilities _ => none
  | .spdmNegotiateAlgorithms _ => none
  | .spdmGetDigests _ => none
  | .spdmGetCertificate _ => none
  | .spdmChallenge _ => none
  | .spdmGetMeasurements _ => none
  | .deviceRegisterWrite _ _ => none
  | .stagingFault _ => none

/-! ### Decoder -/

/-- The instruction, or FIELD when a field limit is broken. -/
def fieldChk (c : Bool) (i : Instr) : Except IllSub Instr := if c then .ok i else .error .field

/-- FIELD before ORDER, R76. -/
def orderChk (c o : Bool) (i : Instr) : Except IllSub Instr :=
  if c then (if o then .ok i else .error .order) else .error .field

/-- Major 0x01, R64. -/
def decodeAlu (d a b : BitVec 5) (f : BitVec 8) (m : BitVec 3) : Except IllSub Instr :=
  match aluOfCode f.toNat with
  | some op => fieldChk (op == .lea || m == 0#3) (aluInstr op d a b m)
  | none =>
    match f.toNat with
    | 0x30 => fieldChk (b == 0#5 && decide (m.toNat < 4)) (.clz d a m)
    | 0x31 => fieldChk (b == 0#5 && decide (m.toNat < 4)) (.ctz d a m)
    | 0x32 => fieldChk (b == 0#5 && decide (m.toNat < 4)) (.popc d a m)
    | 0x33 => fieldChk (b == 0#5 && decide (m.toNat < 4)) (.brev d a m)
    | 0x34 => fieldChk (b == 0#5 && decide (m.toNat < 3)) (.bswap d a m)
    | _ => .error .func

/-- Majors 0x02 to 0x0C, R65. -/
def decodeImm (mj : Nat) (d a : BitVec 5) (i : BitVec 16) : Except IllSub Instr :=
  match mj with
  | 0x02 => .ok (.addi d a i)
  | 0x03 => .ok (.andi d a i)
  | 0x04 => .ok (.ori d a i)
  | 0x05 => .ok (.xori d a i)
  | 0x06 => .ok (.slti d a i)
  | 0x07 => .ok (.sltiu d a i)
  | 0x08 =>
    let ok := i.extractLsb' 10 6 == 0#6
    match (i.extractLsb' 8 2).toNat with
    | 0 => fieldChk ok (.shli d a (i.extractLsb' 0 8))
    | 1 => fieldChk ok (.shri d a (i.extractLsb' 0 8))
    | 2 => fieldChk ok (.srai d a (i.extractLsb' 0 8))
    | _ => .error .func
  | 0x09 => fieldChk (a == 0#5) (.li d i)
  | 0x0a => fieldChk (a == 0#5) (.lui d i)
  | 0x0b => fieldChk (a.extractLsb' 2 3 == 0#3) (.movk d (a.extractLsb' 0 2) i)
  | _ =>
    let l := i.extractLsb' 6 6
    let p := i.extractLsb' 0 6
    let ok := i.extractLsb' 12 2 == 0#2 && extOk l p
    match (i.extractLsb' 14 2).toNat with
    | 0 => fieldChk ok (.ext d a l p)
    | 1 => fieldChk ok (.extS d a l p)
    | 2 => fieldChk ok (.ins d a l p)
    | _ => .error .func

/-- Element-wise integer instructions of major 0x10 by func8, R66. -/
def vecInt (f : Nat) : Option (BitVec 4 → BitVec 4 → BitVec 4 → BitVec 3 → BitVec 3 → Instr) :=
  match f with
  | 0x00 => some .vadd | 0x01 => some .vsub | 0x02 => some .vmul | 0x03 => some .vmulh | 0x04 => some .vmin
  | 0x05 => some .vmax | 0x06 => some .vand | 0x07 => some .vor | 0x08 => some .vxor | 0x09 => some .vshl
  | 0x0a => some .vshr | 0x0b => some .vsra | _ => none

/-- Element-wise floating-point instructions by func8, R66. -/
def vecFp (f : Nat) : Option (BitVec 4 → BitVec 4 → BitVec 4 → BitVec 3 → BitVec 3 → Instr) :=
  match f with
  | 0x40 => some .vfadd | 0x41 => some .vfmul | 0x42 => some .vfma | 0x43 => some .vfmin | 0x44 => some .vfmax
  | _ => none

/-- Signed and equality compares by func8, R66. -/
def vecCmp (f : Nat) : Option (BitVec 3 → BitVec 4 → BitVec 4 → BitVec 3 → BitVec 3 → Instr) :=
  match f with
  | 0x10 => some .vcmpEq | 0x11 => some .vcmpNe | 0x12 => some .vcmpLt | 0x13 => some .vcmpLe | _ => none

/-- Unsigned compares by func8, R66. -/
def vecCmpU (f : Nat) : Option (BitVec 3 → BitVec 4 → BitVec 4 → BitVec 3 → BitVec 1 → Instr) :=
  match f with
  | 0x14 => some .vcmpLtu | 0x15 => some .vcmpLeu | _ => none

/-- Integer reductions and scans by func8, R66. -/
def vecRed (f : Nat) : Option (BitVec 4 → BitVec 4 → BitVec 3 → BitVec 1 → Instr) :=
  match f with
  | 0x20 => some .vredAdd | 0x21 => some .vredMin | 0x22 => some .vredMax | 0x23 => some .vredMinu
  | 0x24 => some .vredMaxu | 0x25 => some .vredAnd | 0x26 => some .vredOr | 0x27 => some .vredXor
  | 0x30 => some .vscanAdd | 0x31 => some .vscanMin | 0x32 => some .vscanMax | 0x33 => some .vscanMinu
  | 0x34 => some .vscanMaxu | 0x35 => some .vscanAnd | 0x36 => some .vscanOr | 0x37 => some .vscanXor | _ => none

/-- Floating-point reductions and scans by func8, R66. -/
def vecRedF (f : Nat) : Option (BitVec 4 → BitVec 4 → BitVec 3 → Instr) :=
  match f with
  | 0x28 => some .vredFadd | 0x29 => some .vredFmin | 0x2a => some .vredFmax | 0x38 => some .vscanFadd
  | 0x39 => some .vscanFmin | 0x3a => some .vscanFmax | _ => none

/-- The other instructions of major 0x10 below func8 0x80, R66. -/
def decodeVecMisc (d a b : BitVec 4) (k e : BitVec 3) (f : Nat) : Except IllSub Instr :=
  match f with
  | 0x18 => fieldChk (e != 7#3) (.vsel d a b k e)
  | 0x19 => fieldChk (e != 7#3 && b == 0#4) (.vmovv d a k e)
  | 0x1a => fieldChk (e.extractLsb' 1 2 == 1#2 && a == 0#4 && b == 0#4) (.viota d k (e.extractLsb' 0 1))
  | 0x1b => fieldChk (e != 7#3 && k == 0#3) (.vperm d a b e)
  | 0x1c => fieldChk (e != 7#3 && b == 0#4) (.vcompress d a k e)
  | _ => .error .func

/-- Major 0x10, R66. -/
def decodeVec (d a b : BitVec 4) (k e : BitVec 3) (f : BitVec 8) : Except IllSub Instr :=
  if f.extractLsb' 7 1 == 1#1 then
    let r := f.extractLsb' 4 3
    let t := f.extractLsb' 0 4
    fieldChk (e == 0#3 && cvtType b && cvtType t && decide (r.toNat < 6)) (.vcvt d a b k r t)
  else
    let n := f.toNat
    match vecInt n with
    | some mk => fieldChk (etInt e) (mk d a b k e)
    | none =>
    match vecFp n with
    | some mk => fieldChk (etFp e) (mk d a b k e)
    | none =>
    match vecCmp n with
    | some mk => fieldChk (d.extractLsb' 3 1 == 0#1 && (e == 2#3 || e == 3#3 || e == 4#3))
        (mk (d.extractLsb' 0 3) a b k e)
    | none =>
    match vecCmpU n with
    | some mk => fieldChk (d.extractLsb' 3 1 == 0#1 && e.extractLsb' 1 2 == 1#2)
        (mk (d.extractLsb' 0 3) a b k (e.extractLsb' 0 1))
    | none =>
    match vecRed n with
    | some mk => fieldChk (b == 0#4 && e.extractLsb' 1 2 == 1#2) (mk d a k (e.extractLsb' 0 1))
    | none =>
    match vecRedF n with
    | some mk => fieldChk (b == 0#4 && e == 4#3) (mk d a k)
    | none => decodeVecMisc d a b k e n

/-- Major 0x11, R67: the register fields name k registers. -/
def decodeMask (d a b : BitVec 4) (k e : BitVec 3) (f : BitVec 8) : Except IllSub Instr :=
  let ok := d.extractLsb' 3 1 == 0#1 && a.extractLsb' 3 1 == 0#1 && b.extractLsb' 3 1 == 0#1 && k == 0#3 && e == 0#3
  let d := d.extractLsb' 0 3
  let a := a.extractLsb' 0 3
  match f.toNat with
  | 0 => fieldChk ok (.kand d a (b.extractLsb' 0 3))
  | 1 => fieldChk ok (.kor d a (b.extractLsb' 0 3))
  | 2 => fieldChk (ok && b == 0#4) (.knot d a)
  | 3 => fieldChk (ok && b == 0#4) (.kmov d a)
  | _ => .error .func

/-- Major 0x12, R67. -/
def decodeMove (d a b : BitVec 5) (f : BitVec 8) (m : BitVec 3) : Except IllSub Instr :=
  match f.toNat with
  | 0 => fieldChk (d.extractLsb' 4 1 == 0#1 && b == 0#5 && m.extractLsb' 1 2 == 0#2)
      (.vbcast (d.extractLsb' 0 4) a (m.extractLsb' 0 1))
  | 1 => fieldChk (a.extractLsb' 4 1 == 0#1 && b.extractLsb' 4 1 == 0#1 && m.extractLsb' 1 2 == 0#2
        && (m.extractLsb' 0 1 == 0#1 || decide ((b.extractLsb' 0 4).toNat < 8)))
      (.vmovg d (a.extractLsb' 0 4) (b.extractLsb' 0 4) (m.extractLsb' 0 1))
  | 2 => fieldChk (d.extractLsb' 3 2 == 0#2 && b == 0#5 && m == 0#3) (.kmovKg (d.extractLsb' 0 3) a)
  | 3 => fieldChk (a.extractLsb' 3 2 == 0#2 && b == 0#5 && m == 0#3) (.kmovGk d (a.extractLsb' 0 3))
  | _ => .error .func

/-- Major 0x22, R68. The index of TRAP, SYSC and the CSR instructions is b, then mod. A word of SUSP, SPAWN, EXIT or WAKEAT with a field
that is not zero has subcode FIELD on a service core too, where the instruction itself has FUNC: R76 does not say which is reported
(assumption 79). -/
def decodeCtl (d a b : BitVec 5) (f : BitVec 8) (m : BitVec 3) : Except IllSub Instr :=
  let i : BitVec 8 := b ++ m
  let z := b == 0#5 && m == 0#3
  match f.toNat with
  | 0x00 => fieldChk (d == 0#5 && a == 0#5 && z) .nop
  | 0x01 => fieldChk (d == 0#5 && z) (.jr a)
  | 0x02 => fieldChk z (.jalr d a)
  | 0x08 => fieldChk (d == 0#5 && a == 0#5 && z) .susp
  | 0x09 => fieldChk (d == 0#5 && b == 0#5 && m.extractLsb' 1 2 == 0#2) (.spawn a (m.extractLsb' 0 1))
  | 0x0a => fieldChk (d == 0#5 && a == 0#5 && z) .exit
  | 0x0b => fieldChk (d == 0#5 && z) (.wakeat a)
  | 0x10 => fieldChk (d == 0#5 && a == 0#5) (.trap i)
  | 0x11 => fieldChk (d == 0#5 && a == 0#5) (.sysc i)
  | 0x12 => fieldChk (d == 0#5 && a == 0#5 && z) .eret
  | 0x18 => fieldChk (a == 0#5 && csrAssigned i) (.csrr d i)
  | 0x19 => fieldChk (d == 0#5 && csrAssigned i) (.csrw a i)
  | 0x1a => fieldChk (csrAssigned i) (.csrx d a i)
  | _ => .error .func

/-- Majors 0x24 to 0x30, R69 and R75. -/
def decodeMem (mj : Nat) (t b : BitVec 5) (s : BitVec 2) (x : BitVec 1) (o c : BitVec 2) (f : BitVec 9) :
    Except IllSub Instr :=
  let rmwOk := s.extractLsb' 1 1 == 1#1 && x == 0#1 && f.extractLsb' 0 4 == 0#4
  match mj with
  | 0x24 => orderChk (memFieldOk .ld t s x) (memOrderOk .ld o c) (.ld t b s x (o.extractLsb' 0 1) c f)
  | 0x25 => orderChk (memFieldOk .st t s x) (memOrderOk .st o c) (.st t b s (o.extractLsb' 1 1) c f)
  | 0x26 => orderChk (memFieldOk .ldrc t s x) (memOrderOk .ldrc o c) (.ldrc t b s x (o ++ c) f)
  | 0x27 => orderChk (memFieldOk .pref t s x) (memOrderOk .pref o c) (.pref (t.extractLsb' 0 1) b f)
  | 0x28 => orderChk (memFieldOk .discard t s x) (memOrderOk .discard o c) (.discard b f)
  | 0x29 => orderChk (t == 0#5 && b == 0#5 && s == 0#2 && x == 0#1 && f == 0#9) (c != 3#2) (.fence o c)
  | 0x2a => orderChk rmwOk (scopeOk (o != 0#2) c) (.cas t b (s.extractLsb' 0 1) o c (f.extractLsb' 4 5))
  | 0x2b => orderChk rmwOk (scopeOk (o != 0#2) c) (.swap t b (s.extractLsb' 0 1) o c (f.extractLsb' 4 5))
  | 0x2c => orderChk rmwOk (scopeOk (o != 0#2) c) (.fadd t b (s.extractLsb' 0 1) o c (f.extractLsb' 4 5))
  | 0x2d => orderChk (memFieldOk .upd t s x) (memOrderOk .upd o c) (.upd t b (s.extractLsb' 0 1) f)
  | 0x2e => orderChk (memFieldOk .uflush t s x) (memOrderOk .uflush o c) (.uflush b f)
  | 0x2f => orderChk (memFieldOk .ldv t s x) (memOrderOk .ldv o c) (.ldv (t.extractLsb' 0 4) b (o.extractLsb' 0 1) c f)
  | _ => orderChk (memFieldOk .stv t s x) (memOrderOk .stv o c) (.stv (t.extractLsb' 0 4) b (o.extractLsb' 1 1) c f)

/-- Majors 0x31 to 0x33, R70. -/
def decodeGather (mj : Nat) (d a b : BitVec 4) (k e : BitVec 3) (f : BitVec 8) : Except IllSub Instr :=
  let h := f.extractLsb' 5 3
  let g := f.extractLsb' 0 5
  let two := b == 0#4 && e.extractLsb' 1 2 == 1#2
  match mj with
  | 0x31 => fieldChk two (.ldgv d a k (e.extractLsb' 0 1) h g)
  | 0x32 => fieldChk two (.stsv d a k (e.extractLsb' 0 1) h g)
  | _ => fieldChk (b == 0#4 && (e == 2#3 || e == 3#3 || e == 4#3 || e == 6#3)) (.vupd d a k e h g)

/-- Major 0x34, R71. -/
def decodeEngine (d s b c : BitVec 5) (f : BitVec 6) : Except IllSub Instr :=
  match f.toNat with
  | 0 => .ok (.cpy d s b c)
  | 1 => .ok (.mcast d s b c)
  | 2 => .ok (.strm d s b c)
  | 3 => .ok (.gath d s b c)
  | 4 => fieldChk (s == 0#5 && b == 0#5 && c == 0#5) (.waitp d)
  | _ => .error .func

/-- Major 0x36, R72, R282, R292 to R302. -/
def decodeQueue (r : BitVec 5) (q : BitVec 6) (k : BitVec 3) (n : BitVec 4) (g : BitVec 8) : Except IllSub Instr :=
  let push := q != 63#6
  match n.toNat with
  | 0 => fieldChk (push && r.extractLsb' 4 1 == 0#1 && g.extractLsb' 5 3 == 0#3 && decide ((g.extractLsb' 0 4).toNat ≤ 10))
      (.vpush (r.extractLsb' 0 4) q k (g.extractLsb' 4 1) (g.extractLsb' 0 4))
  | 1 => fieldChk (push && k == 0#3 && g.extractLsb' 5 3 == 0#3 && decide ((g.extractLsb' 0 4).toNat ≤ 10))
      (.spush r q (g.extractLsb' 4 1) (g.extractLsb' 0 4))
  | 2 => fieldChk (push && k == 0#3 && markerOk g) (.mpush r q g)
  | 3 => fieldChk (push && k == 0#3 && r == 0#5 && g == 0#8) (.qflush q)
  | 4 => fieldChk (r.extractLsb' 4 1 == 0#1 && g.extractLsb' 6 2 == 0#2)
      (.vpop (r.extractLsb' 0 4) q k (g.extractLsb' 3 3) (g.extractLsb' 0 3))
  | 5 => fieldChk (k == 0#3 && g == 0#8) (.spop r q)
  | 6 =>
    let s := g.extractLsb' 0 7
    let x := g.extractLsb' 7 1
    fieldChk (k == 0#3 && decide (s.toNat ≤ 9) && (x == 0#1 || decide (3 ≤ s.toNat ∧ s.toNat ≤ 6))) (.qstat r q x s)
  | 7 => fieldChk (k == 0#3 && decide (g.toNat ≤ 2)) (.qwait r q (g.extractLsb' 0 2))
  | _ => .error .func

/-- Major 0x37, R73. -/
def decodeCounter (d a b : BitVec 5) (f : BitVec 8) (m : BitVec 3) : Except IllSub Instr :=
  let z := m == 0#3
  match f.toNat with
  | 0x00 => fieldChk (d == 0#5 && z) (.semw a b)
  | 0x01 => fieldChk (d == 0#5 && z) (.sems a b)
  | 0x02 => fieldChk (b == 0#5 && z) (.semr d a)
  | 0x08 => fieldChk (d == 0#5 && m.extractLsb' 1 2 == 0#2) (.bari a b (m.extractLsb' 0 1))
  | 0x09 => fieldChk (d == 0#5 && z) (.bara a b)
  | 0x0a => fieldChk (d == 0#5 && b == 0#5 && z) (.barw a)
  | 0x10 => fieldChk (a == 0#5 && b == 0#5 && z) (.rdtime d)
  | 0x11 => fieldChk (b == 0#5 && z) (.rdperf d a)
  | _ => .error .func

/-- Major 0x38, R73, R398 and R402. -/
def decodeTable (d a b : BitVec 5) (f : BitVec 8) (m : BitVec 3) : Except IllSub Instr :=
  match f.toNat with
  | 0x00 =>
    match m.toNat with
    | 0 => fieldChk (d == 0#5 && a == 0#5 && b == 0#5) .tinvAll
    | 1 => fieldChk (d == 0#5 && b == 0#5) (.tinvCtx a)
    | 2 => fieldChk (d == 0#5) (.tinvPage a b)
    | _ => .error .func
  | 0x01 => fieldChk (d == 0#5 && m == 0#3) (.extw a b)
  | 0x02 => fieldChk (d == 0#5 && m == 0#3) (.urtw a b)
  | 0x03 =>
    match m.toNat with
    | 0 => fieldChk (b == 0#5) (.keyopCreate d a)
    | 1 => fieldChk (b == 0#5) (.keyopRotate d a)
    | 2 => fieldChk (b == 0#5) (.keyopDestroy d a)
    | 3 => fieldChk (b == 0#5) (.keyopQuery d a)
    | _ => .error .func
  | 0x04 => fieldChk (d == 0#5 && b == 0#5 && m == 0#3) (.launch a)
  | _ => .error .func

/-- XR, R74: an ALU function that reads b, with b = —. -/
def decodeXr (d a b : BitVec 5) (f : BitVec 8) (m : BitVec 3) (lit : BitVec 32) : Except IllSub Instr :=
  match aluOfCode f.toNat with
  | some op => fieldChk (b == 0#5 && (op == .lea || m == 0#3)) (.xr op d a m lit)
  | none =>
    match decodeAlu d a b f m with
    | .error e => .error e
    | .ok _ => .error .extend

/-- XI, R74. -/
def decodeXi (d a : BitVec 5) (bm : BitVec 6) (z : BitVec 10) (lit : BitVec 32) : Except IllSub Instr :=
  if bm == 0x0b#6 then
    if z == 0#10 && a.extractLsb' 1 4 == 0#4 then .ok (.movkW d (a.extractLsb' 0 1) lit) else .error .extend
  else
    match immOfMajor bm.toNat with
    | none => .error .extend
    | some op =>
      if (op == .li || op == .lui) && a != 0#5 then .error .field
      else if z == 0#10 then .ok (.xi op d a lit) else .error .extend

/-- The subcode of an XM word with an unlisted base major: the lowest of those that apply (R76), so the limits of an
M-format instruction that takes no literal and the reserved scope come before EXTEND. -/
def xmUnlisted (bm : Nat) (t b : BitVec 5) (s : BitVec 2) (x : BitVec 1) (o c : BitVec 2) : IllSub :=
  if 0x29 ≤ bm ∧ bm ≤ 0x2c then
    match decodeMem bm t b s x o c 0#9 with
    | .error e => e
    | .ok _ => .extend
  else if c == 3#2 then .order else .extend

/-- XM, R74: the base major lies in bits 8:3. -/
def decodeXm (t b : BitVec 5) (s : BitVec 2) (x : BitVec 1) (o c : BitVec 2) (f : BitVec 9) (lit : BitVec 32) :
    Except IllSub Instr :=
  match memOfMajor (f.extractLsb' 3 6).toNat with
  | none => .error (xmUnlisted (f.extractLsb' 3 6).toNat t b s x o c)
  | some op =>
    match orderChk (memFieldOk op t s x) (memOrderOk op o c) (.xm op t b s x o c lit) with
    | .error e => .error e
    | .ok i => if f.extractLsb' 0 3 == 0#3 then .ok i else .error .extend

/-- XQ, R74 and R295. FIELD comes before EXTEND (R76): in a word of another assigned kind, a register, mask or arg
field that is not zero, or a push to queue 63, is reported as FIELD (assumption 67, DEDUCED). -/
def decodeXq (r : BitVec 5) (q : BitVec 6) (k : BitVec 3) (n : BitVec 4) (g : BitVec 8) (lit : BitVec 32) :
    Except IllSub Instr :=
  if n == 2#4 then
    fieldChk (q != 63#6 && k == 0#3 && r == 0#5 && g == 0#8 && markerOk (lit.extractLsb' 24 8)) (.xq q lit)
  else if n.toNat < 8 then
    .error (if k == 0#3 && r == 0#5 && g == 0#8 && (q != 63#6 || decide (3 < n.toNat)) then .extend else .field)
  else .error .func

/-- Decode an instruction word, with the word at the next address for the X majors (R59, R63, R76). -/
def decode (w lit : BitVec 32) : Except IllSub Instr :=
  let mj := (w.extractLsb' 26 6).toNat
  let d := w.extractLsb' 21 5
  let a := w.extractLsb' 16 5
  let b := w.extractLsb' 11 5
  let f := w.extractLsb' 3 8
  let m := w.extractLsb' 0 3
  let i := w.extractLsb' 0 16
  let ms := w.extractLsb' 14 2
  let mx := w.extractLsb' 13 1
  let mo := w.extractLsb' 11 2
  let mc := w.extractLsb' 9 2
  let mf := w.extractLsb' 0 9
  let vd := w.extractLsb' 22 4
  let va := w.extractLsb' 18 4
  let vb := w.extractLsb' 14 4
  let vk := w.extractLsb' 11 3
  let ve := w.extractLsb' 8 3
  let vf := w.extractLsb' 0 8
  let qq := w.extractLsb' 15 6
  let qk := w.extractLsb' 12 3
  let qn := w.extractLsb' 8 4
  match mj with
  | 0x01 => decodeAlu d a b f m
  | 0x02 => decodeImm 0x02 d a i
  | 0x03 => decodeImm 0x03 d a i
  | 0x04 => decodeImm 0x04 d a i
  | 0x05 => decodeImm 0x05 d a i
  | 0x06 => decodeImm 0x06 d a i
  | 0x07 => decodeImm 0x07 d a i
  | 0x08 => decodeImm 0x08 d a i
  | 0x09 => decodeImm 0x09 d a i
  | 0x0a => decodeImm 0x0a d a i
  | 0x0b => decodeImm 0x0b d a i
  | 0x0c => decodeImm 0x0c d a i
  | 0x10 => decodeVec vd va vb vk ve vf
  | 0x11 => decodeMask vd va vb vk ve vf
  | 0x12 => decodeMove d a b f m
  | 0x18 => .ok (.beq d a i)
  | 0x19 => .ok (.bne d a i)
  | 0x1a => .ok (.blt d a i)
  | 0x1b => .ok (.bge d a i)
  | 0x1c => .ok (.bltu d a i)
  | 0x1d => .ok (.bgeu d a i)
  | 0x1e => fieldChk (a == 0#5) (.bqb d i)
  | 0x20 => .ok (.j (w.extractLsb' 0 26))
  | 0x21 => .ok (.jal (w.extractLsb' 0 26))
  | 0x22 => decodeCtl d a b f m
  | 0x24 => decodeMem 0x24 d a ms mx mo mc mf
  | 0x25 => decodeMem 0x25 d a ms mx mo mc mf
  | 0x26 => decodeMem 0x26 d a ms mx mo mc mf
  | 0x27 => decodeMem 0x27 d a ms mx mo mc mf
  | 0x28 => decodeMem 0x28 d a ms mx mo mc mf
  | 0x29 => decodeMem 0x29 d a ms mx mo mc mf
  | 0x2a => decodeMem 0x2a d a ms mx mo mc mf
  | 0x2b => decodeMem 0x2b d a ms mx mo mc mf
  | 0x2c => decodeMem 0x2c d a ms mx mo mc mf
  | 0x2d => decodeMem 0x2d d a ms mx mo mc mf
  | 0x2e => decodeMem 0x2e d a ms mx mo mc mf
  | 0x2f => decodeMem 0x2f d a ms mx mo mc mf
  | 0x30 => decodeMem 0x30 d a ms mx mo mc mf
  | 0x31 => decodeGather 0x31 vd va vb vk ve vf
  | 0x32 => decodeGather 0x32 vd va vb vk ve vf
  | 0x33 => decodeGather 0x33 vd va vb vk ve vf
  | 0x34 => decodeEngine d a b (w.extractLsb' 6 5) (w.extractLsb' 0 6)
  | 0x35 => if f == 0#8 then fieldChk (b == 0#5 && m == 0#3) (.rqry d a) else .error .func
  | 0x36 => decodeQueue d qq qk qn vf
  | 0x37 => decodeCounter d a b f m
  | 0x38 => decodeTable d a b f m
  | 0x3c => decodeXr d a b f m lit
  | 0x3d => decodeXi d a (w.extractLsb' 10 6) (w.extractLsb' 0 10) lit
  | 0x3e => decodeXm d a ms mx mo mc mf lit
  | 0x3f => decodeXq d qq qk qn vf lit
  | _ => .error .major

/-- The majors whose instruction takes a literal word, R63. -/
def needsLit (w : BitVec 32) : Bool := 0x3c ≤ (w.extractLsb' 26 6).toNat

/-- Four bytes as a little-endian word, R6. -/
def wordOfBytes (b0 b1 b2 b3 : Byte) : BitVec 32 := b3 ++ b2 ++ b1 ++ b0

/-- Decode the bytes at a program counter: the instruction and the bytes after it; `none` when too few bytes are
there, and the subcode of exception 0x01 where the word is not an instruction. -/
def decodeBytes (bs : List Byte) : Option (Except IllSub (Instr × List Byte)) :=
  match bs with
  | b0 :: b1 :: b2 :: b3 :: rest =>
    let w := wordOfBytes b0 b1 b2 b3
    if needsLit w then
      match rest with
      | c0 :: c1 :: c2 :: c3 :: rest' =>
        some (match decode w (wordOfBytes c0 c1 c2 c3) with
          | .ok i => .ok (i, rest')
          | .error e => .error e)
      | _ => none
    else
      some (match decode w 0#32 with
        | .ok i => .ok (i, rest)
        | .error e => .error e)
  | _ => none

/-- The bytes of one word, lowest address first (R6). -/
def bytesOfWord (w : BitVec 32) : List Byte :=
  [w.extractLsb' 0 8, w.extractLsb' 8 8, w.extractLsb' 16 8, w.extractLsb' 24 8]

/-- The eight bytes of a table word: its `nbits` bits and zeros above, up to the longest instruction. -/
def tableBytes (nbits w : Nat) : List Byte :=
  let v := w % 2 ^ nbits
  bytesOfWord (BitVec.ofNat 32 v) ++ bytesOfWord (BitVec.ofNat 32 (v / 2 ^ 32))

/-- The instruction that the decoder reads from a word of opcode_table.json. -/
def decodeTableWord (nbits w : Nat) : Option Instr :=
  match decodeBytes (tableBytes nbits w) with
  | some (.ok (i, _)) => some i
  | _ => none

end Sys2Proof
end

