-- ==== Sys2Proof/Machine/Beat.lean ====
section
/-! DEFINITION. Beats and tokens, the queues of a group by their keys, and which of an exception, a park and a pop comes first when they
meet in one cycle (12_queues R280 to R283, R297, R312). -/
namespace Sys2Proof.Machine

/-! ### Beats, R280 to R283 -/

/-- Tag of a lane: 0 DATA, 1 EMPTY, 2 SCALE, 3 MARK (R281). -/
def Beat.tag (b : Beat) (i : Nat) : Nat := fld b.tags.toNat (2 * i + 1) (2 * i)
/-- The 32 bits of a lane. -/
def Beat.lane (b : Beat) (i : Nat) : Nat := fld b.data.toNat (32 * i + 31) (32 * i)
/-- The packing code of a lane. -/
def Beat.pk (b : Beat) (i : Nat) : Nat := fld b.pack.toNat (4 * i + 3) (4 * i)

/-- A beat with one lane replaced. -/
def Beat.put (b : Beat) (i tag pk v : Nat) : Beat :=
  { data := BitVec.ofNat 512 (putFld b.data.toNat (32 * i + 31) (32 * i) v)
    tags := BitVec.ofNat 32 (putFld b.tags.toNat (2 * i + 1) (2 * i) tag)
    pack := BitVec.ofNat 64 (putFld b.pack.toNat (4 * i + 3) (4 * i) pk) }

/-- Sixteen EMPTY lanes with packing code 0x2 (R282). -/
def emptyBeat : Beat := { data := 0, tags := 0x55555555, pack := 0x2222222222222222 }

/-- The 32 bits of a MARK lane. -/
def markWord (code arg : Nat) : Nat := code % 256 * 2 ^ 24 + arg % 2 ^ 24

/-- A marker beat: lane 0 MARK, the others EMPTY (R295). -/
def markBeat (code arg : Nat) : Beat := emptyBeat.put 0 3 2 (markWord code arg)

/-- The first token of a beat from a lane on. -/
def Beat.token (b : Beat) (from' : Nat) : Option Nat :=
  (List.range 16).find? fun i => decide (from' ≤ i) && b.tag i != 1

/-- The 80 bytes of a stored beat (R280). -/
def Beat.bytes (b : Beat) : Nat := b.data.toNat + b.tags.toNat * 2 ^ 512 + b.pack.toNat * 2 ^ 544

/-! ### Queues and their tokens -/

/-- Key of a queue of a group. -/
def queueKey (gid n : Nat) : Nat := gid * 64 + n

def State.queue (s : State) (k : Nat) : Queue := Tab.get {} s.queues k
def State.setQueue (s : State) (k : Nat) (q : Queue) : State := { s with queues := Tab.set {} s.queues k q }

/-- The group of a bank. -/
def State.gidOfBank (s : State) (r : Nat) : Nat :=
  match (s.bank r).cont with
  | some c => contGroup c
  | none => 0

/-- The next token of a queue and the queue without it; beats with no token left are removed on the way (R297). -/
def Queue.takeToken (q : Queue) : Option (Beat × Nat × Queue) :=
  let rec go (from' : Nat) : List Beat → Option (Beat × Nat × List Beat × Nat)
    | [] => none
    | b :: l => match b.token from' with
      | some i => if (b.token (i + 1)).isSome then some (b, i, b :: l, i + 1) else some (b, i, l, 0)
      | none => go 0 l
  match go q.popped q.beats with
  | some (b, i, l, p) => some (b, i, { q with beats := l, popped := p })
  | none => none

/-- An operation that counts a loss of decoupling when it finds no token (R303). -/
def QOp.pops : QOp → Bool
  | .vpop .. | .spop .. | .bqb .. => true
  | _ => false

/-! ### A stalled pop, its trap and its park, R312 -/

/-- A stalled pop has what it needs in its queue: a beat for VPOP, a token for another. -/
def QOp.filled (op : QOp) (q : Queue) : Bool :=
  match op with
  | .vpop .. => !q.beats.isEmpty
  | _ => q.takeToken.isSome

/-- The beat of a stalled pop came in the cycle in which the pop crossed its threshold: the pop completes, and the trap of the crossing is
taken behind it (R312). -/
def State.popFirst (s : State) (r : Nat) : Bool :=
  let b := s.bank r
  match b.stalled, b.stall with
  | some _, some x =>
    x.op.pops && (b.qevents.all fun e => e.at' == s.cycle && e.einfo == x.q * 2 ^ 8 + 1)
      && x.op.filled (s.queue (queueKey (s.gidOfBank r) x.q))
  | _, _ => false

/-- Threshold in cycles of a field of QTRAPCFG; none for 0 (04_registers R94). -/
def parkAfter (n : Nat) : Option Nat := if n = 0 then none else some (2 ^ Nat.max n 6)

/-- A stalled queue instruction reached the QPARK threshold no later than its traps were set: the bank parks, and they are taken on its
return (R312). -/
def State.parkFirst (s : State) (r : Nat) : Bool :=
  let b := s.bank r
  match b.stalled, b.stall, parkAfter (fld b.qtrapcfg.toNat 11 8) with
  | some t, some x, some n => !isSvc r && x.parks && b.qevents.all fun e => decide (t + n ≤ e.at')
  | _, _, _ => false

end Sys2Proof.Machine
end

