-- ==== Sys2Proof/Machine/Fetch.lean ====
section
/-! DEFINITION. What a bank does at an instruction boundary: pending exceptions, the fetch and its faults, decoding, and
the events that stand for them (06_ins_control R152 to R154; 03_encoding R59, R76; 04_registers R88, R91; 07_memories
R459). -/
namespace Sys2Proof.Machine

/-- An exception of a fetch: cause, EINFO and EADDR; cause 0x03 parks a thread bank (R98). -/
structure FetchExc where
  cause : Nat
  einfo : Nat
  eaddr : Nat
  deriving DecidableEq, Repr

/-- REASON of a physical address that a fetch cannot use (R59): device space, scratch and the spill log of a valid region
(10_updates R246) PERM, another package NOTLOCAL, no target NOTARGET. A user fetch from device space has PERM too, as R59 says for
every fetch, not the PRIVILEGE that R163 gives user accesses (assumption 78). -/
def State.fetchReason (s : State) (pa : Nat) : Option Nat :=
  let a := paLocal pa
  if paPkg pa != s.pkg then some 5
  else if isDevice a || isScratch a || (isTier a && s.inLog a) then some 0
  else if isTier a || (isHost a && s.hostUp) then none
  else some 4

/-- The checks of a fetch after its translation: privilege and X, then KEY, then the target (assumption 11). -/
def State.fetchCheck (s : State) (c : Ctx) (perm pa key : Nat) : Tr :=
  match permReason c { x := true } perm with
  | some r => .f4 r
  | none =>
    if !keyLive (s.key key) then .f4 3
    else match s.fetchReason pa with
      | some r => .f4 r
      | none => .ok pa key 0

/-- One word at a virtual address for fetch, a read like any other (10_updates R249); `n` is 1 for the literal word of an X form.
The checks of a fetch name no region kind, so none fails by it. -/
def State.fetchWord (s : State) (r n va : Nat) : Except FetchExc (BitVec 32) × State :=
  let info := 1 + n * 2
  let s := s.readyTable r
  let (t, s) := s.translateWith (fun s c perm pa key _ => s.fetchCheck c perm pa key) (s.ctxOf r) { x := true } va
  match t with
  | .f3 => (.error { cause := 3, einfo := info, eaddr := va }, s)
  | .f4 q => (.error { cause := 4, einfo := info + q * 2 ^ 9, eaddr := va }, s)
  | .f5 q => (.error { cause := 5, einfo := info + q * 2 ^ 12, eaddr := va }, s)
  | .poison q => (.error { cause := 6, einfo := info + q * 2 ^ 9, eaddr := va }, s)
  | .ok pa _ _ =>
    match s.readAt 0 (s.pkg * 2 ^ 42 + paLocal pa) 4 with
    | (_, some q, s) => (.error { cause := 6, einfo := info + q * 2 ^ 9, eaddr := va }, s)
    | (v, none, s) => (.ok (BitVec.ofNat 32 v), s)

/-- What a fetch at PC gives: an exception, or the decoding of the word with its literal. A word of an X major is followed by its
literal even where R74 makes the word itself illegal, so that a fault of the literal's fetch comes first (assumption 53). -/
def State.fetch (s : State) (r : Nat) : Except FetchExc (Except IllSub Instr) × State :=
  let pc := (s.bank r).pc
  match s.fetchWord r 0 pc.toNat with
  | (.error e, s) => (.error e, s)
  | (.ok w, s) =>
    if needsLit w then
      match s.fetchWord r 1 (pc + 4).toNat with
      | (.error e, s) => (.error e, s)
      | (.ok l, s) => (.ok (decode w l), s)
    else (.ok (decode w 0), s)

/-- Number of a subcode (R76). -/
def illSubNum : IllSub → Nat
  | .major => 0 | .func => 1 | .field => 2 | .order => 3 | .priv => 4 | .extend => 5

/-- What a requester does next: nothing; wait for the loads of an exception entry; take a pending bit of STAT; take a
fetch fault; take exception 0x01; or execute an instruction, or go on with one of which lanes are left (R153). -/
inductive Sel where
  | idle
  | entering
  | pending (bit : Nat)
  | fault (e : FetchExc)
  | illegal (sub : IllSub)
  | run (i : Instr)
  deriving DecidableEq, Repr

/-- Whether a requester executes instructions: a service core unless it waits with no pending bit of STAT (R150); a thread bank while it holds a
continuation, is the active bank of its slot, and is neither parked nor stopped nor at a suspension point (R88,
R98, R155). -/
def State.canIssue (s : State) (r : Nat) : Bool :=
  let b := s.bank r
  if isSvc r then (b.susp.isNone || b.pending.isSome) && !b.stopped && b.blocked.isNone
  else b.cont.isSome && b.blocked.isNone && s.activeBank (slotOf r) == r && b.park.isNone && !b.stopped && b.susp.isNone

/-- The pending bit that a requester takes: a thread slot in privileged mode takes none until its ERET (R91, R158). -/
def State.pendingBit (s : State) (r : Nat) : Option Nat :=
  let b := s.bank r
  if !isSvc r && b.priv then none else b.pending

/-- The pending bit that comes before the instruction: none behind a pop whose beat came in time (12_queues R312). -/
def State.trapDue (s : State) (r : Nat) : Option Nat := (s.pendingBit r).filter fun n => !(n == 20 && s.popFirst r)

/-- The choice of R153 at an instruction boundary, and the state after its fetch. A bank that parks before its trap does nothing until it
has parked (12_queues R312). -/
def State.select (s : State) (r : Nat) : Sel × State :=
  let b := s.bank r
  if !s.canIssue r then (.idle, s)
  else if b.entering.isSome then (.entering, s)
  else if b.busy.isSome then (match b.busy with | some i => .run i | none => .idle, s)
  else match s.trapDue r with
    | some n => (if n == 20 && s.parkFirst r then .idle else .pending n, s)
    | none =>
      match s.fetch r with
      | (.error e, s) => (.fault e, s)
      | (.ok (.error x), s) => (.illegal x, s)
      | (.ok (.ok i), s) => (.run i, s)

/-- ILLEGAL_INSTRUCTION: the word at PC is not an instruction (R76). -/
def execIllegalInstruction (r : Nat) (s : State) : Host.Outcome State Fault Refusal :=
  .next (match s.select r with
    | (.illegal x, t) => { t with cur := r }.illegal (illSubNum x)
    | _ => s)

/-- FETCH_FAULT: the fetch at PC takes its exception; a translation fault parks the bank first (R98, R156). -/
def execFetchFault (r : Nat) (s : State) : Host.Outcome State Fault Refusal :=
  .next (match s.select r with
    | (.fault e, t) =>
      let t := { t with cur := r }
      if e.cause = 3 then t.parkFault e.einfo e.eaddr else t.raise e.cause e.einfo e.eaddr
    | _ => s)

/-- The remote fault whose operation was issued first (R272). -/
def firstRemote : List RFault → Option RFault
  | [] => none
  | x :: l => match firstRemote l with
    | some y => if y.order < x.order then some y else some x
    | none => some x

/-- The exception of a pending bit of STAT and the bank once it is taken: the bit is clear unless a fault of its kind
remains (R91, R234, R272, R305). EADDR of a remote fault is that of R271, not the 0 of R92's table (assumption 78). -/
def Bank.takePending (b : Bank) (n : Nat) : Exc × Bank :=
  if n = 16 then
    match b.sfaults with
    | [] => ({ cause := 7, epc := b.pc, einfo := 0, eaddr := 0 }, b.statBit 16 false)
    | x :: l =>
      ({ cause := 7, epc := b.pc, einfo := x.einfo, eaddr := x.eaddr },
        { (b.statBit 16 !l.isEmpty) with sfaults := l, eng := Tab.set none b.eng x.slot none })
  else if n = 17 then
    match firstRemote b.rfaults with
    | none => ({ cause := 8, epc := b.pc, einfo := 0, eaddr := 0 }, b.statBit 17 false)
    | some x =>
      let l := b.rfaults.filter fun y => y.order != x.order
      ({ cause := x.cause, epc := b.pc, einfo := x.einfo, eaddr := x.eaddr },
        { (b.statBit 17 !l.isEmpty) with rfaults := l })
  else if n = 18 then ({ cause := 0x10, epc := b.pc, einfo := 0, eaddr := 0 }, b.statBit 18 false)
  else
    match b.qevents with
    | [] => ({ cause := 0x0b, epc := b.pc, einfo := 0, eaddr := 0 }, b.statBit 20 false)
    | x :: l =>
      ({ cause := x.cause, epc := b.pc, einfo := x.einfo, eaddr := x.eaddr },
        { (b.statBit 20 !l.isEmpty) with qevents := l })

/-- PENDING_EXCEPTION_ENTRY: the lowest pending bit is taken once the older loads have written their registers; an
entry that already waited for them is made (R91, R154). -/
def execPendingExceptionEntry (r : Nat) (s : State) : Host.Outcome State Fault Refusal :=
  .next (match (s.select r).1 with
    | .pending n =>
      if s.loadsDone r then
        let (x, b) := (s.bank r).takePending n
        let s := if isSvc r && b.susp.isSome then s.dropWaiter (.svc (r - 4096)) else s
        (s.setBank r b).enterNow r x
      else s
    | .entering =>
      match (s.bank r).entering with
      | some x => if s.loadsDone r then s.enterNow r x else s
      | none => s
    | _ => s)

end Sys2Proof.Machine
end

