-- ==== Sys2Proof/Machine/Queue.lean ====
section
/-! DEFINITION. Packers and the queues of a group: pushing, popping, inspecting, waiting, statistics and traps
(12_queues R280 to R305, R312; 06_ins_control R138). -/
namespace Sys2Proof.Machine

/-! ### Queues, R286 to R288 -/

/-- DIR: 0 UNBOUND, 1 A2X, 2 X2A (R288). -/
def Queue.dir (q : Queue) : Nat := fld q.d0 63 62
/-- Capacity in beats (R287). -/
def Queue.cap (q : Queue) : Nat := (fld q.d0 43 36 + 1) * 16
/-- Occupancy (R287). -/
def Queue.occ (q : Queue) : Nat := q.beats.length
/-- Free slots. -/
def Queue.room (q : Queue) : Nat := q.cap - q.occ
/-- Replay window in beats (R306). -/
def Queue.winBeats (q : Queue) : Nat := fld q.d0 23 16 * 64

/-- The threshold of a trap: 0 FSTH, 1 ESTH, 2 LODTH, 3 OCCTH (R304). -/
def Queue.threshold (q : Queue) (t : Nat) : Nat :=
  match t with
  | 0 => fld q.d1 63 48 * 1024
  | 1 => fld q.d1 47 32 * 1024
  | 2 => fld q.d1 31 16
  | _ => fld q.d1 15 0

/-- A counter goes from `old` to `new` across its threshold while its trap is armed (R304); an OCCTH above the capacity is never crossed
(R288). -/
def Queue.crosses (q : Queue) (t old new : Nat) : Bool :=
  let h := q.threshold t
  h != 0 && old < h && h ≤ new && !bitAt q.disarmed t && (t != 3 || decide (h ≤ q.cap))

/-- A trap is disarmed until QSTAT.clr re-arms it. -/
def Queue.disarm (q : Queue) (t : Nat) : Queue := { q with disarmed := putFld q.disarmed t t 1 }

/-- Occupancy changed: HIGHW follows it upward, and OCCTH may be crossed (R303, R304). -/
def Queue.grown (q : Queue) (old : Nat) : Queue :=
  let q := { q with highw := Nat.max q.highw q.occ }
  if q.crosses 3 old q.occ then { (q.disarm 3) with occCross := true } else q

/-- Beats enter at the tail. -/
def Queue.push (q : Queue) (l : List Beat) : Queue := { q with beats := q.beats ++ l }.grown q.occ

/-- Traffic class of a group (R23). -/
def State.groupTc (s : State) (gid : Nat) : Nat := fld (s.eff (s.group gid).leaf 11 3) 5 4

/-- A message of a chain leaves for the other end (R310, R311). -/
def State.chainMsg (s : State) (k pkg chain : Nat) (b : MsgBody) : State :=
  s.sendMsg { src := s.pkg, dst := pkg, chain := chain, tc := s.groupTc (k / 64), body := b } chain

/-- The producing end of a chain sends the beats that its credits cover, at most `n`, while its group has raised no graph fault
(R289, R310). -/
def State.chainSend (s : State) (k n : Nat) : State :=
  match n with
  | 0 => s
  | n + 1 =>
    let q := s.queue k
    match q.cout with
    | none => s
    | some c =>
      match q.beats[(c.seq + 2 ^ 32 - c.base) % 2 ^ 32]? with
      | none => s
      | some b =>
        if c.seq = c.limit || (s.group (k / 64)).fault.isSome then s
        else
          let c' := { c with
            seq := (c.seq + 1) % 2 ^ 32
            sentAt := if c.seq = c.acked then s.time else c.sentAt
            attempt := if c.seq = c.acked then 1 else c.attempt
            beatAt := s.time }
          ((s.setQueue k { q with cout := some c' }).chainMsg k c.pkg c.chain (.chainBeat c.seq b.data b.tags b.pack)).chainSend k n

/-- The graph of a group, or a queue of it, did something (R424). -/
def State.stir (s : State) (gid : Nat) : State :=
  let g := s.group gid
  if g.st = .undispatched then s else s.setGroup gid { g with moved := s.time }

/-- Beats enter a queue at its tail; the producing end of a chain sends what it may. -/
def State.pushBeats (s : State) (k : Nat) (l : List Beat) : State :=
  ((s.setQueue k ((s.queue k).push l)).chainSend k 64).stir (k / 64)

/-- A crossing in a cycle is charged to a bank: it sets STAT.QTRAP if QTRAPCFG enables the event (R304, R305). -/
def State.chargeTrap (s : State) (r n t at' : Nat) : State :=
  let b := s.bank r
  let on := bitAt b.qtrapcfg.toNat (if t = 2 then 0 else 1)
  if on then
    let e : QEvent := { cause := if t = 2 then 0x0a else 0x0b, einfo := n * 2 ^ 8 + t, eaddr := 0, at' := at' }
    s.setBank r ({ b with qevents := b.qevents ++ [e] }.statBit 20 true)
  else s

/-- Key of queue `n` of the group of the acting bank. -/
def State.qk (s : State) (n : Nat) : Nat := queueKey (s.gidOfBank s.cur) n

/-- An OCCTH crossing is charged to the next push, pop, QSTAT or QWAIT that names the queue (R304). -/
def State.chargeOcc (s : State) (n : Nat) : State :=
  let q := s.queue (s.qk n)
  if q.occCross then (s.setQueue (s.qk n) { q with occCross := false }).chargeTrap s.cur n 3 s.cycle else s

/-- Add stall cycles to a queue on behalf of a bank; a crossing took place in the cycle that reached the threshold (R303, R312). -/
def State.addStall (s : State) (r n cycles : Nat) (full : Bool) : State :=
  let k := queueKey (s.gidOfBank r) n
  let q := s.queue k
  let t := if full then 0 else 1
  let old := if full then q.fstall else q.estall
  let new := Nat.min (old + cycles) (2 ^ 48 - 1)
  let hit := q.crosses t old new
  let q' := if full then { q with fstall := new } else { q with estall := new }
  let s := s.setQueue k (if hit then q'.disarm t else q')
  if hit then s.chargeTrap r n t (s.cycle + q.threshold t - new) else s

/-- The thread banks that stall on queues, one for each queue and kind (R303). -/
def State.stallers (s : State) : List (Nat × Nat × Bool) :=
  s.banks.foldl (fun l e => match e.2.stalled, e.2.stall with
    | some _, some x => match x.full with
      | some f =>
        let k := queueKey (s.gidOfBank e.1) x.q
        if l.any fun y => queueKey (s.gidOfBank y.1) y.2.1 == k && y.2.2 == f then l else l ++ [(e.1, x.q, f)]
      | none => l
    | _, _ => l) []

/-- Stall cycles pass. -/
def State.tickStalls (s : State) (cycles : Nat) : State :=
  if cycles = 0 then s else s.stallers.foldl (fun s x => s.addStall x.1 x.2.1 cycles x.2.2) s

/-! ### Packers, R293 -/

/-- The next lane of a packer is filled; a beat whose lane 15 is filled is closed. -/
def Packer.fill (p : Packer) (tag pk v : Nat) : Packer × Option Beat :=
  let b := p.beat.put p.n tag pk v
  if p.n = 15 then ({ p with n := 0, beat := emptyBeat }, some b) else ({ p with n := p.n + 1, beat := b }, none)

/-- A bank's partial beat for a queue. -/
def Bank.packer (b : Bank) (q : Nat) : Option Packer := b.packs.find? fun p => p.q == q

/-- The packers without that of a queue. -/
def Bank.dropPack (b : Bank) (q : Nat) : Bank := { b with packs := b.packs.filter fun p => p.q != q }

/-- The packer of a queue after it was written, in front as the one written most recently; an empty one is gone. -/
def Bank.putPack (b : Bank) (p : Packer) : Bank :=
  let b := b.dropPack p.q
  if p.n = 0 then b else { b with packs := p :: b.packs }

/-- The checks of R290 at step 3: direction 1 of a push kind, 2 of a pop kind, 3 of either. -/
def State.queueOpen (s : State) (n dir : Nat) : Bool :=
  match (s.bank s.cur).cont with
  | none => false
  | some _ =>
    let d := (s.queue (s.qk n)).dir
    d == dir || (dir == 3 && (d == 1 || d == 2))

/-- Queue that an operation names. -/
def QOp.q : QOp → Nat
  | .vpush _ q _ _ _ | .spush _ q _ _ | .mpush _ q _ | .mpushLit q _ _ | .qflush q | .vpop _ q _ _ _ | .spop _ q
  | .qstat _ q _ _ | .qwait _ q _ => q
  | .bqb _ _ => 63

/-- Direction that an operation needs (R290, R302). -/
def QOp.dir : QOp → Nat
  | .vpush .. | .spush .. | .mpush .. | .mpushLit .. | .qflush _ => 1
  | .vpop .. | .spop .. | .bqb .. => 2
  | .qstat .. => 3
  | .qwait _ _ m => if m = 0 then 2 else 1

/-- Registers that an operation reads. -/
def QOp.reads : QOp → List Reg
  | .vpush v _ _ _ _ => [.v v]
  | .spush r _ _ _ => [.g r]
  | .mpush r _ _ => [.g r]
  | .qwait r _ _ => [.g r]
  | _ => []

/-- Registers that an operation writes. -/
def QOp.writes : QOp → List Reg
  | .vpop v _ _ _ _ => [.v v]
  | .spop r _ => [.g r]
  | .qstat r _ _ _ => [.g r]
  | .qwait r _ _ => [.g r]
  | .bqb r _ => [.g r]
  | _ => []

/-! ### Effects: a new state, or the queue on which the operation stalls (R291) -/

/-- What an attempt gives. -/
abbrev Try := Except (Nat × Option Bool) State

/-- Push beats of the acting bank: all of them or none (R292). A stream of the bank into the queue comes first (R231). -/
def State.pushGo (s : State) (busy : Nat → Bool) (n : Nat) (l : List Beat) (k : State → Try) : Try :=
  let q := s.queue (s.qk n)
  if busy n then .error (n, none)
  else if q.room < l.length then .error (n, some true)
  else k (s.pushBeats (s.qk n) l)

/-- VPUSH (R292). -/
def State.tryVpush (s : State) (busy : Nat → Bool) (v n m : Nat) (sc : Bool) (pk : Nat) : Try :=
  let b := s.b
  let x := (b.vreg v).toNat
  let put (a : Beat) (i : Nat) : Beat :=
    if laneOn (b.kreg m) i then
      let w := fld x (32 * i + 31) (32 * i)
      a.put i (if sc then 2 else 0) (if sc then 2 else pk) (if sc then w % 256 else w)
    else a
  let beat := (List.range 16).foldl put emptyBeat
  let old := match b.packer n with
    | some p => [p.beat]
    | none => []
  s.pushGo busy n (old ++ [beat]) fun s => .ok (s.setB ((s.b.dropPack n).advanceM 4))

/-- The least recently written partial beat makes way for a fifth queue (R293). -/
def State.makeWay (s : State) (busy : Nat → Bool) (n : Nat) (k : State → Try) : Try :=
  let b := s.b
  if (b.packer n).isSome || b.packs.length < 4 then k s
  else match b.packs.getLast? with
    | some p => s.pushGo busy p.q [p.beat] fun s => k (s.setB (s.b.dropPack p.q))
    | none => k s

/-- Lanes enter a packer one after another: the packer and the beats that they close. -/
def fillAll (p : Packer) : List Nat → Nat → Packer × List Beat
  | [], _ => (p, [])
  | v :: l, pk =>
    let (p, c) := p.fill 0 pk v
    let (p, cs) := fillAll p l pk
    (p, c.toList ++ cs)

/-- SPUSH (R294): needs a slot only for a beat that it closes; a push behind a stream of the bank waits (R231). -/
def State.trySpush (s : State) (busy : Nat → Bool) (r n : Nat) (two : Bool) (pk : Nat) : Try :=
  let x := (s.b.gpr r).toNat
  let p := (s.b.packer n).getD { q := n, n := 0, beat := emptyBeat }
  let (p, l) := fillAll p (x % 2 ^ 32 :: if two then [x / 2 ^ 32] else []) pk
  if busy n then .error (n, none)
  else s.pushGo busy n l fun s => s.makeWay busy n fun s => .ok (s.setB ((s.b.putPack p).advanceM 4))

/-- MPUSH: a MARK lane closes the partial beat (R295). -/
def State.tryMpush (s : State) (busy : Nat → Bool) (n code arg len : Nat) : Try :=
  let p := (s.b.packer n).getD { q := n, n := 0, beat := emptyBeat }
  s.pushGo busy n [p.beat.put p.n 3 2 (markWord code arg)] fun s => .ok (s.setB ((s.b.dropPack n).advanceM len))

/-- QFLUSH (R296). -/
def State.tryQflush (s : State) (busy : Nat → Bool) (n : Nat) : Try :=
  match s.b.packer n with
  | none => .ok (s.setB (s.b.advanceM 4))
  | some p => s.pushGo busy n [p.beat] fun s => .ok (s.setB ((s.b.dropPack n).advanceM 4))

/-- Value of a token in a general register (R298). -/
def tokenValue (b : Beat) (i : Nat) : Nat :=
  match b.tag i with
  | 0 => b.lane i
  | 3 => 2 ^ 32 + b.lane i
  | _ => 2 ^ 33 + b.lane i

/-- SPOP (R298). -/
def State.trySpop (s : State) (r n : Nat) : Try :=
  match (s.queue (s.qk n)).takeToken with
  | none => .error (n, some false)
  | some (b, i, q) =>
    let s := s.setQueue (s.qk n) q
    .ok (s.setB ((s.b.setGpr r (BitVec.ofNat 64 (tokenValue b i))).advanceM 4))

/-- BQB: a DATA token other than zero branches (R138). -/
def State.tryBqb (s : State) (r : Nat) (off : Word) : Try :=
  match (s.queue (s.qk 63)).takeToken with
  | none => .error (63, some false)
  | some (b, i, q) =>
    let s := s.setQueue (s.qk 63) q
    let k := s.b.setGpr r (BitVec.ofNat 64 (tokenValue b i))
    let t := if b.tag i = 0 ∧ b.lane i ≠ 0 then k.pc + off else k.pc + 4
    .ok (s.setB ((k.count 2).jump t))

/-- VPOP (R299). -/
def State.tryVpop (s : State) (v n m km kd : Nat) : Try :=
  let q := s.queue (s.qk n)
  match q.beats with
  | [] => .error (n, some false)
  | b :: l =>
    let s := s.setQueue (s.qk n) { q with beats := l, popped := 0 }
    let x := s.b
    let act (i : Nat) : Bool := laneOn (x.kreg m) i
    let tok (i : Nat) : Bool := decide (q.popped ≤ i) && b.tag i != 1
    let old := x.vreg v
    let w := ofElems 32 fun i => if act i then (if tok i then b.lane i else 0) else elem old 32 i
    let mask (t : Nat) : BitVec 16 :=
      BitVec.ofNat 16 ((List.range 16).foldl (fun a i => a + bit01 (act i && tok i && b.tag i == t) * 2 ^ i) 0)
    let x := if (List.range 16).all act then x.setVreg v w else x.setVregPart v w
    .ok (s.setB (((x.setKreg kd (mask 0)).setKreg km (mask 3)).advanceM 4))

/-- QSTAT (R301). -/
def State.tryQstat (s : State) (r n : Nat) (clr : Bool) (sel : Nat) : Try :=
  let q := s.queue (s.qk n)
  let v := match sel with
    | 0 => q.occ
    | 1 => q.room
    | 2 => q.cap
    | 3 => q.highw
    | 4 => q.fstall
    | 5 => q.estall
    | 6 => q.lod
    | 7 => match s.b.packer n with | some p => p.n | none => 0
    | 8 => q.d0
    | _ => q.d1
  let q' := if !clr then q else match sel with
    | 3 => { q with highw := q.occ, disarmed := putFld q.disarmed 3 3 0 }
    | 4 => { q with fstall := 0, disarmed := putFld q.disarmed 0 0 0 }
    | 5 => { q with estall := 0, disarmed := putFld q.disarmed 1 1 0 }
    | 6 => { q with lod := 0, disarmed := putFld q.disarmed 2 2 0 }
    | _ => q
  let s := s.setQueue (s.qk n) q'
  .ok (s.setB ((s.b.setGpr r (BitVec.ofNat 64 v)).advanceM 4))

/-- QWAIT: mode 0 avail, 1 room, 2 drain (R302). -/
def State.tryQwait (s : State) (r n mode : Nat) : Try :=
  let q := s.queue (s.qk n)
  let want := Nat.min (s.b.gpr r).toNat q.cap
  let (go, v) := match mode with
    | 0 => (decide (want ≤ q.occ), q.occ)
    | 1 => (decide (want ≤ q.room), q.room)
    | _ => (q.occ == 0 && (s.b.packer n).isNone, q.occ)
  if go then .ok (s.setB ((s.b.setGpr r (BitVec.ofNat 64 v)).advanceM 4)) else .error (n, none)

/-- One attempt of a queue instruction. -/
def State.queueTry (s : State) (busy : Nat → Bool) (op : QOp) : Try :=
  match op with
  | .vpush v q k sc pk => s.tryVpush busy v q k sc pk
  | .spush r q two pk => s.trySpush busy r q two pk
  | .mpush r q code => s.tryMpush busy q code (s.b.gpr r).toNat 4
  | .mpushLit q code arg => s.tryMpush busy q code arg 8
  | .qflush q => s.tryQflush busy q
  | .vpop v q k km kd => s.tryVpop v q k km kd
  | .spop r q => s.trySpop r q
  | .qstat r q clr sel => s.tryQstat r q clr sel
  | .qwait r q m => s.tryQwait r q m
  | .bqb r off => s.tryBqb r off

/-- A pop that finds no token at its first attempt counts one loss of decoupling (R303). -/
def State.countLod (s : State) (op : QOp) : State :=
  let b := s.b
  if op.pops && (if b.priv then b.againP else b.again) != some b.pc then
    let k := s.qk op.q
    let q := s.queue k
    let new := Nat.min (q.lod + 1) (2 ^ 32 - 1)
    let hit := q.crosses 2 q.lod new
    let q := { q with lod := new }
    let b := if b.priv then { b with againP := some b.pc } else { b with again := some b.pc }
    let s := (s.setB b).setQueue k (if hit then q.disarm 2 else q)
    if hit then s.chargeTrap s.cur op.q 2 s.cycle else s
  else s

/-- The instruction stalls with nothing added or removed (R291). -/
def State.stallOn (s : State) (op : QOp) (x : Nat × Option Bool) : State :=
  let s := s.countLod op
  let b := s.b
  s.setB { b with
    stalled := some (b.stalled.getD s.cycle)
    stall := some { op := op, q := x.1, full := x.2 }
    waited := none }

/-- An unfinished STRM or GATH of the acting bank, or of its continuation before it was moved to this bank, pushes into a queue (R231,
20_programs_fabric R455). -/
def State.streams (s : State) (n : Nat) : Bool :=
  s.cmds.any fun e => match e.2 with
    | some c => c.ofThread s.cur s.b.cont && c.gid == s.gidOfBank s.cur && c.pushes == some n && !(c.ended && c.pend.isEmpty)
    | none => false

/-- A queue instruction (R290): its checks in order, then its effect or its stall. -/
def State.queueOp (s : State) (op : QOp) : State :=
  if !s.queueOpen op.q op.dir then s.illegal 2
  else if s.b.graph then
    s.raise 0x11 (match (s.group (s.gidOfBank s.cur)).fault with | some (p, _) => p | none => 0) 0
  else
    s.issue op.reads op.writes fun s => if !s.room then .wait none else
      let s := match op with
        | .qflush _ => s
        | _ => s.chargeOcc op.q
      match s.queueTry s.streams op with
      | .ok t => .done t
      | .error x => .done (s.stallOn op x)

/-- A stalled operation could proceed (R100, R291). -/
def State.stallReady (s : State) (r : Nat) : Bool :=
  match (s.bank r).stall with
  | some x =>
    let s := { s with cur := r }
    match s.queueTry s.streams x.op with
    | .ok _ => true
    | .error _ => false
  | none => false

/-! ### The instructions -/

/-- VPUSH.pk qN, vs, k (R292). -/
def execVpush (r : BitVec 4) (q : BitVec 6) (k : BitVec 3) (y : BitVec 1) (p : BitVec 4) (s : State) :
    Host.Outcome State Fault Refusal :=
  .next (s.queueOp (.vpush r.toNat q.toNat k.toNat (y == 1) p.toNat))

/-- SPUSH.w.pk qN, gs and SPUSH.d.pk qN, gs (R294). -/
def execSpush (r : BitVec 5) (q : BitVec 6) (w : BitVec 1) (p : BitVec 4) (s : State) :
    Host.Outcome State Fault Refusal :=
  .next (s.queueOp (.spush r.toNat q.toNat (w == 1) p.toNat))

/-- MPUSH.mk qN, gs (R295). -/
def execMpush (r : BitVec 5) (q : BitVec 6) (c : BitVec 8) (s : State) : Host.Outcome State Fault Refusal :=
  .next (s.queueOp (.mpush r.toNat q.toNat c.toNat))

/-- QFLUSH qN (R296). -/
def execQflush (q : BitVec 6) (s : State) : Host.Outcome State Fault Refusal := .next (s.queueOp (.qflush q.toNat))

/-- VPOP vd, qN, kd, km, k (R299). -/
def execVpop (r : BitVec 4) (q : BitVec 6) (k m d : BitVec 3) (s : State) : Host.Outcome State Fault Refusal :=
  .next (s.queueOp (.vpop r.toNat q.toNat k.toNat m.toNat d.toNat))

/-- SPOP gd, qN (R298). -/
def execSpop (r : BitVec 5) (q : BitVec 6) (s : State) : Host.Outcome State Fault Refusal :=
  .next (s.queueOp (.spop r.toNat q.toNat))

/-- QSTAT gd, qN, sel and QSTAT.clr (R301). -/
def execQstat (r : BitVec 5) (q : BitVec 6) (x : BitVec 1) (y : BitVec 7) (s : State) :
    Host.Outcome State Fault Refusal :=
  .next (s.queueOp (.qstat r.toNat q.toNat (x == 1) y.toNat))

/-- QWAIT.mode gd, qN (R302). -/
def execQwait (r : BitVec 5) (q : BitVec 6) (m : BitVec 2) (s : State) : Host.Outcome State Fault Refusal :=
  .next (s.queueOp (.qwait r.toNat q.toNat m.toNat))

/-- XQ: MPUSH.mk qN, n (R74, R295). -/
def execXq (q : BitVec 6) (lit : BitVec 32) (s : State) : Host.Outcome State Fault Refusal :=
  .next (s.queueOp (.mpushLit q.toNat (fld lit.toNat 31 24) (fld lit.toNat 23 0)))

/-- BQB ga, label (R138). -/
def execBqb (a : BitVec 5) (o : BitVec 16) (s : State) : Host.Outcome State Fault Refusal :=
  .next (s.queueOp (.bqb a.toNat (sextW o * 4)))

/-- QUEUE_STALL_END: the stalled instruction of a bank that issues proceeds when its queue lets it and no trap comes first (R291,
R312). -/
def execQueueStallEnd (r : Nat) (s : State) : Host.Outcome State Fault Refusal :=
  .next (match (s.bank r).stalled, (s.bank r).stall with
    | some _, some x =>
      if s.canIssue r && (s.trapDue r).isNone && x.parks && s.stallReady r then { s with cur := r }.queueOp x.op else s
    | _, _ => s)

end Sys2Proof.Machine
end

