-- ==== Sys2Proof/Machine/Suspend.lean ====
section
/-! DEFINITION. Suspension points, parking and return, and dispatch (06_ins_control R142 to R151; 04_registers R96 to R100;
15_counters R373, R380; 17_work R425, R426). -/
namespace Sys2Proof.Machine

/-! ### Records of continuations -/

/-- The bytes of a live record are undefined to every other thread (R144): free bytes take their place. -/
def State.scrambleRecord (s : State) (c : Nat) : State :=
  let a := (s.group (contGroup c)).carea + contIdx c * 64
  if isTier (paLocal a) then
    let v := (List.range 64).foldl (fun v i => v + (Config.freeByte (s.fresh + i)).toNat * 256 ^ i) 0
    { (s.sysWrite (paLocal a) 64 v 2) with fresh := s.fresh + 64 }
  else s

/-- The free record of a group that SPAWN takes (R147): the rule says only that it is a free one, and the model takes the
lowest-numbered (assumption 59). -/
def State.freeRecord (s : State) (gid : Nat) : Option Nat :=
  (List.range (s.group gid).recs).find? fun i => (s.cont (contId gid i)).st == .free

/-- SPAWN creates a child from its parent's record: PC, g1–g6, VRM, UB (R147). -/
def State.spawnChild (s : State) (parent i : Nat) (pc : Word) (ub : Bool) : State :=
  let p := s.cont parent
  let c := contId (contGroup parent) i
  let s := s.setCont c { st := .ready, pc := pc, vrm := p.vrm, ub := ub, g := p.g }
  (s.scrambleRecord c).place c

/-- A record of a group became free: the first SPAWN that waits for one takes it (R147). -/
def State.spawnRetry (s : State) (gid : Nat) : State :=
  let g := s.group gid
  match g.spawnq, s.freeRecord gid with
  | c :: rest, some i =>
    let s := s.setGroup gid { g with spawnq := rest }
    match (s.cont c).place with
    | .spawn pc ub => (s.spawnChild c i pc ub).place c
    | _ => s.place c
  | _, _ => s

/-- A continuation ends: its record is free (R148). -/
def State.endCont (s : State) (c : Nat) : State := (s.setCont c {}).spawnRetry (contGroup c)

/-- The live continuations of a group. -/
def State.liveConts (s : State) (gid : Nat) : List Nat :=
  (List.range (s.group gid).recs).filterMap fun i =>
    if (s.cont (contId gid i)).st == .free then none else some (contId gid i)

/-! ### Leaving a bank, R143 -/

/-- Every busy engine slot of a bank is detached: its commands run on (R234). -/
def State.detach (s : State) (r : Nat) : State :=
  { s with cmds := s.cmds.map fun e => (e.1, e.2.map fun c => if c.who = r then { c with detached := true } else c) }

/-- Record of a stream fault that no exception reports (R234). -/
def State.streamRecord (s : State) (gid r : Nat) (x : SFault) : State :=
  s.domainRecord gid { kind := 3, cause := fld x.einfo 15 12, loc := r, addr := x.eaddr, info := x.einfo }

/-- The bank is freed (R143 step 6): HELD operations and kept faults of its channel go, commands are detached, and the
issue count of its engine slots stays. -/
def State.freeBank (s : State) (r : Nat) : State :=
  let b := s.bank r
  let s := b.sfaults.foldl (fun s x => s.streamRecord (s.gidOfBank r) r x) s
  let s := (s.opsOf r).foldl (fun s e => s.setRop e.1 none) s
  let s := s.setChan r { s.chan r with faults := [] }
  ((s.detach r).preKeep r fun _ => false).setBank r { threadReset with seq := b.seq }

/-- Step 4 of R143: PC, g1–g6 and the STAT image go into the record. -/
def State.writeBackCont (s : State) (r c : Nat) (pc : Word) : State :=
  let b := s.bank r
  let k := s.cont c
  let k : Cont := { k with
    pc := pc
    flags := b.flags
    vrm := b.vrm
    ub := b.ub
    g := (List.range 6).map fun i => b.gpr (i + 1)
    bank := none
    met := false }
  (s.setCont c k).scrambleRecord c

/-- Close every partial beat of a bank into the reserves of its queues; false while a reserve is full (R293). -/
def State.closePacks (s : State) (r fuel : Nat) : Bool × State :=
  match fuel with
  | 0 => ((s.bank r).packs.isEmpty, s)
  | f + 1 =>
    let b := s.bank r
    match b.packs.getLast? with
    | none => (true, s)
    | some p =>
      let k := queueKey (s.gidOfBank r) p.q
      let q := s.queue k
      if q.occ < q.cap + 16 then ((s.pushBeats k [p.beat]).setBank r (b.dropPack p.q)).closePacks r f
      else (false, s)

/-- A destination that a suspension point must wait for: one of g1–g6 (R143 step 1). -/
def Dst.kept : Dst → Bool
  | .g r _ _ => 1 ≤ r && r ≤ 6
  | _ => false

/-- Steps 1 and 2 of R143 are over: loads to g1–g6 have written them; stores and updates are accepted; no batch is open
or waits; every remote operation of the channel has its reply. -/
def State.suspReady (s : State) (r : Nat) : Bool :=
  let b := s.bank r
  b.reqs.all (fun q => match q.dst with | some d => !d.kept | none => false) &&
    !s.pairs.any (fun p => p.who == r) && b.batches.isEmpty && !(s.opsOf r).any fun e => e.2.sent

/-- Timer of a BARW, in nanoseconds (R376). -/
def barTimeout (o : Bar) : Nat := (if o.tmo = 0 then 10000 else o.tmo) * 1000

/-- Step 5 of R143: the continuation goes where its instruction says. -/
def State.placeSusp (s : State) (c : Nat) (x : Susp) (cluster : Nat) (epc : Word) : State :=
  match x with
  | .susp => s.place c
  | .exit => s.endCont c
  | .spawn pc ub =>
    let gid := contGroup c
    match s.freeRecord gid with
    | some i => (s.spawnChild c i pc ub).place c
    | none =>
      let s := s.setCont c { s.cont c with st := .spawnWait, place := .spawn pc ub, bank := none }
      let g := s.group gid
      let s := s.setGroup gid { g with spawnq := g.spawnq ++ [c] }
      if (s.liveConts gid).all fun d => (s.cont d).st == .spawnWait then s.domainRecord gid { kind := 4 } else s
  | .wakeat t => if t ≤ s.time then s.place c else s.waitAt c (.time t)
  | .semw n thr =>
    let q := s.sem n
    if thr ≤ q.count then (s.preAcquire (preCont c) 2).place c
    else (s.setSem n { q with waiters := q.waiters ++ [{ who := .cont c, thr := thr }] }).waitAt c (.sem n thr)
  | .barw va pa =>
    let key := barKey cluster pa
    let o := barOf (s.num (cellKey cluster (paLocal pa)) 16)
    if !o.armed then (s.preBarw (preCont c) key ((o.phase + 255) % 256)).place c
    else
      let w : BarWaiter := { who := .cont c, phase := o.phase, expiry := s.time + barTimeout o, va := va, epc := epc }
      { s with bars := Tab.set [] s.bars key (Tab.get [] s.bars key ++ [w]) }.waitAt c (.bar key va)

/-- A barrier object of a suspension point whose bytes are poisoned (R459), with the REASON. -/
def State.suspPoison (s : State) (r : Nat) (x : Susp) : Option (Nat × Nat) :=
  match x with
  | .barw va pa => (s.poisonAt (cellKey (clusterOf r) (paLocal pa)) 16).map fun q => (va, q)
  | _ => none

/-- The pending bit of STAT that a suspension point takes before it executes (R143 step 3, R272). A thread slot in privileged
mode meets it there too, and so stops by R155 (assumption 52). -/
def State.suspPending (s : State) (r : Nat) : Option Nat := (s.bank r).pending

/-- What a thread has read ahead goes with its continuation (08_ordering R189); an EXIT ends it. -/
def State.preSusp (s : State) (r c : Nat) (x : Susp) : State :=
  if x = .exit then s.preKeep r fun _ => false else s.preMove r (preCont c) true

/-- The suspension point of a bank goes on if its waits are over (R143): a pending bit or a marked register comes
first; then the continuation is written back and placed, and the bank is freed. -/
def State.suspGo (s : State) (r : Nat) : State :=
  let s := s.flushClosed r 64
  let (packed, s) := s.closePacks r 65
  let b := s.bank r
  match b.susp, b.cont with
  | some x, some c =>
    if !packed || !s.suspReady r then s
    else
      let s := match x with | .barw _ pa => s.applyAt (paLocal pa) 16 | _ => s
      match s.suspPending r with
    | some n =>
      let s := s.setBank r { b with susp := none }
      if b.priv then s.takeExc r (b.takePending n).1 else s
    | none =>
      match b.firstMark (if x = .exit then [] else (List.range 6).map fun i => Reg.g (i + 1)), s.suspPoison r x with
      | some (y, m), _ =>
        (s.setBank r { b with susp := none }).takeExc r
          { cause := 6, epc := b.pc, einfo := y.einfo + m.reason * 2 ^ 9, eaddr := m.va.toNat }
      | none, some (va, q) =>
        (s.setBank r { b with susp := none }).takeExc r { cause := 6, epc := b.pc, einfo := 10 + q * 2 ^ 9, eaddr := va }
      | none, none =>
        let back := BitVec.ofNat 64 (b.epc.toNat / 4 * 4)
        let (pc, epc) := if b.priv then (back, back) else (b.pc + 4, b.pc)
        (((s.writeBackCont r c pc).preSusp r c x).freeBank r).placeSusp c x (clusterOf r) epc
  | _, _ => s

/-- A suspension point begins, once the batches of the bank are closed (10_updates R254, R462). -/
def State.suspend (s : State) (x : Susp) : Res :=
  s.closing (fun _ => true) 0 fun s =>
    let b := s.b
    .done ((s.setB { b with susp := some x, stalled := none, waited := none }).suspGo s.cur)

/-- SUSP, SPAWN, EXIT and WAKEAT on a service core raise FUNC (R149). -/
def State.onThread (s : State) (k : State → State) : State := if isSvc s.cur then s.illegal 1 else k s

/-! ### The instructions -/

/-- SUSP (R145). -/
def execSusp (s : State) : Host.Outcome State Fault Refusal :=
  .next (s.onThread fun s => s.issue [] [] fun s => s.suspend .susp)

/-- SPAWN ga and SPAWN.ub ga (R147). -/
def execSpawn (a : BitVec 5) (u : BitVec 1) (s : State) : Host.Outcome State Fault Refusal :=
  .next (s.onThread fun s =>
    if s.b.priv then s.illegal 4
    else s.issue [.g a.toNat] [] fun s =>
      let t := s.b.gpr a.toNat
      if t.toNat % 4 ≠ 0 then .exc 2 0 t.toNat else s.suspend (.spawn t (u == 1)))

/-- EXIT (R148). -/
def execExit (s : State) : Host.Outcome State Fault Refusal :=
  .next (s.onThread fun s => s.issue [] [] fun s => s.suspend .exit)

/-- WAKEAT ga (R146). -/
def execWakeat (a : BitVec 5) (s : State) : Host.Outcome State Fault Refusal :=
  .next (s.onThread fun s => s.issue [.g a.toNat] [] fun s => s.suspend (.wakeat (s.b.gpr a.toNat).toNat))

/-- A synchronisation event that acquires waits behind the release fences and the releases of its bank (08_ordering R195, R196). -/
def State.syncGo (s : State) : Bool := s.b.fenced && s.acquireGo 2

/-- SEMW ga, gb (R373, R150): a service core completes at once or joins the list and stops. -/
def execSemw (a b : BitVec 5) (s : State) : Host.Outcome State Fault Refusal :=
  .next (s.issue [.g a.toNat, .g b.toNat] [] fun s => s.gateSusp fun s =>
    match s.semIndex (s.b.gpr a.toNat) with
    | none => .exc 4 0 (s.b.gpr a.toNat).toNat
    | some n =>
      let thr := (s.b.gpr b.toNat).toNat % 2 ^ 32
      if isSvc s.cur then
        let q := s.sem n
        if !s.syncGo then .wait none
        else if thr ≤ q.count then (s.preAcquire s.cur 2).doneM 4
        else
          let k := s.b
          .done ((s.setB { k with susp := some (.semw n thr) }).setSem n
            { q with waiters := q.waiters ++ [{ who := .svc (s.cur - 4096), thr := thr }] })
      else s.suspend (.semw n thr))

/-- BARW ga (R380, R381, R150). -/
def execBarw (a : BitVec 5) (s : State) : Host.Outcome State Fault Refusal :=
  .next (s.issue [.g a.toNat] [] fun s => s.gateSusp fun s =>
    let v := (s.b.gpr a.toNat).toNat
    match s.access (.bar false) v 16 0 with
    | (.ok pa _ _, s) =>
      let cl := clusterOf s.cur
      if s.b.reqOn (cellKey cl (paLocal pa) / 64) || !s.syncGo then .wait none
      else match s.readAt cl pa 16 (some (coreOf s.cur)) with
      | (_, some q, s) => .done (s.raise 6 (10 + q * 2 ^ 9) v)
      | (w, none, s) =>
        if isSvc s.cur then
          let o := barOf w
          if !o.armed then (s.preBarw s.cur (barKey cl pa) ((o.phase + 255) % 256)).doneM 4
          else
            let k := s.b
            let x : BarWaiter :=
              { who := .svc (s.cur - 4096), phase := o.phase, expiry := s.time + barTimeout o, va := v, epc := k.pc }
            .done ({ s with bars := Tab.set [] s.bars (barKey cl pa) (Tab.get [] s.bars (barKey cl pa) ++ [x]) }.setB
              { k with susp := some (.barw v pa) })
        else s.suspend (.barw v pa)
    | (e, s) => s.accFail e)

/-! ### Events of suspended continuations -/

/-- SUSPENSION_WRITEBACK: the waits of a suspension point are over (R143). -/
def execSuspensionWriteback (r : Nat) (s : State) : Host.Outcome State Fault Refusal :=
  .next (if isSvc r || (s.bank r).susp.isNone then s else { s with cur := r }.suspGo r)

/-- WAKE_TIME_REACHED: TIME reached the wake time of a waiting continuation (R146). -/
def execWakeTimeReached (c : Nat) (s : State) : Host.Outcome State Fault Refusal :=
  .next (match (s.cont c).st, (s.cont c).place with
    | .waiting, .time t => if t ≤ s.time then s.place c else s
    | _, _ => s)

/-- The list that holds a BARW waiter, with the waiter. -/
def State.barWaiter (s : State) (w : Who) : Option (Nat × BarWaiter) :=
  s.bars.findSome? fun e => (e.2.find? fun y => y.who == w).map fun y => (e.1, y)

/-- BARW_TIMEOUT: the timer of a BARW ran out: the waiter leaves the list and takes exception 0x0D, a continuation when it
is next dispatched (R380, R150). A completion at the very TIME of the timer comes first. EINFO is that of the object as the timer ran
out, and EADDR the address that R380 gives, not the 0 of R92's table (assumption 78). -/
def execBarwTimeout (w : Who) (s : State) : Host.Outcome State Fault Refusal :=
  .next (match s.barWaiter w with
    | none => s
    | some (key, y) =>
      if s.time ≤ y.expiry then s
      else
        let o := barOf (y.seen.getD (s.num key 16))
        let x : Exc :=
          { cause := 0x0d, epc := y.epc, einfo := o.arrived * 2 ^ 32 + o.phase * 2 ^ 24 + bit01 o.armed * 2 ^ 23,
            eaddr := y.va }
        let s := s.dropWaiter w
        match w with
        | .cont c => (s.setCont c { s.cont c with timeout := some x }).place c
        | .svc n =>
          let b := s.bank (4096 + n)
          (s.setBank (4096 + n) { b with susp := none }).takeExc (4096 + n) x)

/-! ### Parking, R98 to R100 -/

/-- What an instruction waits for is still to come (R98, R100). -/
def State.stillWaits (s : State) (r : Nat) : WaitOn → Bool
  | .regs l => l.any fun x => s.remoteAwaits r (Reg.ofPair x)
  | .ops l => (s.opsOf r).any fun e => e.2.sent && l.contains e.1
  | .acq => (s.opsOf r).any fun e => e.2.sent && e.2.acq
  | .all => (s.opsOf r).any (fun e => e.2.sent) || !(s.bank r).batches.isEmpty

/-- A bank parks on a wait: EPC is the instruction; the other exception registers stay (R98). -/
def State.parkWait (s : State) (r kind : Nat) : State :=
  let b := s.bank r
  let s := s.setBank r (Bank.count { b with epc := b.pc, park := some { kind := kind }, stalled := none } 3)
  match b.cont with
  | some c => s.setCont c { s.cont c with st := .parked }
  | none => s

/-- QPARK_THRESHOLD: a queue instruction has stalled for the QPARK threshold, and stalls still (R98), or a trap was set no earlier (R312). -/
def execQparkThreshold (r : Nat) (s : State) : Host.Outcome State Fault Refusal :=
  .next (let b := s.bank r
    match b.stalled, b.stall, parkAfter (fld b.qtrapcfg.toNat 11 8) with
    | some t, some x, some n =>
      if s.canIssue r && !isSvc r && x.parks && t + n ≤ s.cycle && (!s.stallReady r || (s.pendingBit r == some 20 && s.parkFirst r)) then
        s.parkWait r 1
      else s
    | _, _, _ => s)

/-- RPARK_THRESHOLD: an instruction has waited for the RPARK threshold on a remote operation, and waits still (R98). -/
def execRparkThreshold (r : Nat) (s : State) : Host.Outcome State Fault Refusal :=
  .next (let b := s.bank r
    match b.waited, parkAfter (fld b.qtrapcfg.toNat 15 12) with
    | some (t, w), some n =>
      if s.canIssue r && !isSvc r && t + n ≤ s.cycle && s.stillWaits r w then s.parkWait r 2 else s
    | _, _ => s)

/-- Step 1 of R99: the local loads of a bank have written their registers. -/
def Bank.drained (b : Bank) : Bool := b.reqs.all fun q => q.dst.isNone

/-- PARK_DRAIN_COMPLETE: the local loads of a parked bank have written their registers: the slot makes its other bank active
(R99). The batches of the bank are closed (10_updates R254). -/
def execParkDrainComplete (r : Nat) (s : State) : Host.Outcome State Fault Refusal :=
  .next (let b := s.bank r
    match b.park with
    | some p =>
      if !p.drained && b.drained then
        let s := (s.setBank r { b with park := some { p with drained := true } }).closeQuiet r fun _ => true
        s.activate (otherBank r)
      else s
    | none => s)

/-- A parked bank is returnable: its cause is answered and its remote operations have written their registers (R100). -/
def State.returnable (s : State) (r : Nat) : Bool :=
  let b := s.bank r
  match b.park with
  | none => false
  | some p =>
    p.drained && !((s.opsOf r).any fun e => e.2.sent && !e.2.dsts.isEmpty) &&
      (match p.kind with
        | 0 => p.answered
        | 1 => s.stallReady r
        | _ => match b.waited with
          | some (_, w) => !s.stillWaits r w
          | none => true)

/-- BANK_RETURN: the slot makes a returnable bank active when its other bank holds no continuation, or is parked and drained (R99);
B0 comes first (R100). A refused translation fault is taken as exception 0x03 (R156). -/
def execBankReturn (r : Nat) (s : State) : Host.Outcome State Fault Refusal :=
  .next (let o := otherBank r
    let b := s.bank r
    let first := r % 2 == 0 || !s.returnable o
    match b.park with
    | some p =>
      if !isSvc r && s.returnable r && first && ((s.bank o).cont.isNone || ((s.bank o).park.any (·.drained))) then
        let s := (s.setBank r { b with park := none, waited := none }).activate r
        let s := match b.cont with
          | some c => s.setCont c { s.cont c with st := .running }
          | none => s
        if p.refused then
          { s with cur := r }.takeExc r { cause := 3, epc := b.epc, einfo := b.einfo.toNat, eaddr := b.eaddr.toNat }
        else s
      else s
    | none => s)

/-! ### Dispatch, R96 and R426 -/

/-- Slots in use beneath a node. -/
def State.slotsUnder (s : State) (p : Nat) : Nat :=
  (s.banks.filter fun e => match e.2.cont with
    | some c => (s.rcbPath (s.contLeaf c) 65).contains p
    | none => false).length

/-- Every node on the path of a leaf has room for one more slot (R410, R426). -/
def State.slotRoom (s : State) (leaf : Nat) : Bool :=
  (s.rcbPath leaf 65).all fun p => s.slotsUnder p < fld (s.eff p 9 2) 31 16

/-- Free values for registers 1 to `n` − 1 of a file. -/
def freeFile {α : Type} [DecidableEq α] (d : α) (free : Nat → α) (base lo n : Nat) : Tab α :=
  (List.range n).foldl (fun t i => Tab.set d t (lo + i) (free (base + i))) []

/-- IDS of a continuation in a bank (R93). -/
def State.idsOf (s : State) (c r : Nat) : Word :=
  let g := s.group (contGroup c)
  BitVec.ofNat 64 (r % 128 / 2 + g.home.getD 0 % 32 * 2 ^ 6 + r / 128 % 32 * 2 ^ 11 + contIdx c * 2 ^ 24
    + g.idx % 2 ^ 24 * 2 ^ 40)

/-- The STAT of a dispatched continuation (R96). -/
def State.statOf (s : State) (c : Nat) : Word :=
  let k := s.cont c
  let vrm := if 5 < k.vrm then 0 else k.vrm
  BitVec.ofNat 64 (bit01 k.ub * 4 + k.flags % 32 * 2 ^ 8 + vrm * 2 ^ 13
    + bit01 (s.group (contGroup c)).fault.isSome * 2 ^ 19)

/-- The context registers that a leaf gives (R409). -/
def State.giveContext (s : State) (r leaf : Nat) : State :=
  let b := s.bank r
  let x := BitVec.ofNat 64 (s.eff leaf 13 8) &&& 0x3ffffffffff87f
  (s.setBank r { b with
    ctxroot := BitVec.ofNat 64 (s.eff leaf 13 6) &&& 0x3fffffffff0001
    ctxkey := BitVec.ofNat 64 (s.eff leaf 13 7) &&& 0xfff
    xtab := x }).holdTable (coreOf r) x.toNat

/-- A continuation is taken by a bank (R96): bits 1:0 of PC are zero (R59, R88); a BARW whose timer ran out first takes its exception (R380). -/
def State.dispatch (s : State) (c r : Nat) : State :=
  let k := s.cont c
  let n := s.fresh
  let b : Bank :=
    { g := (List.range 6).foldl (fun t i => Tab.set 0 t (i + 1) (k.g.getD i 0))
        (freeFile 0 Config.freeWord n 7 25)
      v := freeFile 0 Config.freeVec n 0 16
      k := freeFile 0 Config.freeMask n 1 7
      pc := BitVec.ofNat 64 (k.pc.toNat / 4 * 4)
      stat := s.statOf c
      epc := Config.freeWord (n + 25)
      einfo := Config.freeWord (n + 26)
      eaddr := Config.freeWord (n + 27)
      scratch := freeFile 0 Config.freeWord (n + 28) 0 4
      ids := s.idsOf c r
      seq := (s.bank r).seq
      cont := some c }
  let s := { s with fresh := n + 32 }.setBank r b
  let s := s.preMove (preCont c) r false
  let s := s.giveContext r (s.contLeaf c)
  let s := (s.unqueue c).setCont c { k with st := .running, bank := some r, timeout := none }
  match k.timeout with
  | some x => s.enterNow r x
  | none => s

/-- The first of a run queue, by effective priority and then by arrival, whose path has slot room (R426). No dispatch takes the context
of a leaf whose semaphore window R410 does not allow (15_counters R371). -/
def State.firstOf (s : State) (l : List Nat) : Option Nat :=
  let p (c : Nat) : Nat := s.prio (s.contLeaf c)
  (l.filter fun c => s.slotRoom (s.contLeaf c) && s.windowOk (s.contLeaf c)).foldl (fun o c => match o with
    | none => some c
    | some d => if p d < p c then some c else some d) none

/-- The continuation that an empty bank would take: of its cluster's queue, then of the unbound queue (R426). -/
def State.nextCont (s : State) (cluster : Nat) : Option Nat :=
  (s.firstOf (Tab.get [] s.runqs cluster)).or (s.firstOf (Tab.get [] s.runqs 32))

/-- Stands in `reserved` for a continuation of a group that was ended (R277). -/
def endedCont (gid : Nat) : Nat := 2 ^ 80 + gid

/-- A channel is reserved to a continuation that was ended. -/
def isEnded (c : Nat) : Bool := 2 ^ 80 ≤ c

/-- Nothing of a channel is still to be answered or sent: no slot is SENT, and no update batch waits. -/
def State.chanOver (s : State) (r : Nat) : Bool := !(s.opsOf r).any (fun e => e.2.sent) && (s.bank r).batches.isEmpty

/-- A bank whose channel is reserved takes no continuation; the channel of an ended one is free once no slot is SENT (R277). -/
def State.chanFree (s : State) (r : Nat) : Bool :=
  match (s.chan r).reserved with
  | none => true
  | some c => isEnded c && s.chanOver r

/-- The HELD operations and faults of an ended continuation go from its channel. -/
def State.freeChan (s : State) (r : Nat) : State :=
  let s := (s.opsOf r).foldl (fun s e => s.setRop e.1 none) s
  s.setChan r { s.chan r with reserved := none, faults := [] }

/-- The channel of an ended continuation is free once no slot is SENT (R276, R277). -/
def State.chanSettle (s : State) (r : Nat) : State :=
  if (s.chan r).reserved.any isEnded && s.chanOver r then s.freeChan r else s

/-- CONTINUATION_DISPATCH: the empty active bank of a slot takes a continuation unless its other bank returns first or its
channel is reserved (R100, R277, R426). -/
def execContinuationDispatch (r : Nat) (s : State) : Host.Outcome State Fault Refusal :=
  .next (if isSvc r || (s.bank r).cont.isSome || s.activeBank (slotOf r) != r || s.returnable (otherBank r) ||
      !s.chanFree r then s
    else match s.nextCont (r / 128) with
      | some c => (if (s.chan r).reserved.isSome then s.freeChan r else s).dispatch c r
      | none => s)

end Sys2Proof.Machine
end

