-- ==== Sys2Proof/Machine/Engines.lean ====
section
/-! DEFINITION. Engine commands: issue, the moves of CPY and MCAST, the beats of STRM and GATH, completion, faults and WAITP
(09_ins_memory R222 to R236; 12_queues R285; 07_memories R459; 08_ordering R200). -/
namespace Sys2Proof.Machine

/-! ### Records that an instruction reads at issue, R225 and R459 -/

/-- A read of this package as readAt, with the bytes of it that are poisoned. -/
def State.readMask (s : State) (cluster pa n : Nat) (core : Option Nat := none) : Nat × Option Nat × Nat × State :=
  let (v, p, s) := s.readAt cluster pa n core
  (v, p, if p.isNone then 0 else s.badBytes (cellKey cluster (paLocal pa)) n, s)

/-- Read at most two lines of this package. Where a byte is poisoned, the value is the offset of the first such byte (R459). -/
def State.readWide (s : State) (cluster pa n : Nat) (core : Option Nat := none) : Nat × Option Nat × State :=
  match s.readMask cluster pa (Nat.min n 64) core with
  | (_, some p, m, s) => (lowBit m 64, some p, s)
  | (v, none, _, s) =>
    if n ≤ 64 then (v, none, s)
    else match s.readMask cluster (pa + 64) (n - 64) core with
      | (_, some q, m, s) => (64 + lowBit m 64, some q, s)
      | (w, none, _, s) => (v + w * 2 ^ 512, none, s)

/-- Read the `n` bytes at va that an instruction takes as its record, aligned to their size, at this package or at another:
then `k` with the value, physical address and key. The walk's writes stay. `parks` says that the wait for another package can park
the bank (R225; 17_work R417). -/
def State.readRecord (s : State) (c : Cls) (va n : Nat) (parks : Bool) (k : State → Nat → Nat → Nat → Res) : Res :=
  let clear (s : State) : State :=
    let b := s.b
    s.setB { b with record := none }
  let wait (op : Nat) : Option WaitOn := if parks then some (.ops [op]) else none
  match s.access c va n 0 with
  | (.ok pa key _, s) =>
    let a := paLocal pa
    let cl := clusterOf s.cur
    let ck := cellKey cl a
    let info := c.kind * 2
    if s.own pa then
      if s.b.reqOn (ck / 64) || s.b.reqOn ((ck + n - 1) / 64) || s.pairTo s.cur a then .done (s.waitOn none)
      else
        match s.readWide cl pa n (some (coreOf s.cur)) with
        | (off, some q, s) => .done (s.raise 6 (info + q * 2 ^ 9) (va + off))
        | (v, none, s) => k s v pa key
    else
      match s.b.record with
      | some x =>
        if x.va ≠ va then .done ((clear s).waitOn none)
        else if x.failed then .done ((clear s).raise 9 (info + 2 ^ 11 + paPkg pa * 2 ^ 20) va)
        else match x.data with
          | none => .done (s.waitOn (wait x.op))
          | some (off, some q) => .done ((clear s).raise 6 (info + q * 2 ^ 9) (va + off))
          | some (v, none) => k (clear s) v pa key
      | none =>
        s.settle (s.readRemote
          { who := s.cur, kind := c.kind, pkg := paPkg pa, va := va, body := .read a n, record := true } a n fun s =>
            let b := s.b
            .done ((s.setB { b with record := some { va := va, op := s.nextOp - 1 } }).waitOn (wait (s.nextOp - 1))))
  | (e, s) => s.accFail e

/-! ### Fields of a command, R223 and R224 -/

/-- Bytes off to off + n − 1 of the shape record. -/
def recFld (w off n : Nat) : Nat := w / 2 ^ (8 * off) % 2 ^ (8 * n)

def Cmd.src (c : Cmd) : Nat := recFld c.word 0 8
def Cmd.dst (c : Cmd) : Nat := recFld c.word 8 8
def Cmd.rowb (c : Cmd) : Nat := recFld c.word 16 4
def Cmd.rows (c : Cmd) : Nat := recFld c.word 20 4
def Cmd.sstr (c : Cmd) : Nat := recFld c.word 24 8
def Cmd.dstr (c : Cmd) : Nat := recFld c.word 32 8
def Cmd.idxBase (c : Cmd) : Nat := recFld c.word 40 8
def Cmd.ctl (c : Cmd) : Nat := recFld c.word 48 8

/-- The bias on addresses; an MCAST has a mask in its place (R222). -/
def Cmd.off (c : Cmd) : Nat := if c.kind = 1 then 0 else c.bias

/-- Address of the source of a row, or of the row that an index names (R223). -/
def Cmd.srcAt (c : Cmd) (row : Nat) : Nat := (c.src + c.off + row * c.sstr) % 2 ^ 64

/-- Address of the source of the present row. -/
def Cmd.srcRow (c : Cmd) : Nat := c.srcAt (c.idx.getD c.row)

/-- Address of the destination of a row. -/
def Cmd.dstAt (c : Cmd) (row : Nat) : Nat := (c.dst + c.off + row * c.dstr) % 2 ^ 64

/-- Width of an index of GATH. -/
def Cmd.idxW (c : Cmd) : Nat := if bitAt c.ctl 13 then 8 else 4

/-- The command moves nothing (R225). -/
def Cmd.empty (c : Cmd) : Bool := c.rowb == 0 || c.rows == 0 || (c.kind == 1 && c.bias % 16 == 0)

/-- The shape checks of R225 step 4, the queue aside. R4 has hardware ignore reserved content, and R225 names the reserved fields of
the shape record among the checks: the model follows R225 (assumption 54). -/
def Cmd.shapeOk (c : Cmd) : Bool :=
  let strm := 2 ≤ c.kind
  (c.ctl &&& (if c.kind = 3 then 0xffffffffffffc7c0 else if c.kind = 2 then 0xffffffffffffe7c0 else 2 ^ 64 - 1)) == 0
    && (if strm then c.dst == 0 && c.dstr == 0 else true)
    && (if c.kind = 3 then true else c.idxBase == 0)
    && decide (c.rowb ≤ 2 ^ 24) && (!strm || c.rowb % 4 == 0)
    && decide (c.rowb * c.rows ≤ 2 ^ 32 - 1)
    && (decide (c.row < c.rows ∧ c.byte ≤ c.rowb) || (c.row == c.rows && c.byte == 0))
    && (c.kind != 1 || c.bias < 16)

/-- The context of command `id` as an agent of a cluster, with a translation cache of its own (R388). -/
def Cmd.ctx (c : Cmd) (id cluster : Nat) : Ctx :=
  { root := c.root, key := c.key % 4096, exts := c.exts, user := c.user, core := coreOf c.who, own := engTlb id, cluster := cluster }

/-- EINFO of a stream fault (R235). -/
def Cmd.einfo (c : Cmd) (f : CFault) : Nat :=
  c.kind + c.slot * 2 ^ 2 + f.mdest * 2 ^ 5 + f.side * 2 ^ 7 + f.reason * 2 ^ 9 + f.sub * 2 ^ 12

/-! ### Checks of one address -/

/-- The outcome of the checks on an engine's address. -/
inductive EAcc where
  | ok (pa key : Nat)
  | fault (f : CFault)
  | wait
  deriving DecidableEq, Repr

/-- The checks that follow the translation of an engine's address: the leaf; a destination of this package (R227), for MCAST in
scratch (R228); the target; then the region kind. -/
def State.checkEng (s : State) (c : Cmd) (cls : Cls) (size side : Nat) (x : Ctx) (perm pa key kind : Nat) : Tr :=
  match s.leafReason x cls.need perm pa key with
  | some r => .f4 r
  | none =>
    if side = 1 && paPkg pa != s.pkg then .f4 5
    else if c.kind = 1 && side = 1 && !isScratch (paLocal pa) then .f4 2
    else { s with cur := c.who }.checkData cls size x cls.need perm pa key kind

/-- The checks of R209 for an address of command `id`, as an agent of a cluster (R225 to R228, R233). -/
def State.engAccess (s : State) (id : Nat) (c : Cmd) (cls : Cls) (cluster va n side mdest : Nat) : EAcc × State :=
  let f (sub reason : Nat) : EAcc := .fault { sub := sub, reason := reason, side := side, mdest := mdest, va := va }
  match s.translateWith (fun s x perm pa key kind => s.checkEng c cls n side x perm pa key kind) (c.ctx id cluster) cls.need va with
  | (.f3, s) => (f 3 0, s)
  | (.f4 r, s) => (f 4 r, s)
  | (.f5 _, s) => (f 5 0, s)
  | (.poison _, s) => (f 7 0, s)
  | (.ok pa key _, s) => if s.scratchBusy cluster pa then (.wait, s) else (.ok pa key, s)

/-! ### Counted arrivals, R232 and R233 -/

/-- The clusters in which a command writes: those of an MCAST's mask, with their bits. -/
def Cmd.clusters (c : Cmd) : List (Nat × Nat) :=
  if c.kind = 1 then
    ((List.range 4).filter fun i => bitAt c.bias i).map fun i => (i, clusterOf c.who / 4 * 4 + i)
  else [(0, clusterOf c.who)]

/-- The count of a command on its barrier objects; the first object that is poisoned, or whose bank refuses it, gives a
fault, and nothing is counted there (R459, R228). A BARW of the phase acquires the bytes that command `id` has written (08_ordering
R201). -/
def State.countBytes (s : State) (id : Nat) (c : Cmd) (pa key : Nat) : List (Nat × Nat) → State × Option CFault
  | [] => (s, none)
  | (bit, cl) :: l =>
    let (s, f) := State.countBytes s id c pa key l
    let a := paLocal pa
    match if isScratch a then s.scratchReason cl (c.key % 4096) a else none with
    | some r => (s, some { sub := 4, reason := r, side := 3, mdest := bit, va := c.barVa })
    | none =>
      match s.barAction (.eng cl id) cl pa key (fun n s => s.preCount (barKey cl pa) n fun x => x.cmds.contains id)
          fun o => o.arrive c.count with
      | .error _ => (s, some { sub := 7, side := 3, mdest := if c.kind = 1 then bit else 0, va := c.barVa })
      | .ok t => (t, f)

/-- The count of a command, if it names an object and has bytes to count. -/
def State.arriveAll (s : State) (id : Nat) (c : Cmd) : State × Option CFault :=
  match c.bar with
  | some (pa, key) => s.countBytes id c pa key c.clusters
  | none => (s, none)

/-! ### Ends of a command -/

/-- A command. -/
def State.cmd (s : State) (id : Nat) : Option Cmd := Tab.get none s.cmds id
/-- Write or remove a command. -/
def State.setCmd (s : State) (id : Nat) (c : Option Cmd) : State := { s with cmds := Tab.set none s.cmds id c }

/-- A command is over, and its translation cache with it. -/
def State.endCmd (s : State) (id : Nat) : State :=
  { s with cmds := Tab.set none s.cmds id none, l1tlb := Tab.set [] s.l1tlb (engTlb id) [] }

/-- The engine slot of a command that is not detached is freed. -/
def State.freeSlot (s : State) (c : Cmd) : State :=
  if c.detached then s
  else
    let b := s.bank c.who
    s.setBank c.who { b with eng := Tab.set none b.eng c.slot none }

/-- A fault is delivered (R234): to the bank while the command is not detached, whose slot stays until the exception is
taken; otherwise to the fault domain of its group. -/
def State.deliverFault (s : State) (c : Cmd) (f : CFault) : State :=
  let x : SFault := { slot := c.slot, einfo := c.einfo f, eaddr := if f.sub = 10 ∨ f.sub = 11 then 0 else f.va }
  if c.detached then s.streamRecord c.gid c.who x
  else
    let b := s.bank c.who
    s.setBank c.who ({ b with sfaults := b.sfaults ++ [x] }.statBit 16 true)

/-- PROG is written into the shape record, where that lies in this package (R233). -/
def State.writeProg (s : State) (id : Nat) (c : Cmd) (row byte : Nat) : State :=
  let cl := clusterOf c.who
  if s.own c.recPa then s.writeAt cl (c.recPa + 0x38) 8 (row * 2 ^ 32 + byte) c.recKey (.eng cl id) else s

/-! ### Issue, R225 and R226 -/

/-- The checks on the translation of a barrier object: the leaf, a place of this package, for MCAST in scratch; a
scratch bank of the issuing cluster for another command; no spill log (10_updates R246); then a sync region or scratch (R225). An object
of MCAST that lies in neither a sync region nor scratch meets SUB 4 and SUB 5 of one step: it reports NOTSCRATCH (assumption 79). -/
def State.checkBar (s : State) (c : Cmd) (x : Ctx) (perm pa key kind : Nat) : Tr :=
  let a := paLocal pa
  match s.leafReason x { w := true } perm pa key with
  | some r => .f4 r
  | none =>
    if paPkg pa != s.pkg then .f4 5
    else if c.kind = 1 then (if isScratch a then .ok pa key kind else .f4 2)
    else match s.targetReason x pa with
      | some r => .f4 r
      | none =>
        if isTier a && s.inLog a then .f4 0
        else if isScratch a || (kind = 2 && !isDevice a) then .ok pa key kind
        else .f5 2

/-- Step 5 of R225 on the barrier object of command `id`: its physical address and key, or the fault. -/
def State.barrierOf (s : State) (id : Nat) (c : Cmd) (va : Nat) : Except CFault (Nat × Nat) × State :=
  let f (sub reason : Nat) : Except CFault (Nat × Nat) :=
    .error { sub := sub, reason := reason, side := 3, va := va }
  if va % 16 ≠ 0 then (f 2 0, s)
  else
    match s.translateWith (fun s x perm pa key kind => s.checkBar c x perm pa key kind) (c.ctx id (clusterOf c.who)) { w := true } va with
    | (.f3, s) => (f 3 0, s)
    | (.f4 r, s) => (f 4 r, s)
    | (.f5 _, s) => (f 5 0, s)
    | (.poison _, s) => (f 7 0, s)
    | (.ok pa key _, s) => (.ok (pa, key), s)

/-- The promised time of CPY and MCAST: a free value not before the issue (R226). -/
def State.promise (s : State) (kind : Nat) : Nat × State :=
  if 2 ≤ kind then (2 ^ 48 - 1, s)
  else
    let (w, t) := s.freeWord
    let p := (s.time + w.toNat % 2 ^ 46) % 2 ^ 48
    (if p = 2 ^ 48 - 1 then s.time % 2 ^ 48 else p, t)

/-- The lowest free engine slot of a bank. -/
def Bank.freeEng (b : Bank) : Option Nat := (List.range 8).find? fun i => (Tab.get none b.eng i).isNone

/-- A bank waits for room to close its partial beat before a stream begins (R231, R303). -/
def State.stallClose (s : State) (n : Nat) : State :=
  let b := s.b
  s.setB { b with
    stalled := some (b.stalled.getD s.cycle)
    stall := some { op := .qflush n, q := n, full := some true, parks := false }
    waited := none }

/-- The partial beat of the acting bank for a queue is closed before a stream into it begins (R231). -/
def State.closeFor (s : State) (n : Nat) (k : State → Res) : Res :=
  match s.b.packer n with
  | none => k s
  | some p =>
    let q := s.queue (s.qk n)
    if q.room = 0 then .done (s.stallClose n)
    else k ((s.pushBeats (s.qk n) [p.beat]).setB (s.b.dropPack n))

/-- The command is created in slot `slot` and the instruction completes; the checks of steps 4 and 5 may end it at
once. -/
def State.startCmd (s : State) (d : Nat) (c : Cmd) (barVa : Nat) : Res :=
  let (pt, s) := s.promise c.kind
  let b := s.b
  let b := { b with seq := (b.seq + 1) % 2 ^ 13, eng := Tab.set none b.eng c.slot (some c.seq) }
  let s := s.setB ((b.setGpr d (BitVec.ofNat 64 (c.slot * 2 ^ 61 + c.seq * 2 ^ 48 + pt))).advanceM 4)
  if !c.shapeOk then .done (s.deliverFault c { sub := 10 })
  else
    let badQueue := match c.pushes with
      | some n => isSvc s.cur || (s.queue (s.qk n)).dir != 1
      | none => false
    if badQueue then .done (s.deliverFault c { sub := 11 })
    else
      let c := if c.empty then { c with row := c.rows, byte := 0 } else c
      let start (s : State) (c : Cmd) : Res :=
        .done { (s.setCmd s.nextCmd (some c)) with nextCmd := s.nextCmd + 1 }
      if barVa = 0 then start s c
      else match s.barrierOf s.nextCmd c barVa with
        | (.error f, s) => .done ((s.endCmd s.nextCmd).deliverFault c f)
        | (.ok (pa, key), s) => start s { c with bar := some (pa, key), barVa := barVa }

/-- CPY, MCAST, STRM or GATH (R222, R225). -/
def State.opEngine (s : State) (kind : Nat) (d r b c : BitVec 5) : State :=
  s.issue [.g r.toNat, .g b.toNat, .g c.toNat] [.g d.toNat] fun s => s.gate fun s =>
    match s.b.freeEng with
    | none => .wait none
    | some slot =>
      if !s.b.reqs.isEmpty || s.pairs.any (fun p => p.who == s.cur) then .wait none
      else
        let x := s.b
        let va := (x.gpr r.toNat).toNat
        s.readRecord .ldv va 64 true fun s w pa key =>
          let prog := recFld w 56 8
          let cmd : Cmd :=
            { kind := kind, who := s.cur, cont := s.b.cont, gid := s.gidOfBank s.cur, slot := slot, seq := x.seq, recVa := va,
              recPa := pa, recKey := key, word := w, bias := (x.gpr c.toNat).toNat, root := x.ctxroot.toNat,
              key := x.ctxkey.toNat, xtab := x.xtab.toNat, exts := s.extsOf (coreOf s.cur) x.xtab.toNat, user := !x.priv, row := prog / 2 ^ 32,
              byte := prog % 2 ^ 32, prow := prog / 2 ^ 32, pbyte := prog % 2 ^ 32, tc := s.tcOf s.cur }
          let go (s : State) : Res := s.startCmd d.toNat cmd (x.gpr b.toNat).toNat
          match cmd.pushes with
          | some n => s.closeFor n go
          | none => go s

/-- CPY gd, gs, gb, gc (R227). -/
def execCpy (d y b c : BitVec 5) (s : State) : Host.Outcome State Fault Refusal := .next (s.opEngine 0 d y b c)
/-- MCAST gd, gs, gb, gc (R228). -/
def execMcast (d y b c : BitVec 5) (s : State) : Host.Outcome State Fault Refusal := .next (s.opEngine 1 d y b c)
/-- STRM gd, gs, gb, gc (R229). -/
def execStrm (d y b c : BitVec 5) (s : State) : Host.Outcome State Fault Refusal := .next (s.opEngine 2 d y b c)
/-- GATH gd, gs, gb, gc (R230). -/
def execGath (d y b c : BitVec 5) (s : State) : Host.Outcome State Fault Refusal := .next (s.opEngine 3 d y b c)

/-! ### Moves -/

/-- What a command does next: it has moved; it waits; it faults; or it has nothing left to move. -/
inductive ETry where
  | moved (s : State)
  | wait
  | fault (f : CFault)
  | over
  deriving DecidableEq, Repr

/-- An operation that changes memory at its owner. -/
def RemOp.changes (o : RemOp) : Bool :=
  match o.body with
  | .write .. | .cas .. | .swap .. | .fadd .. | .batch _ | .bari .. | .bara .. => true
  | _ => false

/-- A write, read-modify-write or update of its issuing thread that comes before a command awaits its reply or its acceptance
(R200, R253). -/
def State.farBefore (s : State) (id : Nat) (c : Cmd) : Bool :=
  (s.opsOf c.who).any (fun e => e.2.sent && e.2.changes && e.2.born ≤ id) || (s.bank c.who).batches.any fun x => x.born ≤ id

/-- Row reads that the stream engine of an address has outstanding at other packages: at most 4,096 (R230; 01_machine R13). The
engine is the one of the slice that the address has at its owner (assumption 24). -/
def State.rowReads (s : State) (a : Nat) : Nat :=
  (s.rops.filter fun e => match e.2 with
    | some o => o.eng.isSome && o.kind = 2 && homeSlice ((o.lines.headD 0) * 64) = homeSlice a
    | none => false).length

/-- A read that a command makes: its bytes are here; it has gone to another package; it waits; or it faults. -/
inductive EFetch where
  | now (p : Part) (s : State)
  | sent (s : State)
  | wait
  | fault (f : CFault)
  deriving DecidableEq, Repr

/-- Command `id` reads `n` bytes at va, within one line, for byte `off` of a row (R227, R200). -/
def State.engFetch (s : State) (id : Nat) (c : Cmd) (va n side row off : Nat) : EFetch :=
  if s.farBefore id c then .wait
  else
    match s.engAccess id c .ldv (clusterOf c.who) va n side 0 with
    | (.fault f, _) => .fault f
    | (.wait, _) => .wait
    | (.ok pa _, s) =>
      let a := paLocal pa
      if s.own pa then
        let (v, _, m, s) := s.readMask (clusterOf c.who) pa n
        .now { n := n, v := v, bad := m, pa := a, range := s.rangeNo a } s
      else if 4096 ≤ s.rowReads a then .wait
      else
        let o : RemOp :=
          { who := c.who, eng := some id, kind := 2, pkg := paPkg pa, va := va, lines := linesOf a n, body := .read a n, tc := c.tc,
            ctx := [c.key % 4096] }
        let x : EngRead := { row := row, off := off, n := n, op := some s.nextOp }
        .sent ((s.setCmd id (some { c with reads := c.reads ++ [x] })).issueRop o false)

/-- The bytes of a read go to `k`, when they are here at once. -/
def EFetch.into (x : EFetch) (k : State → Part → ETry) : ETry :=
  match x with
  | .now p s => k s p
  | .sent s => .moved s
  | .wait => .wait
  | .fault f => .fault f

/-- The bytes at `off` of the present row for a command: those of a read that it has made, or of a new one of `n` bytes at va. -/
def State.engRead (s : State) (id : Nat) (c : Cmd) (va n side off : Nat) (k : State → Cmd → Part → ETry) : ETry :=
  match c.reads.find? fun x => x.row == c.row && x.off == off with
  | some x =>
    if x.failed then .fault { sub := 9, side := side, va := va }
    else match x.got with
      | some p => k s { c with reads := c.reads.filter fun y => !(y.row == c.row && y.off == off) } p
      | none => .wait
  | none => (s.engFetch id c va n side c.row off).into fun s p => k s c p

/-- A read that is made ahead of its place: it is kept, and one that fails its checks is not made (08_ordering R189). -/
def State.engEarly (s : State) (id : Nat) (c : Cmd) (va n side row off : Nat) : ETry :=
  match s.engFetch id c va n side row off with
  | .now p s => .moved (s.setCmd id (some { c with reads := c.reads ++ [{ row := row, off := off, n := n, got := some p }] }))
  | .sent s => .moved s
  | _ => .wait

/-- Which words of a write of some bytes at key `k` take poison from the bytes named (R181). -/
def badWord (k m i : Nat) : Bool := m * 2 ^ (k % 4) / 2 ^ (4 * i) % 16 != 0

/-- Write one piece of CPY or MCAST to every destination, with the poison of its source bytes `m` (R181, R227, R228). -/
def State.engWrite (s : State) (id : Nat) (c : Cmd) (va n v m : Nat) : List (Nat × Nat) → EAcc × State
  | [] => (.ok 0 0, s)
  | (bit, cl) :: l =>
    match s.engAccess id c .stv cl va n 1 (if c.kind = 1 then bit else 0) with
    | (.ok pa key, s) =>
      let ck := cellKey cl (paLocal pa)
      let s := s.writeAt cl pa n v key (.eng cl id)
      (if m = 0 then s else s.markPoison ck n (badWord ck m)).engWrite id c va n v m l
    | r => r

/-- The piece of a row that begins at byte `b` and goes to the end of a line of the address `a` of byte 0 of the row, or of the row. -/
def Cmd.pieceLen (c : Cmd) (a b : Nat) : Nat := Nat.min (64 - (a + b) % 64) (c.rowb - b)

/-- A read that covers a byte of a row. -/
def Cmd.covers (c : Cmd) (row b : Nat) : Option EngRead :=
  c.reads.find? fun x => x.row == row && x.off ≤ b && b < x.off + x.n

/-- The first byte of [lo, hi) of a row that is not here, with the read that is to bring it, if one is made. -/
def Cmd.lack (c : Cmd) (row lo hi fuel : Nat) : Option (Nat × Option EngRead) :=
  match fuel with
  | 0 => none
  | f + 1 =>
    if hi ≤ lo then none
    else match c.covers row lo with
      | none => some (lo, none)
      | some x => if x.got.isSome then c.lack row (x.off + x.n) hi f else some (lo, some x)

/-- The `n` bytes from `lo` on of a row, and which of them are poisoned, once they are here. -/
def Cmd.bytesOf (c : Cmd) (row lo n fuel : Nat) : Nat × Nat :=
  match fuel with
  | 0 => (0, 0)
  | f + 1 =>
    match if n = 0 then none else c.covers row lo with
    | none => (0, 0)
    | some x =>
      let p := x.got.getD { n := 0, v := 0 }
      let k := lo - x.off
      let t := Nat.min n (x.n - k)
      let (v, m) := c.bytesOf row (lo + t) (n - t) f
      (p.v / 2 ^ (8 * k) % 2 ^ (8 * t) + v * 2 ^ (8 * t), p.bad / 2 ^ k % 2 ^ t + m * 2 ^ t)

/-- The place of a copy passes `m` bytes that are written: it is the progress point of R233, and they count. -/
def Cmd.pass (c : Cmd) (m : Nat) : Cmd :=
  let (row, byte) := if c.byte + m = c.rowb then (c.row + 1, 0) else (c.row, c.byte + m)
  { c with
    row := row, byte := byte, prow := row, pbyte := byte, count := c.count + m
    reads := c.reads.filter fun x => row < x.row || (x.row == row && byte < x.off + x.n)
    wrote := c.wrote.filter (· != (c.row, c.byte)) }

/-- The next move of CPY or MCAST at its place: it passes a piece that is written; the write of a piece whose bytes are here; or the
read of those that are not, up to the end of a line of the source (R227). -/
def State.copyTry (s : State) (id : Nat) (c : Cmd) : ETry :=
  if c.rows ≤ c.row then .over
  else if c.rowb ≤ c.byte then .moved (s.setCmd id (some { c with row := c.row + 1, byte := 0, prow := c.row + 1, pbyte := 0 }))
  else
    let m := c.pieceLen (c.dstAt c.row) c.byte
    if c.wrote.contains (c.row, c.byte) then .moved (s.setCmd id (some (c.pass m)))
    else match c.lack c.row c.byte (c.byte + m) 65 with
      | some (b, none) =>
        (s.engFetch id c ((c.srcRow + b) % 2 ^ 64) (c.pieceLen c.srcRow b) 0 c.row b).into fun s p =>
          .moved (s.setCmd id (some { c with reads := c.reads ++ [{ row := c.row, off := b, n := p.n, got := some p }] }))
      | some (_, some x) => if x.failed then .fault { sub := 9, side := 0, va := (c.srcRow + x.off) % 2 ^ 64 } else .wait
      | none =>
        let (v, bad) := c.bytesOf c.row c.byte m 65
        match s.engWrite id c ((c.dstAt c.row + c.byte) % 2 ^ 64) m v bad c.clusters with
        | (.fault f, _) => .fault f
        | (.wait, _) => .wait
        | (.ok _ _, s) => .moved (s.setCmd id (some (c.pass m)))

/-- The piece of a row that holds a byte, cut at the lines of the address `a` of its byte 0 and at the place `lo` of the command in it. -/
def Cmd.pieceAt (c : Cmd) (a lo b : Nat) : Nat × Nat :=
  let x := Nat.max lo (b - (a + b) % 64)
  (x, c.pieceLen a x)

/-- A move of CPY or MCAST beyond its place, which a turn names: the engine moves rows and bytes in any order (R227). -/
def State.copyEarly (s : State) (id : Nat) (c : Cmd) (row b : Nat) (write : Bool) : ETry :=
  let lo := if row = c.row then c.byte else 0
  if row < c.row || c.rows ≤ row || b < lo || c.rowb ≤ b then .wait
  else if write then
    let (x, m) := c.pieceAt (c.dstAt row) lo b
    if c.wrote.contains (row, x) || (c.lack row x (x + m) 65).isSome then .wait
    else
      let (v, bad) := c.bytesOf row x m 65
      match s.engWrite id c ((c.dstAt row + x) % 2 ^ 64) m v bad c.clusters with
      | (.ok _ _, s) => .moved (s.setCmd id (some { c with wrote := (row, x) :: c.wrote }))
      | _ => .wait
  else
    let (x, m) := c.pieceAt (c.srcAt row) lo b
    if (c.covers row x).isSome then .wait else s.engEarly id c ((c.srcAt row + x) % 2 ^ 64) m 0 row x

/-- A row of a stream is over: its EOR marker, and after the last row the EOI marker (R224). -/
def Cmd.endRow (c : Cmd) : Cmd :=
  let next := c.row + 1
  let eor : List PendBeat :=
    if bitAt c.ctl 12 then [{ beat := markBeat 2 (c.row % 2 ^ 24), bytes := 0, row := next, byte := 0 }] else []
  { c with row := next, byte := 0, idx := none, seg := some (0, none), skip := 0, pend := c.pend ++ eor }

/-- After every row the EOI marker is pushed and nothing is left to read (R224). -/
def Cmd.finishStream (c : Cmd) : Cmd :=
  let eoi : List PendBeat :=
    if bitAt c.ctl 11 then [{ beat := markBeat 1 0, bytes := 0, row := c.rows, byte := 0 }] else []
  { c with pend := c.pend ++ eoi, ended := true }

/-! #### Rows of a stream, R229 and R285 -/

/-- A word that a stream has read: its value, whether it is poisoned, its address at this package and the format range of its
line. -/
structure RowWord where
  v : Nat
  bad : Bool
  pa : Nat
  range : Option Nat
  deriving DecidableEq, Repr

/-- The words of a part. -/
def Part.words (p : Part) : List RowWord :=
  (List.range (p.n / 4)).map fun i =>
    { v := fld p.v (32 * i + 31) (32 * i), bad := p.bad / 2 ^ (4 * i) % 16 != 0, pa := p.pa + 4 * i, range := p.range }

/-- The words read from the present place in the row on. -/
def Cmd.words (c : Cmd) : List RowWord := c.parts.flatMap Part.words

/-- The parts without their first `n` bytes. -/
def dropBytes (n : Nat) : List Part → List Part
  | [] => []
  | p :: l =>
    if p.n ≤ n then dropBytes (n - p.n) l
    else { p with n := p.n - n, v := p.v / 2 ^ (8 * n), bad := p.bad / 2 ^ n, pa := p.pa + n } :: l

/-- An entry of the format range table. -/
def State.range (s : State) (n : Nat) : FmtRange := Tab.get {} s.ranges n

/-- The packing code of a word: the format of its line's range, W32 where that has none (R177, R229). -/
def State.wordPk (s : State) (x : RowWord) : Nat :=
  match x.range with
  | some n => fld (s.range n).d2 3 0
  | none => 2

/-- The range of a word, where that has a scale region. -/
def State.scaled (s : State) (x : RowWord) : Option Nat := x.range.filter fun n => fld (s.range n).d2 7 4 != 0


/-- A beat of plain words, each with the packing code of its line; poison gives an ERR marker in its place (R229, R285). -/
def State.wordBeat (s : State) (l : List RowWord) : Beat :=
  if l.any (·.bad) then markBeat 5 1
  else (l.zip (List.range 16)).foldl (fun b x => b.put x.2 0 (s.wordPk x.1) x.1.v) emptyBeat

/-- Scale byte of the block whose first element lies at a local address (R404); none when it is poisoned. -/
def State.scaleByte (s : State) (e : FmtRange) (a : Nat) : Option Nat × State :=
  match s.readAt 0 (s.pkg * 2 ^ 42 + paLocal (e.scaleAt a)) 1 with
  | (v, none, s) => (some v, s)
  | (_, some _, s) => (none, s)

/-- The scale bytes of blocks. -/
def State.scaleBytes (s : State) (e : FmtRange) : List Nat → List (Option Nat) × State
  | [] => ([], s)
  | a :: l =>
    let (x, s) := s.scaleByte e a
    let (y, s) := s.scaleBytes e l
    (x :: y, s)

/-- One group of a row with scales: the SCALE beat, then one beat for each word of a block, though no block may have that word
(R285). `w` is the words of a block and `g0` the byte of the row at which the group begins. -/
def scaleGroup (row g0 pk w : Nat) (l : List RowWord) (sc : List (Option Nat)) : List PendBeat :=
  let err := markBeat 5 1
  let sb := if sc.any Option.isNone then err
    else (sc.zip (List.range 16)).foldl (fun b x => b.put x.2 2 2 (x.1.getD 0)) emptyBeat
  let lanes (d : Nat) : List (Nat × RowWord) := (List.range 16).filterMap fun i => (l[i * w + d]?).map fun x => (i, x)
  let beat (d : Nat) : Beat :=
    if (lanes d).any (·.2.bad) then err else (lanes d).foldl (fun b x => b.put x.1 0 pk x.2.v) emptyBeat
  let bytes (d : Nat) : Nat := if (lanes d).any (·.2.bad) then 0 else 4 * (lanes d).length
  let done (d : Nat) : Nat := (List.range d).foldl (fun n e => n + 4 * (lanes e).length) 0
  { beat := sb, bytes := 0, row := row, byte := g0 } ::
    (List.range w).map fun d => { beat := beat d, bytes := bytes d, row := row, byte := g0 + done (d + 1) }

/-- The last beat of a row carries the progress of the next one, unless an EOR marker follows. -/
def Cmd.lastBeat (c : Cmd) (l : List PendBeat) : List PendBeat :=
  if bitAt c.ctl 12 then l
  else match l.getLast? with
    | some p => if p.byte = c.rowb then l.dropLast ++ [{ p with row := c.row + 1, byte := 0 }] else l
    | none => l

/-- Beats join those that are read; the row ends with its last byte. -/
def Cmd.addBeats (c : Cmd) (l : List PendBeat) (n : Nat) : Cmd :=
  let c := { c with pend := c.pend ++ c.lastBeat l, byte := c.byte + n, parts := dropBytes n c.parts, skip := 0 }
  if c.byte = c.rowb then c.endRow else c

/-- The start of the part of the row that lies in a scaled range: where it began, for a resumed command as the place of its first
word in the range tells (assumption 25). -/
def Cmd.segStart (c : Cmd) (r : Nat) (e : FmtRange) (a : Nat) : Nat :=
  match c.seg with
  | some (n, q) => if q = some r then n else c.byte
  | none => c.byte - Nat.min c.byte (a - paLocal (fld e.d0 53 6 * 64))

/-- What a row gives of the words read, once they are enough: a beat of plain words, or a group of a scaled range. The words of a
row that lie in one scaled range go by groups, which begin with the first of them; other words go by beats of 64 bytes
(assumption 25). A scale byte in the spill log of a valid region faults with SUB 0x4 and REASON PERM, at the first element of its block
(10_updates R246; assumption 25). None when more has to be read. -/
def State.rowBeats (s : State) (c : Cmd) : Option (Except CFault (Cmd × State)) :=
  let l := c.words
  match l.head? with
  | none => none
  | some x =>
    let same := l.takeWhile fun y => s.scaled y == s.scaled x
    let last := decide (same.length < l.length) || c.byte + 4 * l.length == c.rowb
    match s.scaled x with
    | none =>
      if 16 ≤ same.length || last then
        let ws := same.take 16
        let n := 4 * ws.length
        let b := s.wordBeat ws
        let p : PendBeat := { beat := b, bytes := if ws.any (·.bad) then 0 else n, row := c.row, byte := c.byte + n }
        some (.ok ({ c with seg := some (c.byte + n, none) }.addBeats [p] n, s))
      else none
    | some r =>
      let e := s.range r
      let pk := fld e.d2 3 0
      let w := packWidth pk
      let seg := c.segStart r e x.pa
      let g0 := seg + (c.byte - seg) / (64 * w) * (64 * w)
      if c.byte ≠ g0 then some (.ok ({ c with byte := g0, skip := c.byte - g0, seg := some (seg, some r), parts := [] }, s))
      else if 16 * w ≤ same.length || last then
        let ws := same.take (16 * w)
        let n := 4 * ws.length
        let firsts := (List.range (cdiv ws.length w)).filterMap fun i => (ws[i * w]?).map (·.pa)
        match findIdx (fun a => s.inLog (paLocal (e.scaleAt a))) firsts with
        | some i => some (.error { sub := 4, side := 0, va := (c.srcRow + g0 + 4 * w * i) % 2 ^ 64 })
        | none =>
        let (sc, s) := s.scaleBytes e firsts
        let beats := scaleGroup c.row g0 pk w ws sc
        let beats := if c.skip = 0 then beats else beats.filter fun p => g0 + c.skip < p.byte
        some (.ok ({ c with seg := some (seg, some r) }.addBeats beats n, s))
      else none

/-- The next move in a row of STRM or GATH whose address is known: beats, or the read of what is left of a line (R229, R285). -/
def State.rowTry (s : State) (id : Nat) (c : Cmd) : ETry :=
  let base := c.srcRow
  if base % 4 ≠ 0 then .fault { sub := 2, side := 0, va := base }
  else match s.rowBeats c with
    | some (.error f) => .fault f
    | some (.ok (c, s)) => .moved (s.setCmd id (some c))
    | none =>
      let have' := 4 * c.words.length
      let a := (base + c.byte + have') % 2 ^ 64
      let n := Nat.min (64 - a % 64) (c.rowb - c.byte - have')
      s.engRead id c a n 0 (c.byte + have') fun s c p => .moved (s.setCmd id (some { c with parts := c.parts ++ [p] }))

/-- The next read of STRM or GATH (R229, R230). A shape record whose PROG stands at no 32-bit word goes on from the word that holds that
byte, and one at no boundary of 64 bytes begins its first beat there (assumption 76: R225 and R229 do not say). -/
def State.streamTry (s : State) (id : Nat) (c : Cmd) : ETry :=
  if c.ended then .over
  else if c.byte % 4 ≠ 0 then .moved (s.setCmd id (some { c with byte := c.byte - c.byte % 4 }))
  else if c.rows ≤ c.row then .moved (s.setCmd id (some c.finishStream))
  else if c.byte = c.rowb then .moved (s.setCmd id (some c.endRow))
  else if c.kind = 3 && c.idx.isNone then
    let a := (c.idxBase + c.row * c.idxW) % 2 ^ 64
    if a % c.idxW ≠ 0 then .fault { sub := 2, side := 2, va := a }
    else
      s.engRead id c a c.idxW 2 (2 ^ 32) fun s c p =>
        if p.bad ≠ 0 then .fault { sub := 6, side := 2, va := a }
        else .moved (s.setCmd id (some { c with idx := some p.v }))
  else s.rowTry id c

/-- The row that a stream reads for its row `row`, once that is known. -/
def Cmd.rowIdx (c : Cmd) (row : Nat) : Option Nat :=
  if c.kind ≠ 3 then some row
  else if row = c.row && c.idx.isSome then c.idx
  else ((c.reads.find? fun x => x.row == row && x.off == 2 ^ 32).bind (·.got)).bind fun p => if p.bad = 0 then some p.v else none

/-- A read of STRM or GATH beyond its place, which a turn names: the line that holds a byte of a row, or its index. -/
def State.streamEarly (s : State) (id : Nat) (c : Cmd) (row b : Nat) (index : Bool) : ETry :=
  let lo := if row = c.row then c.byte + 4 * c.words.length else 0
  if c.ended || row < c.row || c.rows ≤ row || b < lo || c.rowb ≤ b then .wait
  else if index then
    let a := (c.idxBase + row * c.idxW) % 2 ^ 64
    if c.kind ≠ 3 || (c.rowIdx row).isSome || (c.covers row (2 ^ 32)).isSome || a % c.idxW ≠ 0 then .wait
    else s.engEarly id c a c.idxW 2 row (2 ^ 32)
  else match c.rowIdx row with
    | none => .wait
    | some i =>
      let (x, m) := c.pieceAt (c.srcAt i) lo b
      if c.srcAt i % 4 ≠ 0 || (c.covers row x).isSome then .wait else s.engEarly id c ((c.srcAt i + x) % 2 ^ 64) m 0 row x

/-- The next move of a command at its place. -/
def State.engTry (s : State) (id : Nat) (c : Cmd) : ETry := if c.kind < 2 then s.copyTry id c else s.streamTry id c

/-- The move that a command makes: the next one at its place, or one beyond it that the turn names by row, byte and whether it is a write,
or the read of an index (08_ordering R189, R200). -/
def State.engMove (s : State) (id : Nat) (c : Cmd) : ETry :=
  match s.choice / 2 ^ 16 with
  | 0 => s.engTry id c
  | k + 1 => (if c.kind < 2 then s.copyEarly else s.streamEarly) id c (k / 2 ^ 26) (k / 2 % 2 ^ 25) (k % 2 == 1)

/-- MEMORY_REQUEST_COMPLETE: a request of a bank is performed, or an engine command makes its next move (R211, R226). -/
def execMemoryRequestComplete (q : ReqSel) (s : State) : Host.Outcome State Fault Refusal :=
  .next (match q with
    | .bank r n => s.bankRequestDone r n
    | .engine id => match s.cmd id with
      | some c => match s.engMove id c with
        | .moved t => t
        | _ => s
      | none => s)

/-- An earlier STRM or GATH of the same bank, or of the same continuation, into the same queue is not over (R231, 20_programs_fabric R455).
R231 asks that it is complete; one that ended in a stream fault is over too, and the later one goes on (assumption 77). -/
def State.earlierStream (s : State) (id : Nat) (c : Cmd) : Bool :=
  s.cmds.any fun e => e.1 < id && match e.2 with
    | some d => d.ofThread c.who c.cont && d.gid == c.gid && d.pushes == c.pushes
    | none => false

/-- STREAM_BEAT_PUSH: a command pushes its next beat while the queue has room (R229, R231). -/
def execStreamBeatPush (id : Nat) (s : State) : Host.Outcome State Fault Refusal :=
  .next (match s.cmd id with
    | none => s
    | some c =>
      match c.pushes, c.pend with
      | some n, p :: rest =>
        let k := queueKey c.gid n
        let q := s.queue k
        if q.dir != 1 || q.room = 0 || s.earlierStream id c then s
        else
          (s.pushBeats k [p.beat]).setCmd id
            (some { c with pend := rest, prow := p.row, pbyte := p.byte, count := c.count + p.bytes })
      | _, _ => s)

/-- Every move of a command is made and every token is in its queue. -/
def State.cmdOver (s : State) (id : Nat) (c : Cmd) : Bool :=
  c.pend.isEmpty && (match s.engTry id c with | .over => true | _ => false)

/-- ENGINE_COMPLETE: the bytes are counted and the slot is freed (R232); a poisoned barrier object gives a stream fault
with PROG at the end of the shape (R459). -/
def execEngineComplete (id : Nat) (s : State) : Host.Outcome State Fault Refusal :=
  .next (match s.cmd id with
    | none => s
    | some c =>
      if !s.cmdOver id c then s
      else
        let (s, f) := s.arriveAll id c
        let s := s.endCmd id
        match f with
        | none => s.freeSlot c
        | some f => (s.writeProg id c c.rows 0).deliverFault c f)

/-- ENGINE_FAULT: a command stops at its progress point, once every token before it is in its queue: PROG is written, the
bytes before it are counted and the fault is delivered (R233, R234). -/
def execEngineFault (id : Nat) (s : State) : Host.Outcome State Fault Refusal :=
  .next (match s.cmd id with
    | none => s
    | some c =>
      match c.pend.isEmpty, s.engTry id c with
      | true, .fault f => ((((s.writeProg id c c.prow c.pbyte).arriveAll id c).1).endCmd id).deliverFault c f
      | _, _ => s)

/-! ### WAITP, R236 -/

/-- The command that an engine slot of the acting bank holds has made every move: it completes now, and its completion comes before a
promised time of the same cycle (R236). -/
def State.slotOver (s : State) (slot seq : Nat) : Bool :=
  s.cmds.any fun e => match e.2 with
    | some c => c.who == s.cur && c.slot == slot && c.seq == seq && !c.detached && s.cmdOver e.1 c
    | none => false

/-- WAITP gd: memory-class by R458, so it needs room (R211), and no memory event, so no acquire holds it. -/
def State.opWaitp (s : State) (d : Nat) : State :=
  s.issue [.g d] [] fun s =>
    let w := (s.b.gpr d).toNat
    if !s.room then .wait none else
    if Tab.get none s.b.eng (fld w 63 61) ≠ some (fld w 60 48) then s.doneM 4
    else if fld w 47 0 ≠ 2 ^ 48 - 1 ∧ (s.time + 2 ^ 48 - fld w 47 0) % 2 ^ 48 < 2 ^ 47 ∧ s.slotOver (fld w 63 61) (fld w 60 48) = false
    then .exc 0x0c w 0
    else .wait none

/-- WAITP gd (R236). -/
def execWaitp (d : BitVec 5) (s : State) : Host.Outcome State Fault Refusal := .next (s.opWaitp d.toNat)

/-- PROMISE_MISSED: the bank at a WAITP finds that the promised time has come (R236). -/
def execPromiseMissed (r : Nat) (s : State) : Host.Outcome State Fault Refusal :=
  .next (match s.select r with
    | (.run (.waitp d), t) => { t with cur := r }.opWaitp d.toNat
    | _ => s)

end Sys2Proof.Machine
end

