-- ==== Sys2Proof/Machine/Special.lean ====
section
/-! DEFINITION. The special functions EXP2, LOG2, RCP, RSQRT and SQRT on F32, correctly rounded (02_numbers R52).
RCP, SQRT and RSQRT are exact in integer arithmetic. EXP2 and LOG2 are computed as intervals of growing precision until
both ends round alike, or once at 768 bits; their values at inexact points are never halfway between two F32 values
(assumption 10). -/
namespace Sys2Proof.Machine

/-- Integer square root by bits, from bit `k` − 1 down: the largest r with r² ≤ n among r < 2^k above `acc`. -/
def isqrtBits (n : Nat) : Nat → Nat → Nat
  | 0, acc => acc
  | k + 1, acc => isqrtBits n k (if (acc + 2 ^ k) * (acc + 2 ^ k) ≤ n then acc + 2 ^ k else acc)

/-- floor(√n) for n below 2^512. -/
def isqrt (n : Nat) : Nat := isqrtBits n 256 0

/-- RCP. -/
def rcpF (rm : RMode) (v : Fv) : Nat × Nat :=
  match v with
  | .nan s => (f32.nanc, if s then nv else 0)
  | .inf s => (f32.zero s, 0)
  | .fin s m e =>
    if m = 0 then (if s then 0xff800000 else 0x7f800000, dz)
    else if 0 ≤ e then f32.round rm s 1 (m * 2 ^ e.toNat) false
    else f32.round rm s (2 ^ (-e).toNat) m false

/-- SQRT. -/
def sqrtF (rm : RMode) (v : Fv) : Nat × Nat :=
  match v with
  | .nan s => (f32.nanc, if s then nv else 0)
  | .inf s => if s then (f32.nanc, nv) else (0x7f800000, 0)
  | .fin s m e =>
    if m = 0 then (f32.zero s, 0)
    else if s then (f32.nanc, nv)
    else
      -- m × 2^e = n × 2^(2h), n scaled up by 2^128
      let odd := (e % 2).toNat
      let n := m * 2 ^ (128 + odd)
      let h := (e - odd) / 2 - 64
      let r := isqrt n
      let st := decide (r * r ≠ n)
      if 0 ≤ h then f32.round rm false (r * 2 ^ h.toNat) 1 st else f32.round rm false r (2 ^ (-h).toNat) st

/-- RSQRT. -/
def rsqrtF (rm : RMode) (v : Fv) : Nat × Nat :=
  match v with
  | .nan s => (f32.nanc, if s then nv else 0)
  | .inf s => if s then (f32.nanc, nv) else (0, 0)
  | .fin s m e =>
    if m = 0 then (if s then 0xff800000 else 0x7f800000, dz)
    else if s then (f32.nanc, nv)
    else
      -- 1 / √(m × 2^e) with e made even: floor(√(2^256 / m')) and a sticky bit
      let odd := (e % 2).toNat
      let m' := m * 2 ^ odd
      let q := 2 ^ 256 / m'
      let r := isqrt q
      let st := decide (r * r * m' ≠ 2 ^ 256)
      let h := -((e - odd) / 2) - 128
      if 0 ≤ h then f32.round rm false (r * 2 ^ h.toNat) 1 st else f32.round rm false r (2 ^ (-h).toNat) st

/-- Two roundings agree: the common result, from a lower and an upper bound n / 2^p with sticky ends. -/
def agree (rm : RMode) (neg : Bool) (lo hi p : Nat) (sh : Int) : Option (Nat × Nat) :=
  let rnd := fun n =>
    if 0 ≤ sh then f32.round rm neg (n * 2 ^ sh.toNat) (2 ^ p) true
    else f32.round rm neg n (2 ^ (p + (-sh).toNat)) true
  let a := rnd lo
  let b := rnd hi
  if a = b then some a else none

/-- ln 2 × 2^p, within 2^(p/2 + 8) units: the series of 2 × atanh(1/3). -/
def ln2Fix (p : Nat) : Nat := (foldN (p / 3 + 4) (fun i t => t + 2 ^ (p + 17) / ((2 * i + 1) * 3 ^ (2 * i + 1))) 0) / 2 ^ 16

/-- Terms of exp(x) for x = n / 2^p below 1: the sum of x^k / k! for k up to `k`, by Horner's rule. -/
def expFix (p n : Nat) : Nat → Nat → Nat
  | 0, acc => acc
  | k + 1, acc => expFix p n k (2 ^ p + acc * n / 2 ^ p / (k + 1))

/-- 2^f as a fixed-point interval, for f = n / 2^t in (0, 1), at precision p. -/
def exp2Fix (p n t : Nat) : Nat × Nat :=
  let x := n * ln2Fix p / 2 ^ t
  let y := expFix p x (p / 3 + 8) (2 ^ p)
  (y - 2 ^ 16, y + 2 ^ 16)

/-- Precisions tried for EXP2 and LOG2. -/
def tryPrec (g : Nat → Option (Nat × Nat)) : List Nat → Option (Nat × Nat)
  | [] => none
  | p :: l => match g p with
    | some r => some r
    | none => tryPrec g l

/-- EXP2. -/
def exp2F (rm : RMode) (v : Fv) : Nat × Nat :=
  match v with
  | .nan s => (f32.nanc, if s then nv else 0)
  | .inf s => if s then (0, 0) else (0x7f800000, 0)
  | .fin s m e =>
    if m = 0 then (0x3f800000, 0)
    else
      let big := ilog2 m 1 + e
      if 9 ≤ big then
        -- beyond every finite result
        if s then f32.round rm false 1 (2 ^ 600) true else f32.round rm false (2 ^ 600) 1 false
      else
        let t := if e < 0 then (-e).toNat else 0
        let x : Int := signed s (if e < 0 then m else m * 2 ^ e.toNat)
        let i := x / ((2 ^ t : Nat) : Int)
        let n := (x % ((2 ^ t : Nat) : Int)).toNat
        if n = 0 then
          if 0 ≤ i then f32.round rm false (2 ^ i.toNat) 1 false else f32.round rm false 1 (2 ^ (-i).toNat) false
        else
          (tryPrec (fun p => let (lo, hi) := exp2Fix (p + t) n t; agree rm false lo hi (p + t) i) [96, 192, 384]).getD
            (f32.round rm false (exp2Fix (768 + t) n t).1 (2 ^ (768 + t)) true)

/-- atanh-series sum z + z³/3 + … for z = a / b with z ≤ 1/3, times 2^p. -/
def atanhFix (p a b : Nat) : Nat :=
  (foldN (p / 3 + 4) (fun i t => t + a ^ (2 * i + 1) * 2 ^ (p + 16) / ((2 * i + 1) * b ^ (2 * i + 1))) 0) / 2 ^ 16

/-- log2 of 1 + a / b in (1, 2), times 2^p, as an interval: 2 atanh(a / (a + 2b)) / ln 2. -/
def log2Fix (p a b : Nat) : Nat × Nat :=
  let y := 2 * atanhFix p a (a + 2 * b) * 2 ^ p / ln2Fix p
  (y - 2 ^ 16, y + 2 ^ 16)

/-- LOG2. -/
def log2F (rm : RMode) (v : Fv) : Nat × Nat :=
  match v with
  | .nan s => (f32.nanc, if s then nv else 0)
  | .inf s => if s then (f32.nanc, nv) else (0x7f800000, 0)
  | .fin s m e =>
    if m = 0 then (0xff800000, dz)
    else if s then (f32.nanc, nv)
    else
      let l := Nat.log2 m
      let i : Int := (l : Int) + e
      let a := m - 2 ^ l
      if a = 0 then
        if i = 0 then (0, 0) else f32.round rm (decide (i < 0)) i.natAbs 1 false
      else
        let g := fun p =>
          let (lo, hi) := log2Fix p a (2 ^ l)
          let one : Int := ((2 ^ p : Nat) : Int)
          let lo' : Int := i * one + lo
          let hi' : Int := i * one + hi
          if 0 ≤ i then agree rm false lo'.toNat hi'.toNat p 0
          else agree rm true hi'.natAbs lo'.natAbs p 0
        (tryPrec g [96, 192, 384]).getD
          (let x : Int := i * ((2 ^ 768 : Nat) : Int) + (log2Fix 768 a (2 ^ l)).1
           f32.round rm (decide (x < 0)) x.natAbs (2 ^ 768) true)

end Sys2Proof.Machine
end

