-- ==== Sys2Proof/Machine/Vector.lean ====
section
/-! DEFINITION. Vector, mask and move instructions (05_ins_compute R121 to R135; 02_numbers R50, R51, R57). -/
namespace Sys2Proof.Machine

/-! ### Shared operations -/

/-- Write a vector register whole when every lane is active, in part otherwise (R122, R182). -/
def Bank.putV (b : Bank) (d e : Nat) (k : BitVec 16) (w : VWord) : Bank :=
  if allLanes e k then b.setVreg d w else b.setVregPart d w

/-- Registers of a list of v register numbers. -/
def vregs (l : List Nat) : List Reg := l.map .v

/-- An element-wise instruction: `f` gives the element and its flags from the elements of va, vb and vd under the
vector rounding mode (R122). -/
def State.vecElem (s : State) (d a b : BitVec 4) (k : BitVec 3) (e : Nat) (rdD : Bool)
    (f : RMode → Nat → Nat → Nat → Nat × Nat) : State :=
  s.issue (vregs ([a.toNat, b.toNat] ++ if rdD then [d.toNat] else [])) [.v d.toNat] fun s =>
    s.next 4 fun bk =>
      let w := etWidth e
      let m := bk.kreg k.toNat
      let x := bk.vreg a.toNat
      let y := bk.vreg b.toNat
      let z := bk.vreg d.toNat
      let r := fun i => f bk.rm (elem x w i) (elem y w i) (elem z w i)
      let fl := foldN (512 / w) (fun i t => if laneOn m (i * w / laneW e) then t ||| (r i).2 else t) 0
      (bk.putV d.toNat e m (maskElems e m z fun i => (r i).1)).orFlags fl

/-- An element operation without flags. -/
def plainE (f : Nat → Nat → Nat) : RMode → Nat → Nat → Nat → Nat × Nat := fun _ x y _ => (f x y, 0)

/-- Integer element-wise instruction (R123). -/
def State.vecInt (s : State) (d a b : BitVec 4) (k e : BitVec 3) (f : Nat → Nat → Nat → Nat) : State :=
  s.vecElem d a b k e.toNat false (plainE (f (etWidth e.toNat)))

/-- Floating-point element-wise instruction (R124). -/
def State.vecFp (s : State) (d a b : BitVec 4) (k e : BitVec 3) (rdD : Bool)
    (f : Fmt → RMode → Nat → Nat → Nat → Nat × Nat) : State :=
  s.vecElem d a b k e.toNat rdD (f (fmtOf e.toNat))

/-- Shifts of R30 at a width. -/
def shlE (w x y : Nat) : Nat := if y % 256 < w then x * 2 ^ (y % 256) % 2 ^ w else 0
def shrE (w x y : Nat) : Nat := if y % 256 < w then x / 2 ^ (y % 256) else 0
def sraE (w x y : Nat) : Nat := ux w (sx w x / 2 ^ (if y % 256 < w then y % 256 else w))

/-- Signed minimum and maximum of two elements. -/
def minS (w x y : Nat) : Nat := if sx w x ≤ sx w y then x else y
def maxS (w x y : Nat) : Nat := if sx w y ≤ sx w x then x else y

/-- High half of the signed product (R32). -/
def mulhE (w x y : Nat) : Nat := ux w (sx w x * sx w y / 2 ^ w)

/-- Difference modulo 2^w. -/
def subE (w x y : Nat) : Nat := (x + 2 ^ w - y % 2 ^ w) % 2 ^ w

/-- A compare: bit i of kd is 1 where lane i is active and the comparison holds, else 0 (R125). -/
def State.vecCmp (s : State) (d : BitVec 3) (a b : BitVec 4) (k : BitVec 3) (e : Nat)
    (f : Nat → Nat → Bool × Nat) : State :=
  s.issue (vregs [a.toNat, b.toNat]) [] fun s =>
    s.next 4 fun bk =>
      let w := etWidth e
      let m := bk.kreg k.toNat
      let x := bk.vreg a.toNat
      let y := bk.vreg b.toNat
      let r := fun i => f (elem x w i) (elem y w i)
      let bits := foldN (512 / w) (fun i t => if laneOn m i && (r i).1 then t + 2 ^ i else t) 0
      let fl := foldN (512 / w) (fun i t => if laneOn m i then t ||| (r i).2 else t) 0
      (bk.setKreg d.toNat (BitVec.ofNat 16 bits)).orFlags fl

/-- Comparison operators of VCMP. -/
inductive CmpOp where
  | eq | ne | lt | le
  deriving DecidableEq, Repr

/-- A comparison of two F32 lanes: a NaN makes all but .ne false; a signalling NaN sets NV, a quiet one only under
.lt and .le (R125). -/
def cmpF32 (op : CmpOp) (x y : Nat) : Bool × Nat :=
  let a := f32.decode x
  let b := f32.decode y
  let anyNan := a.isNan || b.isNan
  let r := match op with
    | .eq => a.eqNum b
    | .ne => !a.eqNum b
    | .lt => a.ltNum b
    | .le => a.ltNum b || a.eqNum b
  let quiet := match op with | .lt | .le => anyNan | _ => false
  (r, if quiet then nv else sigF [a, b])

/-- A signed or equality comparison of integer lanes. -/
def cmpInt (op : CmpOp) (w x y : Nat) : Bool × Nat :=
  (match op with
    | .eq => x == y
    | .ne => x != y
    | .lt => decide (sx w x < sx w y)
    | .le => decide (sx w x ≤ sx w y), 0)

/-- VCMP with a signed, equality or floating-point comparison. -/
def State.vcmp (s : State) (op : CmpOp) (d : BitVec 3) (a b : BitVec 4) (k e : BitVec 3) : State :=
  s.vecCmp d a b k e.toNat (if e = 4#3 then cmpF32 op else cmpInt op (etWidth e.toNat))

/-- Etype of a one-bit field: 0x2 or 0x3. -/
def et1 (e : BitVec 1) : Nat := 2 + e.toNat

/-- Rearrangement of lanes without flags: every lane written (R126, R128, R129). -/
def State.vecAll (s : State) (d : BitVec 4) (rd : List Nat) (e : Nat) (f : Bank → Nat → Nat) : State :=
  s.issue (vregs rd) [.v d.toNat] fun s =>
    s.next 4 fun bk => bk.setVreg d.toNat (ofElems (laneW e) (f bk))

/-- Lanes of the active positions, written in part (R126, R127). -/
def State.vecSome (s : State) (d : BitVec 4) (rd : List Nat) (k : BitVec 3) (e : Nat) (f : Bank → Nat → Nat) : State :=
  s.issue (vregs rd) [.v d.toNat] fun s =>
    s.next 4 fun bk =>
      let m := bk.kreg k.toNat
      let w := laneW e
      bk.putV d.toNat e m (ofElems w fun i => if laneOn m i then f bk i else elem (bk.vreg d.toNat) w i)

/-- Active lanes below i. -/
def lanesBelow (m : BitVec 16) (i : Nat) : Nat := foldN i (fun j t => if laneOn m j then t + 1 else t) 0

/-- The active lanes of a register in ascending order. -/
def activeElems (m : BitVec 16) (w : Nat) (v : VWord) : List Nat :=
  ((tabulate (512 / w) fun i => (laneOn m i, elem v w i)).filter (·.1)).map (·.2)

/-! ### Reductions and scans, R57, R130 to R132 -/

/-- Operators of VRED, VSCAN and the lane nodes. -/
inductive RedOp where
  | add | min | max | minu | maxu | and | or | xor | fadd | fmin | fmax
  deriving DecidableEq, Repr

/-- One combination, with its flags, at width `w` under a rounding mode. -/
def redOp (op : RedOp) (w : Nat) (rm : RMode) (x y : Nat) : Nat × Nat :=
  match op with
  | .add => ((x + y) % 2 ^ w, 0)
  | .min => (minS w x y, 0)
  | .max => (maxS w x y, 0)
  | .minu => (Nat.min x y, 0)
  | .maxu => (Nat.max x y, 0)
  | .and => (x &&& y, 0)
  | .or => (x ||| y, 0)
  | .xor => (x ^^^ y, 0)
  | .fadd => f32.addC rm x y
  | .fmin => f32.minmax false x y
  | .fmax => f32.minmax true x y

/-- Two inputs of the tree: an EMPTY one passes the other unchanged (R57). -/
def redPair (op : RedOp) (w : Nat) (rm : RMode) (x y : Option Nat × Nat) : Option Nat × Nat :=
  match x.1, y.1 with
  | none, none => (none, x.2 ||| y.2)
  | some a, none => (some a, x.2 ||| y.2)
  | none, some b => (some b, x.2 ||| y.2)
  | some a, some b => let (r, f) := redOp op w rm a b; (some r, f ||| x.2 ||| y.2)

/-- One level of the pairwise tree. -/
def redLevel (op : RedOp) (w : Nat) (rm : RMode) : List (Option Nat × Nat) → List (Option Nat × Nat)
  | x :: y :: l => redPair op w rm x y :: redLevel op w rm l
  | l => l

/-- The pairwise tree over 16 or 8 lanes (R57). -/
def redTree (op : RedOp) (w : Nat) (rm : RMode) (l : List (Option Nat)) : Option Nat × Nat :=
  let lv := redLevel op w rm
  (lv (lv (lv (lv (l.map fun x => (x, 0)))))).headD (none, 0)

/-- Result of VRED with no active lane (R131). -/
def redNone (op : RedOp) (w : Nat) : Nat :=
  match op with
  | .and | .minu => 2 ^ w - 1
  | .min => 2 ^ (w - 1) - 1
  | .max => 2 ^ (w - 1)
  | .fmin | .fmax => f32.nanc
  | _ => 0

/-- VRED: the tree over the active lanes into lane 0, zero elsewhere (R131). -/
def State.vred (s : State) (op : RedOp) (d a : BitVec 4) (k : BitVec 3) (e : Nat) : State :=
  s.issue (vregs [a.toNat]) [.v d.toNat] fun s =>
    s.next 4 fun bk =>
      let w := laneW e
      let m := bk.kreg k.toNat
      let x := bk.vreg a.toNat
      let (r, f) := redTree op w bk.rm (tabulate (512 / w) fun i => if laneOn m i then some (elem x w i) else none)
      (bk.setVreg d.toNat (BitVec.ofNat 512 (r.getD (redNone op w)))).orFlags f

/-- The scan of R132: results of the active lanes, in order, with flags. -/
def scanList (op : RedOp) (w : Nat) (rm : RMode) : Option Nat → List (Option Nat) → List (Option Nat) × Nat
  | _, [] => ([], 0)
  | acc, none :: l => let (r, f) := scanList op w rm acc l; (none :: r, f)
  | none, some x :: l =>
    let f0 := match op with | .fmin | .fmax => sigF [f32.decode x] | _ => 0
    let (r, f) := scanList op w rm (some x) l
    (some x :: r, f ||| f0)
  | some a, some x :: l =>
    let (y, f1) := redOp op w rm a x
    let (r, f) := scanList op w rm (some y) l
    (some y :: r, f ||| f1)

/-- VSCAN (R132). -/
def State.vscan (s : State) (op : RedOp) (d a : BitVec 4) (k : BitVec 3) (e : Nat) : State :=
  s.issue (vregs [a.toNat]) [.v d.toNat] fun s =>
    s.next 4 fun bk =>
      let w := laneW e
      let m := bk.kreg k.toNat
      let x := bk.vreg a.toNat
      let z := bk.vreg d.toNat
      let (r, f) := scanList op w bk.rm none
        (tabulate (512 / w) fun i => if laneOn m i then some (elem x w i) else none)
      (bk.putV d.toNat e m (ofElems w fun i => ((r.getD i none).getD (elem z w i)))).orFlags f

/-! ### Conversion, R133 -/

/-- VCVT of type `src` to type `dst`. -/
def State.vcvtOp (s : State) (d a : BitVec 4) (src dst : Nat) (k : BitVec 3) (rm : RMode) : State :=
  s.issue (vregs [a.toNat]) [.v d.toNat] fun s =>
    s.next 4 fun bk =>
      let sw := typeWidth src
      let dw := typeWidth dst
      let n := 512 / Nat.max sw dw
      let m := bk.kreg k.toNat
      let lw := laneW dst
      let x := bk.vreg a.toNat
      let z := bk.vreg d.toNat
      let r := fun i => convertT src dst rm false (elem x sw i)
      let v := ofElems dw fun i =>
        if laneOn m (i * dw / lw) then (if i < n then (r i).1 else 0) else elem z dw i
      let fl := foldN n (fun i t => if laneOn m (i * dw / lw) then t ||| (r i).2 else t) 0
      (bk.putV d.toNat dst m v).orFlags fl

/-- A mask instruction (R134). -/
def State.kop (s : State) (d : BitVec 3) (f : Bank → BitVec 16) : State :=
  s.issue [] [] fun s => s.next 4 fun bk => bk.setKreg d.toNat (f bk)

/-! ### Instructions -/

/-- VADD.type vd, va, vb, k (R123). -/
def execVadd (d : BitVec 4) (a : BitVec 4) (b : BitVec 4) (k : BitVec 3) (e : BitVec 3) (s : State) : Host.Outcome State Fault Refusal :=
  .next (s.vecInt d a b k e (fun w x y => (x + y) % 2 ^ w))

/-- VSUB.type vd, va, vb, k (R123). -/
def execVsub (d : BitVec 4) (a : BitVec 4) (b : BitVec 4) (k : BitVec 3) (e : BitVec 3) (s : State) : Host.Outcome State Fault Refusal :=
  .next (s.vecInt d a b k e subE)

/-- VMUL.type vd, va, vb, k (R123). -/
def execVmul (d : BitVec 4) (a : BitVec 4) (b : BitVec 4) (k : BitVec 3) (e : BitVec 3) (s : State) : Host.Outcome State Fault Refusal :=
  .next (s.vecInt d a b k e (fun w x y => x * y % 2 ^ w))

/-- VMULH.type vd, va, vb, k (R123). -/
def execVmulh (d : BitVec 4) (a : BitVec 4) (b : BitVec 4) (k : BitVec 3) (e : BitVec 3) (s : State) : Host.Outcome State Fault Refusal :=
  .next (s.vecInt d a b k e mulhE)

/-- VMIN.type vd, va, vb, k (R123). -/
def execVmin (d : BitVec 4) (a : BitVec 4) (b : BitVec 4) (k : BitVec 3) (e : BitVec 3) (s : State) : Host.Outcome State Fault Refusal :=
  .next (s.vecInt d a b k e minS)

/-- VMAX.type vd, va, vb, k (R123). -/
def execVmax (d : BitVec 4) (a : BitVec 4) (b : BitVec 4) (k : BitVec 3) (e : BitVec 3) (s : State) : Host.Outcome State Fault Refusal :=
  .next (s.vecInt d a b k e maxS)

/-- VAND.type vd, va, vb, k (R123). -/
def execVand (d : BitVec 4) (a : BitVec 4) (b : BitVec 4) (k : BitVec 3) (e : BitVec 3) (s : State) : Host.Outcome State Fault Refusal :=
  .next (s.vecInt d a b k e (fun _ x y => x &&& y))

/-- VOR.type vd, va, vb, k (R123). -/
def execVor (d : BitVec 4) (a : BitVec 4) (b : BitVec 4) (k : BitVec 3) (e : BitVec 3) (s : State) : Host.Outcome State Fault Refusal :=
  .next (s.vecInt d a b k e (fun _ x y => x ||| y))

/-- VXOR.type vd, va, vb, k (R123). -/
def execVxor (d : BitVec 4) (a : BitVec 4) (b : BitVec 4) (k : BitVec 3) (e : BitVec 3) (s : State) : Host.Outcome State Fault Refusal :=
  .next (s.vecInt d a b k e (fun _ x y => x ^^^ y))

/-- VSHL.type vd, va, vb, k (R123). -/
def execVshl (d : BitVec 4) (a : BitVec 4) (b : BitVec 4) (k : BitVec 3) (e : BitVec 3) (s : State) : Host.Outcome State Fault Refusal :=
  .next (s.vecInt d a b k e shlE)

/-- VSHR.type vd, va, vb, k (R123). -/
def execVshr (d : BitVec 4) (a : BitVec 4) (b : BitVec 4) (k : BitVec 3) (e : BitVec 3) (s : State) : Host.Outcome State Fault Refusal :=
  .next (s.vecInt d a b k e shrE)

/-- VSRA.type vd, va, vb, k (R123). -/
def execVsra (d : BitVec 4) (a : BitVec 4) (b : BitVec 4) (k : BitVec 3) (e : BitVec 3) (s : State) : Host.Outcome State Fault Refusal :=
  .next (s.vecInt d a b k e sraE)

/-- VCMP.type.eq kd, va, vb, k (R125). -/
def execVcmpEq (d : BitVec 3) (a : BitVec 4) (b : BitVec 4) (k : BitVec 3) (e : BitVec 3) (s : State) : Host.Outcome State Fault Refusal :=
  .next (s.vcmp .eq d a b k e)

/-- VCMP.type.ne kd, va, vb, k (R125). -/
def execVcmpNe (d : BitVec 3) (a : BitVec 4) (b : BitVec 4) (k : BitVec 3) (e : BitVec 3) (s : State) : Host.Outcome State Fault Refusal :=
  .next (s.vcmp .ne d a b k e)

/-- VCMP.type.lt kd, va, vb, k (R125). -/
def execVcmpLt (d : BitVec 3) (a : BitVec 4) (b : BitVec 4) (k : BitVec 3) (e : BitVec 3) (s : State) : Host.Outcome State Fault Refusal :=
  .next (s.vcmp .lt d a b k e)

/-- VCMP.type.le kd, va, vb, k (R125). -/
def execVcmpLe (d : BitVec 3) (a : BitVec 4) (b : BitVec 4) (k : BitVec 3) (e : BitVec 3) (s : State) : Host.Outcome State Fault Refusal :=
  .next (s.vcmp .le d a b k e)

/-- VCMP.type.ltu kd, va, vb, k (R125). -/
def execVcmpLtu (d : BitVec 3) (a : BitVec 4) (b : BitVec 4) (k : BitVec 3) (e : BitVec 1) (s : State) : Host.Outcome State Fault Refusal :=
  .next (s.vecCmp d a b k (et1 e) fun x y => (decide (x < y), 0))

/-- VCMP.type.leu kd, va, vb, k (R125). -/
def execVcmpLeu (d : BitVec 3) (a : BitVec 4) (b : BitVec 4) (k : BitVec 3) (e : BitVec 1) (s : State) : Host.Outcome State Fault Refusal :=
  .next (s.vecCmp d a b k (et1 e) fun x y => (decide (x ≤ y), 0))

/-- VSEL.type vd, va, vb, k (R126). -/
def execVsel (d : BitVec 4) (a : BitVec 4) (b : BitVec 4) (k : BitVec 3) (e : BitVec 3) (s : State) : Host.Outcome State Fault Refusal :=
  .next (s.vecAll d [a.toNat, b.toNat] e.toNat fun bk i =>
    elem (if laneOn (bk.kreg k.toNat) i then bk.vreg a.toNat else bk.vreg b.toNat) (laneW e.toNat) i)

/-- VMOVV.type vd, va, k (R126). -/
def execVmovv (d : BitVec 4) (a : BitVec 4) (k : BitVec 3) (e : BitVec 3) (s : State) : Host.Outcome State Fault Refusal :=
  .next (s.vecSome d [a.toNat] k e.toNat fun bk i => elem (bk.vreg a.toNat) (laneW e.toNat) i)

/-- VIOTA.type vd, k (R127). -/
def execViota (d : BitVec 4) (k : BitVec 3) (e : BitVec 1) (s : State) : Host.Outcome State Fault Refusal :=
  .next (s.vecSome d [] k (et1 e) fun bk i => lanesBelow (bk.kreg k.toNat) i)

/-- VPERM.type vd, va, vb (R128). -/
def execVperm (d : BitVec 4) (a : BitVec 4) (b : BitVec 4) (e : BitVec 3) (s : State) : Host.Outcome State Fault Refusal :=
  .next (s.vecAll d [a.toNat, b.toNat] e.toNat fun bk i =>
    let w := laneW e.toNat
    let j := elem (bk.vreg b.toNat) w i
    if j < 512 / w then elem (bk.vreg a.toNat) w j else 0)

/-- VCOMPRESS.type vd, va, k (R129). -/
def execVcompress (d : BitVec 4) (a : BitVec 4) (k : BitVec 3) (e : BitVec 3) (s : State) : Host.Outcome State Fault Refusal :=
  .next (s.vecAll d [a.toNat] e.toNat fun bk i =>
    (activeElems (bk.kreg k.toNat) (laneW e.toNat) (bk.vreg a.toNat)).getD i 0)

/-- VRED.type.add vd, va, k (R131). -/
def execVredAdd (d : BitVec 4) (a : BitVec 4) (k : BitVec 3) (e : BitVec 1) (s : State) : Host.Outcome State Fault Refusal :=
  .next (s.vred .add d a k (et1 e))

/-- VRED.type.min vd, va, k (R131). -/
def execVredMin (d : BitVec 4) (a : BitVec 4) (k : BitVec 3) (e : BitVec 1) (s : State) : Host.Outcome State Fault Refusal :=
  .next (s.vred .min d a k (et1 e))

/-- VRED.type.max vd, va, k (R131). -/
def execVredMax (d : BitVec 4) (a : BitVec 4) (k : BitVec 3) (e : BitVec 1) (s : State) : Host.Outcome State Fault Refusal :=
  .next (s.vred .max d a k (et1 e))

/-- VRED.type.minu vd, va, k (R131). -/
def execVredMinu (d : BitVec 4) (a : BitVec 4) (k : BitVec 3) (e : BitVec 1) (s : State) : Host.Outcome State Fault Refusal :=
  .next (s.vred .minu d a k (et1 e))

/-- VRED.type.maxu vd, va, k (R131). -/
def execVredMaxu (d : BitVec 4) (a : BitVec 4) (k : BitVec 3) (e : BitVec 1) (s : State) : Host.Outcome State Fault Refusal :=
  .next (s.vred .maxu d a k (et1 e))

/-- VRED.type.and vd, va, k (R131). -/
def execVredAnd (d : BitVec 4) (a : BitVec 4) (k : BitVec 3) (e : BitVec 1) (s : State) : Host.Outcome State Fault Refusal :=
  .next (s.vred .and d a k (et1 e))

/-- VRED.type.or vd, va, k (R131). -/
def execVredOr (d : BitVec 4) (a : BitVec 4) (k : BitVec 3) (e : BitVec 1) (s : State) : Host.Outcome State Fault Refusal :=
  .next (s.vred .or d a k (et1 e))

/-- VRED.type.xor vd, va, k (R131). -/
def execVredXor (d : BitVec 4) (a : BitVec 4) (k : BitVec 3) (e : BitVec 1) (s : State) : Host.Outcome State Fault Refusal :=
  .next (s.vred .xor d a k (et1 e))

/-- VRED.type.fadd vd, va, k (R131). -/
def execVredFadd (d : BitVec 4) (a : BitVec 4) (k : BitVec 3) (s : State) : Host.Outcome State Fault Refusal :=
  .next (s.vred .fadd d a k 4)

/-- VRED.type.fmin vd, va, k (R131). -/
def execVredFmin (d : BitVec 4) (a : BitVec 4) (k : BitVec 3) (s : State) : Host.Outcome State Fault Refusal :=
  .next (s.vred .fmin d a k 4)

/-- VRED.type.fmax vd, va, k (R131). -/
def execVredFmax (d : BitVec 4) (a : BitVec 4) (k : BitVec 3) (s : State) : Host.Outcome State Fault Refusal :=
  .next (s.vred .fmax d a k 4)

/-- VSCAN.type.add vd, va, k (R132). -/
def execVscanAdd (d : BitVec 4) (a : BitVec 4) (k : BitVec 3) (e : BitVec 1) (s : State) : Host.Outcome State Fault Refusal :=
  .next (s.vscan .add d a k (et1 e))

/-- VSCAN.type.min vd, va, k (R132). -/
def execVscanMin (d : BitVec 4) (a : BitVec 4) (k : BitVec 3) (e : BitVec 1) (s : State) : Host.Outcome State Fault Refusal :=
  .next (s.vscan .min d a k (et1 e))

/-- VSCAN.type.max vd, va, k (R132). -/
def execVscanMax (d : BitVec 4) (a : BitVec 4) (k : BitVec 3) (e : BitVec 1) (s : State) : Host.Outcome State Fault Refusal :=
  .next (s.vscan .max d a k (et1 e))

/-- VSCAN.type.minu vd, va, k (R132). -/
def execVscanMinu (d : BitVec 4) (a : BitVec 4) (k : BitVec 3) (e : BitVec 1) (s : State) : Host.Outcome State Fault Refusal :=
  .next (s.vscan .minu d a k (et1 e))

/-- VSCAN.type.maxu vd, va, k (R132). -/
def execVscanMaxu (d : BitVec 4) (a : BitVec 4) (k : BitVec 3) (e : BitVec 1) (s : State) : Host.Outcome State Fault Refusal :=
  .next (s.vscan .maxu d a k (et1 e))

/-- VSCAN.type.and vd, va, k (R132). -/
def execVscanAnd (d : BitVec 4) (a : BitVec 4) (k : BitVec 3) (e : BitVec 1) (s : State) : Host.Outcome State Fault Refusal :=
  .next (s.vscan .and d a k (et1 e))

/-- VSCAN.type.or vd, va, k (R132). -/
def execVscanOr (d : BitVec 4) (a : BitVec 4) (k : BitVec 3) (e : BitVec 1) (s : State) : Host.Outcome State Fault Refusal :=
  .next (s.vscan .or d a k (et1 e))

/-- VSCAN.type.xor vd, va, k (R132). -/
def execVscanXor (d : BitVec 4) (a : BitVec 4) (k : BitVec 3) (e : BitVec 1) (s : State) : Host.Outcome State Fault Refusal :=
  .next (s.vscan .xor d a k (et1 e))

/-- VSCAN.type.fadd vd, va, k (R132). -/
def execVscanFadd (d : BitVec 4) (a : BitVec 4) (k : BitVec 3) (s : State) : Host.Outcome State Fault Refusal :=
  .next (s.vscan .fadd d a k 4)

/-- VSCAN.type.fmin vd, va, k (R132). -/
def execVscanFmin (d : BitVec 4) (a : BitVec 4) (k : BitVec 3) (s : State) : Host.Outcome State Fault Refusal :=
  .next (s.vscan .fmin d a k 4)

/-- VSCAN.type.fmax vd, va, k (R132). -/
def execVscanFmax (d : BitVec 4) (a : BitVec 4) (k : BitVec 3) (s : State) : Host.Outcome State Fault Refusal :=
  .next (s.vscan .fmax d a k 4)

/-- VFADD.type vd, va, vb, k (R124). -/
def execVfadd (d : BitVec 4) (a : BitVec 4) (b : BitVec 4) (k : BitVec 3) (e : BitVec 3) (s : State) : Host.Outcome State Fault Refusal :=
  .next (s.vecFp d a b k e false fun f rm x y _ => f.addC rm x y)

/-- VFMUL.type vd, va, vb, k (R124). -/
def execVfmul (d : BitVec 4) (a : BitVec 4) (b : BitVec 4) (k : BitVec 3) (e : BitVec 3) (s : State) : Host.Outcome State Fault Refusal :=
  .next (s.vecFp d a b k e false fun f rm x y _ => f.mulC rm x y)

/-- VFMA.type vd, va, vb, k: vd is the addend (R124). -/
def execVfma (d : BitVec 4) (a : BitVec 4) (b : BitVec 4) (k : BitVec 3) (e : BitVec 3) (s : State) : Host.Outcome State Fault Refusal :=
  .next (s.vecFp d a b k e true fun f rm x y z => f.fmaC rm x y z)

/-- VFMIN.type vd, va, vb, k (R124). -/
def execVfmin (d : BitVec 4) (a : BitVec 4) (b : BitVec 4) (k : BitVec 3) (e : BitVec 3) (s : State) : Host.Outcome State Fault Refusal :=
  .next (s.vecFp d a b k e false fun f _ x y _ => f.minmax false x y)

/-- VFMAX.type vd, va, vb, k (R124). -/
def execVfmax (d : BitVec 4) (a : BitVec 4) (b : BitVec 4) (k : BitVec 3) (e : BitVec 3) (s : State) : Host.Outcome State Fault Refusal :=
  .next (s.vecFp d a b k e false fun f _ x y _ => f.minmax true x y)

/-- VCVT.rm.dst.src vd, va, k (R133): `s` is the source type, `t` the destination type. -/
def execVcvt (d : BitVec 4) (a : BitVec 4) (s : BitVec 4) (k : BitVec 3) (r : BitVec 3) (t : BitVec 4) (st : State) : Host.Outcome State Fault Refusal :=
  .next (st.vcvtOp d a s.toNat t.toNat k (rmOf r.toNat))

/-- KAND kd, ka, kb (R134). -/
def execKand (d : BitVec 3) (a : BitVec 3) (b : BitVec 3) (s : State) : Host.Outcome State Fault Refusal :=
  .next (s.kop d fun bk => bk.kreg a.toNat &&& bk.kreg b.toNat)

/-- KOR kd, ka, kb (R134). -/
def execKor (d : BitVec 3) (a : BitVec 3) (b : BitVec 3) (s : State) : Host.Outcome State Fault Refusal :=
  .next (s.kop d fun bk => bk.kreg a.toNat ||| bk.kreg b.toNat)

/-- KNOT kd, ka (R134). -/
def execKnot (d : BitVec 3) (a : BitVec 3) (s : State) : Host.Outcome State Fault Refusal :=
  .next (s.kop d fun bk => ~~~(bk.kreg a.toNat))

/-- KMOV kd, ka (R134). -/
def execKmov (d : BitVec 3) (a : BitVec 3) (s : State) : Host.Outcome State Fault Refusal :=
  .next (s.kop d fun bk => bk.kreg a.toNat)

/-- VBCAST.w or .d vd, ga (R135). -/
def execVbcast (d : BitVec 4) (a : BitVec 5) (w : BitVec 1) (s : State) : Host.Outcome State Fault Refusal :=
  .next (s.issue [.g a.toNat] [.v d.toNat] fun s => s.next 4 fun bk =>
    bk.setVreg d.toNat (ofElems (if w = 0 then 32 else 64) fun _ => (bk.gpr a.toNat).toNat))

/-- VMOVG.w or .d gd, va, lane (R135). -/
def execVmovg (d : BitVec 5) (a : BitVec 4) (l : BitVec 4) (w : BitVec 1) (s : State) : Host.Outcome State Fault Refusal :=
  .next (s.issue [.v a.toNat] [.g d.toNat] fun s => s.next 4 fun bk =>
    bk.setGpr d.toNat (BitVec.ofNat 64 (elem (bk.vreg a.toNat) (if w = 0 then 32 else 64) l.toNat)))

/-- KMOV kd, ga (R135). -/
def execKmovKg (d : BitVec 3) (a : BitVec 5) (s : State) : Host.Outcome State Fault Refusal :=
  .next (s.issue [.g a.toNat] [] fun s => s.next 4 fun bk => bk.setKreg d.toNat ((bk.gpr a.toNat).setWidth 16))

/-- KMOV gd, ka (R135). -/
def execKmovGk (d : BitVec 5) (a : BitVec 3) (s : State) : Host.Outcome State Fault Refusal :=
  .next (s.writeG 4 [] d fun bk => zextW (bk.kreg a.toNat))

end Sys2Proof.Machine
end

