-- ==== Sys2Proof/Machine/Node.lean ====
section
/-! DEFINITION. The nodes of a fabric page as functions of their configuration, state and input beats (13_fabric R317 to
R344; 03_encoding R77 to R79; 02_numbers R28, R39, R41, R52, R57; 12_queues R282, R284). -/
namespace Sys2Proof.Machine

/-! ### Lanes -/

def Beat.get (b : Beat) (i : Nat) : Lane := { tag := b.tag i, pk := b.pk i, val := b.lane i }

/-- A beat from its lanes. -/
def ofLanes (f : Nat → Lane) : Beat :=
  (List.range 16).foldl (fun b i => let l := f i; if l = {} then b else b.put i l.tag l.pk l.val) emptyBeat

def Lane.data (l : Lane) : Bool := l.tag == 0
def Lane.empty (l : Lane) : Bool := l.tag == 1
def Lane.scale (l : Lane) : Bool := l.tag == 2
def Lane.mark (l : Lane) : Bool := l.tag == 3
/-- Marker code and argument (R281, R283). -/
def Lane.code (l : Lane) : Nat := l.val / 2 ^ 24
def Lane.arg (l : Lane) : Nat := l.val % 2 ^ 24

/-- A MARK lane. -/
def markLane (code arg : Nat) : Lane := { tag := 3, pk := 2, val := markWord code arg }

/-- The MARK lane of a beat with its position; there is at most one (R321). -/
def Beat.marker (b : Beat) : Option (Nat × Lane) :=
  ((List.range 16).find? fun i => (b.get i).mark).map fun i => (i, b.get i)

/-- The beat carries a marker of a code. -/
def Beat.has (b : Beat) (code : Nat) : Bool := match b.marker with
  | some (_, m) => m.code == code
  | none => false

/-- The beat with its MARK lane taken as EMPTY. -/
def Beat.noMark (b : Beat) : Beat := ofLanes fun i => if (b.get i).mark then {} else b.get i

/-- A beat with one lane. -/
def oneLane (i : Nat) (l : Lane) : Beat := ofLanes fun j => if j = i then l else {}

/-- Some lane is not EMPTY. -/
def Beat.any (b : Beat) : Bool := (List.range 16).any fun i => !(b.get i).empty

/-- Consecutive lanes from lane 0. -/
def packLanes (l : List Lane) : Beat := ofLanes fun i => l.getD i {}

/-! ### Configuration words, R77 and R78 -/

def cOpc (w : Nat) : Nat := fld w 63 56
def cEt (w : Nat) : Nat := fld w 55 52
def cRmc (w : Nat) : Nat := fld w 51 49
def cRm (w : Nat) : RMode := rmOf (cRmc w)
def cEpol (w : Nat) : Nat := fld w 48 47
def cSrc (w i : Nat) : Nat := fld w (46 - 3 * i) (44 - 3 * i)
def cRoute (w : Nat) : Nat := fld w 37 32
def cPar (w : Nat) : Nat := fld w 31 0

/-! ### Types at a node, R320 -/

/-- Packing code of computed output lanes of a type. -/
def pkOf (t : Nat) : Nat :=
  match t with
  | 0 | 0xc => 9 | 1 | 0xd => 5 | 2 => 1 | 0xe => 2 | 4 => 0 | 5 => 4 | 6 => 3 | 8 => 6 | 9 => 7 | 0xa => 8 | _ => 0xa

/-- Raw container of a width. -/
def rawOf (w : Nat) : Nat := if w = 32 then 2 else if w = 16 then 5 else 9

/-- A DATA lane of this packing can be read as the type. -/
def okPk (t pk : Nat) : Bool :=
  pk == pkOf t || (t != 0xb && pk == rawOf (typeWidth t)) || ((t == 2 || t == 0xe) && pk == 1)

/-- Sub-elements of width `w` of a lane. -/
def subsOf (w v : Nat) : List Nat := (List.range (32 / w)).map fun j => v / 2 ^ (w * j) % 2 ^ w

/-- A lane value from sub-elements of width `w`. -/
def joinSubs (w : Nat) (l : List Nat) : Nat := l.foldr (fun x a => x % 2 ^ w + a * 2 ^ w) 0

/-- Results of sub-elements with their flags. -/
def mapSubs (w : Nat) (l : List (Nat × Nat)) : Nat × Nat := (joinSubs w (l.map (·.1)), l.foldl (fun f x => f ||| x.2) 0)

/-! ### Lane-wise operations, R329 to R332, R335 -/

/-- A comparison of floating-point codes by predicate: 0 EQ, 1 NE, 2 LT, 3 LE, 4 GT, 5 GE (R331). -/
def fcmp (f : Fmt) (p x y : Nat) : Bool × Nat :=
  let a := f.decode x
  let b := f.decode y
  let un := a.isNan || b.isNan
  let r := match p with
    | 0 => a.eqNum b
    | 1 => !a.eqNum b
    | 2 => a.ltNum b
    | 3 => a.ltNum b || a.eqNum b
    | 4 => b.ltNum a
    | _ => b.ltNum a || a.eqNum b
  (if p = 1 then r else r && !un, if 2 ≤ p then (if un then nv else 0) else sigF [a, b])

/-- A comparison of integers. -/
def icmp (w : Nat) (sgn : Bool) (p x y : Nat) : Bool :=
  let lt (u v : Nat) : Bool := if sgn then sx w u < sx w v else u < v
  match p with
  | 0 => x == y
  | 1 => x != y
  | 2 => lt x y
  | 3 => !lt y x
  | 4 => lt y x
  | _ => !lt x y

/-- One sub-element of a lane-wise node: result and flags. IMULH of a U type is unsigned, as R330 says and R32 does not (assumption 78). -/
def subOp (w a b c : Nat) : Nat × Nat :=
  let et := cEt w
  let rm := cRm w
  let f := fmtOf et
  let n := typeWidth et
  let sgn := match intType et with | some (_, s) => s | none => false
  let ones (r : Bool) : Nat := if r then 2 ^ n - 1 else 0
  match cOpc w with
  | 0x01 => f.addC rm a b
  | 0x02 => f.add rm (f.decode a) (f.decode b).negate
  | 0x03 => f.mulC rm a b
  | 0x04 => f.fmaC rm a b c
  | 0x05 => f.fma rm (f.decode a) (f.decode b) (f.decode c).negate
  | 0x06 => f.fma rm (f.decode a).negate (f.decode b) (f.decode c)
  | 0x07 => f.minmax false a b
  | 0x08 => f.minmax true a b
  | 0x09 => (a % 2 ^ (n - 1), 0)
  | 0x0a => (a ^^^ 2 ^ (n - 1), 0)
  | 0x0b => let r := fcmp f (cRmc w) a b; (ones r.1, r.2)
  | 0x0c => (if a = 0 then c else b, 0)
  | 0x10 => ((a + b) % 2 ^ n, 0)
  | 0x11 => (subE n a b, 0)
  | 0x12 => (a * b % 2 ^ n, 0)
  | 0x13 => (if sgn then mulhE n a b else a * b / 2 ^ n, 0)
  | 0x14 => (if sgn then minS n a b else Nat.min a b, 0)
  | 0x15 => (if sgn then maxS n a b else Nat.max a b, 0)
  | 0x16 => (if sgn && icmp n true 2 a 0 then subE n 0 a else a, 0)
  | 0x17 => (a &&& b, 0)
  | 0x18 => (a ||| b, 0)
  | 0x19 => (a ^^^ b, 0)
  | 0x1a => (shlE n a b, 0)
  | 0x1b => (shrE n a b, 0)
  | 0x1c => (sraE n a b, 0)
  | 0x1d => (ones (icmp n sgn (cRmc w) a b), 0)
  | 0x28 => exp2F rm (f32.decode a)
  | 0x29 => log2F rm (f32.decode a)
  | 0x2a => rcpF rm (f32.decode a)
  | 0x2b => rsqrtF rm (f32.decode a)
  | 0x2c => sqrtF rm (f32.decode a)
  | _ => (a, 0)

/-- a × 2^k, k clamped to −300..300 (R332). -/
def scaleSub (w a : Nat) (k : Int) : Nat × Nat :=
  let f := fmtOf (cEt w)
  match f.decode a with
  | .fin s m e => f.enc (cRm w) (.fin s m (e + (if k < -300 then -300 else if 300 < k then 300 else k)))
  | v => f.enc (cRm w) v

/-- A lane of PACK in PAIR mode converted to ETYPE: read as F32 or I32 by its packing, W32 by the kind of ETYPE (R334). -/
def pairSub (w : Nat) (l : Lane) : Except Nat (Nat × Nat) :=
  let et := cEt w
  let src := if l.pk = 0 then 4 else if l.pk = 1 then 2 else if (intType et).isSome then 2 else 4
  if 2 < l.pk then .error 3 else .ok (convertT src et (cRm w) false l.val)

/-- Packing code of an output lane of a lane-wise node: the raw container for comparisons, else the type's. -/
def outPk (w : Nat) : Nat :=
  let et := cEt w
  if cOpc w = 0x0b ∨ cOpc w = 0x1d then rawOf (typeWidth et) else pkOf et

/-- A DATA lane of this packing can be read as the type of input `n` of a lane-wise node (R320). -/
def inOk (w n pk : Nat) : Bool :=
  match cOpc w with
  | 0x41 => true
  | 0x21 => pk ≤ 2
  | 0x23 => if n = 0 then okPk (cEt w) pk else pk == 1 || pk == 2
  | 0x3b => n != 0 || okPk (cEt w) pk
  | 0x0c => n == 0 || okPk (cEt w) pk
  | _ => okPk (cEt w) pk

/-- Every DATA lane is of its input's type. -/
def lanesOk (w : Nat) (l : List Lane) : Bool := ((List.range l.length).zip l).all fun x => !x.2.data || inOk w x.1 x.2.pk

/-- The operation of a lane-wise node on DATA lanes: the output lane with its flags, or a graph fault cause. -/
def laneOp (w : Nat) (l : List Lane) : Except Nat (Lane × Nat) :=
  let et := cEt w
  let n := typeWidth et
  let a := l.getD 0 {}
  let b := l.getD 1 {}
  let c := l.getD 2 {}
  if !lanesOk w l then .error 3
  else match cOpc w with
  | 0x41 => .ok (a, 0)
  | 0x21 =>
    match pairSub w a, pairSub w b with
    | .ok x, .ok y => .ok ({ tag := 0, pk := pkOf et, val := x.1 + y.1 * 2 ^ 16 }, x.2 ||| y.2)
    | _, _ => .error 3
  | 0x23 =>
    let r := mapSubs n ((subsOf n a.val).map fun x => scaleSub w x (sx 32 b.val))
    .ok ({ tag := 0, pk := pkOf et, val := r.1 }, r.2)
  | 0x3b => .ok (if b.val = 0 then {} else a, 0)
  | 0x0c =>
    let as := subsOf n a.val
    let xs := as.zip ((subsOf n b.val).zip (subsOf n c.val))
    .ok ({ tag := 0, pk := if as.all (· != 0) then b.pk else if as.all (· == 0) then c.pk else pkOf et,
           val := joinSubs n (xs.map fun x => if x.1 = 0 then x.2.2 else x.2.1) }, 0)
  | _ =>
    let xs := (subsOf n a.val).zip ((subsOf n b.val).zip (subsOf n c.val))
    let r := mapSubs n (xs.map fun x => subOp w x.1 x.2.1 x.2.2)
    .ok ({ tag := 0, pk := outPk w, val := r.1 }, r.2)

/-! ### The table of lane-wise nodes, R322 to R324 -/

/-- An input of a lane-wise firing: CONST counts as DATA in every lane and matches any MARK or SCALE lane. -/
structure LaneIn where
  const : Bool
  lane : Lane
  deriving DecidableEq, Repr

/-- What a lane position gives: a lane with its flags, and the operands of the operation that computed it. -/
inductive LaneRes where
  | lane (l : Lane) (flags : Nat) (on : List Lane := [])
  | fault (cause : Nat)
  | length
  deriving DecidableEq, Repr

/-- PARAM as a lane that stands in for input `n`: as one of ETYPE (R318, R323), but as a shift count for input B of SCALE
(R332; assumption 28). -/
def paramLane (w n : Nat) : Lane := { tag := 0, pk := if cOpc w = 0x23 ∧ n = 1 then 1 else pkOf (cEt w), val := cPar w }

/-- The first row of R322 that applies, with the empty policy of R323; a DATA lane that faces an EMPTY one is held to its input's type
as any other (R320). -/
def laneRow (w : Nat) (l : List LaneIn) : LaneRes :=
  let st := (l.filter fun x => !x.const).map (·.lane)
  let op (v : List Lane) : LaneRes := match laneOp w v with
    | .ok (x, f) => .lane x f v
    | .error c => .fault c
  match st.find? fun x => x.mark && x.code == 5 with
  | some x => .lane x 0
  | none =>
    if st.any (fun x => x.mark && x.code == 1) && st.any (fun x => x.data || x.scale) then .length
    else match st.find? Lane.mark with
      | some x => if st.all fun y => y.empty || (y.mark && y.code == x.code) then .lane x 0 else .fault 2
      | none => match st.find? Lane.scale with
        | some x => if st.all fun y => y.empty || (y.scale && y.val % 256 == x.val % 256) then .lane x 0 else .fault 3
        | none =>
          if st.all Lane.data then op (l.map (·.lane))
          else if st.all Lane.empty then .lane {} 0
          else if !lanesOk w (l.map fun x => if x.const then {} else x.lane) then .fault 3
          else match cEpol w with
            | 0 => .lane {} 0
            | 1 => match l.find? fun x => x.lane.data with
              | some x => .lane x.lane 0
              | none => .lane {} 0
            | _ => op (((List.range l.length).zip l).map fun x => if x.2.lane.empty then paramLane w x.1 else x.2.lane)

/-- Progress of a firing over its lanes: the output lanes, the flags, the operands of the operations computed, the inputs padded so
far with the first argument, and whether the invocation ends under PAD. -/
structure Sweep where
  out : List Lane := []
  flags : Nat := 0
  ops : List (List Lane) := []
  pad : Nat
  arg : Nat
  fin : Bool := false
  deriving DecidableEq, Repr

/-- One lane of a firing; `ins i` is the inputs at lane i by number, `pads` says that the length policy is PAD (R324). -/
def sweepLane (w : Nat) (pads : Bool) (ins : Nat → List (Nat × LaneIn)) (x : Sweep) (i : Nat) : Except Nat Sweep :=
  let seen (m : Nat) : List LaneIn := (ins i).map fun y => if bitAt m y.1 then { y.2 with lane := {} } else y.2
  let eois := (ins i).filter fun y => !bitAt x.pad y.1 && !y.2.const && y.2.lane.mark && y.2.lane.code == 1
  let put (r : LaneRes) (pad arg : Nat) : Except Nat Sweep := match r with
    | .lane l f on =>
      .ok { x with
        out := x.out ++ [l], flags := x.flags ||| f, ops := if on.isEmpty then x.ops else x.ops ++ [on], pad := pad, arg := arg }
    | .fault c => .error c
    | .length => .error 1
  let mark := eois.foldl (fun m y => if bitAt m y.1 then m else m + 2 ^ y.1) x.pad
  let arg := if x.pad = 0 then (match eois.head? with | some y => y.2.lane.arg | none => 0) else x.arg
  let streams := (ins i).filter fun y => !y.2.const
  if x.pad ≠ 0 && !eois.isEmpty && streams.all (fun y => bitAt mark y.1) then
    .ok { x with out := x.out ++ [{}], pad := mark, arg := arg, fin := true }
  else match laneRow w (seen x.pad) with
    | .length => if pads then put (laneRow w (seen mark)) mark arg else .error 1
    | r => if x.pad ≠ 0 && !eois.isEmpty then put (laneRow w (seen mark)) mark arg else put r x.pad x.arg

/-- All lanes of a firing. -/
def sweep (w : Nat) (pads : Bool) (ins : Nat → List (Nat × LaneIn)) : List Nat → Sweep → Except Nat Sweep
  | [], x => .ok x
  | i :: l, x => match sweepLane w pads ins x i with
    | .ok y => sweep w pads ins l y
    | .error c => .error c

/-- A beat keeps R321: after its MARK lane every lane is EMPTY. -/
def markOk (l : List Lane) : Bool :=
  match findIdx Lane.mark l with
  | none => true
  | some i => (l.drop (i + 1)).all Lane.empty

/-! ### Firings -/

/-- A source of a stage: unused, PARAM, its own last output, or a stream with the beat at its head. -/
inductive Src where
  | none
  | const
  | self
  | stream (b : Option Beat)
  deriving DecidableEq, Repr

/-- What a node does: it waits for a beat, it raises a graph fault, or it fires: which inputs it takes, its new state,
its output beats, each for all routes (0), for stream X (1) or for stream Y (2), and for a lane-wise node the operands of each
operation that it computed (R350). -/
inductive NodeRes where
  | wait
  | fault (cause : Nat)
  | go (a b c : Bool) (core : NodeCore) (out : List (Nat × Beat)) (ops : List (List Lane) := [])
  deriving DecidableEq, Repr

/-- The beat that a source gives, none when a stream holds none. -/
def Src.beat (w : Nat) (k : NodeCore) : Src → Option Beat
  | .none => some emptyBeat
  | .const => some (ofLanes fun _ => paramLane w 0)
  | .self => some k.self
  | .stream b => b

def Src.isStream : Src → Bool
  | .stream _ => true
  | _ => false

/-- The sources of a stage by number. -/
abbrev Srcs := Src × Src × Src

/-- FILTER with COMPACT: passing lanes fill a partial beat; a marker takes the next lane and closes it (R343). -/
def compactLanes (part : List Lane) : List Lane → List Lane × List Beat
  | [] => (part, [])
  | x :: l =>
    if x.empty then compactLanes part l
    else
      let p := part ++ [x]
      if x.mark || p.length = 16 then
        let (q, bs) := compactLanes [] l
        (q, packLanes p :: bs)
      else compactLanes p l

/-- The output beats of a lane-wise firing. -/
def laneOut (w : Nat) (k : NodeCore) (x : Sweep) : NodeCore × List Beat :=
  let eoi := if x.fin then [markBeat 1 x.arg] else []
  let k := { k with
    flags := k.flags ||| x.flags, padMask := if x.fin then 0 else x.pad, padArg := if x.fin then 0 else x.arg }
  let compact := cOpc w == 0x3b && cEpol w != 2 && cSrc w 0 != 5 && cSrc w 1 != 5 && bitAt (cPar w) 2
  if compact then
    let (p, bs) := compactLanes k.part (x.out ++ if x.fin then [markLane 1 x.arg] else [])
    ({ k with part := p }, bs)
  else if x.fin && !(x.out.any fun l => !l.empty) then (k, eoi)
  else (k, packLanes x.out :: eoi)

/-- ZIP on the lanes of its two inputs: two beats of pairs, of which an all-EMPTY one is not emitted, then each marker as a marker beat
(R344). -/
def zipOut (w : Nat) (a b : Nat → Lane) (x : Sweep) : List Beat :=
  let pair (j : Nat) : Lane × Lane :=
    let p := if (a j).mark then {} else a j
    let q := if (b j).mark then {} else b j
    if p.data = q.data ∨ p.scale ∨ q.scale then (p, q)
    else match cEpol w with
      | 0 => ({}, {})
      | 1 => (p, q)
      | _ => (if p.data then p else paramLane w 0, if q.data then q else paramLane w 1)
  let half (h : Nat) : Beat := ofLanes fun i =>
    let (p, q) := pair (8 * h + i / 2)
    if i % 2 = 0 then p else q
  [half 0, half 1].filter Beat.any ++ (x.out.filter Lane.mark).map (fun m => markBeat m.code m.arg)
    ++ if x.fin then [markBeat 1 x.arg] else []

/-- The lane at which a beat holds an EOI. -/
def Beat.eoiAt (b : Beat) : Option Nat := match b.marker with
  | some (i, m) => if m.code = 1 then some i else none
  | none => none

/-- Two stream inputs reach EOI in one firing at different lanes (R351; assumption 28). -/
def eoisApart (l : List (Option Nat)) : Bool :=
  match l.filterMap id with
  | [] => false
  | i :: r => r.any (· != i)

/-- A firing of a lane-wise node on given beats. With HOLDB, `mb` says that `b` is the held beat, which counts as EMPTY at the MARK lanes
of A; `nb` is the beat that B presents where A delivers EOI, whose MARK lane stands in its place; and under PAD `cut` is the lane and
argument of an EOI of A that B does not meet: from there A is padded and the held beat is gone (R324). -/
def laneFire (w : Nat) (k : NodeCore) (ss : Srcs) (pads mb : Bool) (a b c : Beat) (take : Bool × Bool × Bool)
    (core : NodeCore) (nb : Beat := emptyBeat) (cut : Option (Nat × Nat) := none) : NodeRes :=
  let gone (i : Nat) : Bool := match cut with | some (j, _) => decide (j ≤ i) | none => false
  let lane (n : Nat) (x : Src) (y : Beat) (i : Nat) : Lane := match x with
    | .none => {}
    | .const => paramLane w n
    | _ => if bitAt k.padMask n then {} else y.get i
  let la := lane 0 ss.1 a
  let lb (i : Nat) : Lane :=
    if mb && (nb.get i).mark then nb.get i
    else if mb && ((a.get i).mark || gone i) then {}
    else lane 1 ss.2.1 b i
  let lc := lane 2 ss.2.2 c
  let one (n : Nat) (x : Src) (l : Lane) : List (Nat × LaneIn) := match x with
    | .none => []
    | .const => [(n, { const := true, lane := l })]
    | _ => [(n, { const := false, lane := l })]
  let ins (i : Nat) : List (Nat × LaneIn) :=
    one 0 ss.1 (la i) ++ one 1 ss.2.1 (lb i) ++ one 2 ss.2.2 (lc i)
  let eoi (n : Nat) (x : Src) (y : Beat) : Option Nat := match x with
    | .none | .const => none
    | _ => if bitAt k.padMask n then none else y.eoiAt
  let start : Sweep := { pad := k.padMask, arg := k.padArg }
  let swept : Except Nat Sweep := match cut with
    | none => sweep w pads ins (List.range 16) start
    | some (j, arg) => match sweep w pads ins (List.range j) start with
      | .ok x => sweep w pads ins ((List.range 16).drop j)
          { x with pad := putFld x.pad 0 0 1, arg := if x.pad = 0 then arg else x.arg }
      | .error e => .error e
  if eoisApart [eoi 0 ss.1 a, eoi 1 ss.2.1 (if mb then nb else b), eoi 2 ss.2.2 c] then .fault 2
  else match swept with
    | .error e => .fault e
    | .ok x =>
      let (k', bs) := laneOut w core x
      if cOpc w = 0x41 then .go take.1 take.2.1 take.2.2 k' ((zipOut w la lb x).map fun y => (0, y))
      else if !markOk x.out then .fault 2
      else .go take.1 take.2.1 take.2.2 k' (bs.map fun y => (0, y)) x.ops

/-- A stream input that is padded is not taken and holds EMPTY lanes. -/
def padded (k : NodeCore) (n : Nat) : Bool := bitAt k.padMask n

/-- A beat of input B that HOLDB holds: neither an EOI nor a marker alone (assumption 28). -/
def Beat.holds (b : Beat) : Bool := b.eoiAt.isNone && !(b.marker.isSome && !b.noMark.any)

/-- A lane-wise node: one beat from each stream input, or a held B beat (R317, R322, R324). -/
def laneNode (w : Nat) (k : NodeCore) (ss : Srcs) : NodeRes :=
  let (sa, sb, sc) := ss
  let plain := cOpc w != 0x21 && cEpol w != 2 && sa != .const && sb != .const && sc != .const && (sb != .none || sc != .none)
  let pads := plain && bitAt (cPar w) 0
  let hold := plain && bitAt (cPar w) 1 && sb.isStream && !padded k 0 && !padded k 1
  let beat (n : Nat) (x : Src) : Option Beat := if padded k n then some emptyBeat else x.beat w k
  match beat 0 sa, beat 2 sc with
  | some a, some c =>
    let ta := sa.isStream && !padded k 0
    let tc := sc.isStream && !padded k 2
    let eor := a.has 2
    match if hold then k.held else none with
    | some h =>
      match a.marker with
      | some (i, m) =>
        if m.code ≠ 1 then laneFire w k ss pads true a h c (ta, false, tc) { k with held := if eor then none else some h }
        else match beat 1 sb with
          | none => .wait
          | some nb =>
            let k' := { k with held := none }
            if nb.marker.isSome && !nb.noMark.any then laneFire w k ss pads true a h c (ta, true, tc) k' (nb := nb)
            else if pads then laneFire w k ss pads true a h c (ta, false, tc) k' (cut := some (i, m.arg))
            else .fault 1
      | none => laneFire w k ss pads true a h c (ta, false, tc) k
    | none =>
      match beat 1 sb with
      | none => .wait
      | some b =>
        let tb := sb.isStream && !padded k 1
        if hold && !a.has 1 && b.holds then
          laneFire w k ss pads true a b c (ta, tb, tc) { k with held := if eor then none else some b }
        else laneFire w k ss pads false a b c (ta, tb, tc) k
  | _, _ => .wait

/-! ### Cross-lane nodes, R336 and R337 -/

/-- The beat of a node's output followed by the input's marker in place. -/
def thenMark (b : Beat) (o : List (Nat × Beat)) : List (Nat × Beat) :=
  match b.marker with
  | some (i, m) => o ++ [(0, oneLane i m)]
  | none => o

/-- DATA lanes of a beat as options, or TYPE. -/
def dataOf (w : Nat) (b : Beat) : Except Nat (List (Option Nat)) :=
  let ls := (List.range 16).map b.get
  if ls.any fun l => l.data && !okPk (cEt w) l.pk then .error 3
  else .ok (ls.map fun l => if l.data then some l.val else none)

/-- The operators of LRED and LSCAN. -/
def redOf (et p : Nat) : RedOp :=
  let u := et == 0xe
  match p with
  | 0 => .fadd | 1 => .fmin | 2 => .fmax | 3 => .add
  | 4 => if u then .minu else .min
  | 5 => if u then .maxu else .max
  | 6 => .and | 7 => .or | _ => .xor

/-- LRED. -/
def lredNode (w : Nat) (k : NodeCore) (a : Beat) : NodeRes :=
  match dataOf w a with
  | .error c => .fault c
  | .ok l =>
    let (r, f) := redTree (redOf (cEt w) (fld (cPar w) 3 0)) 32 (cRm w) l
    let o := match r with
      | none => emptyBeat
      | some v =>
        let x : Lane := { tag := 0, pk := pkOf (cEt w), val := v }
        if bitAt (cPar w) 4 then ofLanes fun _ => x else oneLane 0 x
    .go true false false { k with flags := k.flags ||| f } (thenMark a [(0, o)])

/-- LSCAN. -/
def lscanNode (w : Nat) (k : NodeCore) (a : Beat) : NodeRes :=
  match dataOf w a with
  | .error c => .fault c
  | .ok l =>
    let (r, f) := scanList (redOf (cEt w) (fld (cPar w) 3 0)) 32 (cRm w) none l
    let o := ofLanes fun i => match r.getD i none with
      | some v => { tag := 0, pk := pkOf (cEt w), val := v }
      | none => {}
    .go true false false { k with flags := k.flags ||| f } (thenMark a [(0, o)])

/-- A source lane that is not DATA reads as EMPTY. -/
def dataLane (b : Beat) (i : Nat) : Lane := if (b.get i).data then b.get i else {}

/-- LSHUF in INDEX mode (R337). -/
def shufIndex (k : NodeCore) (a b : Beat) : NodeRes :=
  let bad := (List.range 16).any fun i => (b.get i).data && !((b.get i).pk == 1 || (b.get i).pk == 2)
  let o := ofLanes fun i => if (b.get i).data && (b.get i).val < 16 then dataLane a (b.get i).val else {}
  let fin (m : List (Nat × Beat)) : NodeRes := .go true true false k ((0, o) :: m)
  if bad then .fault 3
  else match a.marker, b.marker with
    | none, none => fin []
    | some (i, m), some (_, n) =>
      if m.code = n.code then fin [(0, oneLane i m)]
      else if m.code = 5 then fin [(0, oneLane i m)]
      else if n.code = 5 then fin [(0, oneLane i n)]
      else .fault 2
    | some (i, m), none => if m.code = 5 then fin [(0, oneLane i m)] else .fault 2
    | none, some (i, n) => if n.code = 5 then fin [(0, oneLane i n)] else .fault 2

/-- LSHUF in ROTATE and REVERSE, and LBCAST. -/
def moveNode (w : Nat) (k : NodeCore) (a : Beat) : NodeRes :=
  let p := cPar w
  let f (i : Nat) : Nat :=
    if cOpc w = 0x32 then fld p 3 0 else if fld p 1 0 = 1 then (i + fld p 7 4) % 16 else 15 - i
  .go true false false k (thenMark a [(0, ofLanes fun i => dataLane a (f i))])

/-! ### Stream-structure nodes, R338 to R342 -/

/-- A value enters the partial output of SEGSUM or COUNT, with an EOR behind it when KEEPEOR is set (R338). -/
def emitValue (w : Nat) (part : List Lane) (v : Lane) (eor : Option Nat) : List Lane × List Beat :=
  let keep := if bitAt (cPar w) 0 then (match eor with | some a => [markLane 2 a] | none => []) else []
  if bitAt (cPar w) 1 then compactLanes part (v :: keep) else ([], [packLanes (v :: keep)])

/-- A partial output beat is closed. -/
def closePart (p : List Lane) : List Beat := if p.isEmpty then [] else [packLanes p]

/-- SEGSUM and COUNT. -/
def segNode (w : Nat) (k : NodeCore) (a : Beat) : NodeRes :=
  let count := cOpc w == 0x3c
  match dataOf w a with
  | .error c => .fault c
  | .ok l =>
    let et := cEt w
    let op : RedOp := if et = 4 then .fadd else .add
    let any := l.any Option.isSome
    let (acc, f) : Nat × Nat :=
      if count then ((k.acc + (l.filter Option.isSome).length * (32 / typeWidth et)) % 2 ^ 32, 0)
      else match redTree op 32 (cRm w) l with
        | (some t, f) =>
          if k.has then
            let r := redOp op 32 (cRm w) k.acc t
            (r.1, f ||| r.2)
          else (t, f)
        | (none, _) => (k.acc, 0)
    let k := { k with acc := acc, has := k.has || any, flags := k.flags ||| f }
    let value : Lane := { tag := 0, pk := if count then 1 else pkOf et, val := k.acc }
    let reset : NodeCore := { k with acc := 0, has := false }
    let out (l : List Beat) : List (Nat × Beat) := l.map fun b => (0, b)
    match a.marker with
    | none => .go true false false k []
    | some (_, m) =>
      if m.code = 2 then
        let (p, bs) := emitValue w k.part value (some m.arg)
        .go true false false { reset with part := p } (out bs)
      else if m.code = 1 then
        let (p, bs) := if k.has then emitValue w k.part value none else (k.part, [])
        .go true false false { reset with part := [] } (out (bs ++ closePart p ++ [packLanes [m]]))
      else .go true false false { k with part := [] } (out (closePart k.part ++ [packLanes [m]]))

/-- SCANB over the lanes of a beat. The first DATA lane of a segment is no addition: its value is the sum as it stands, so that a NaN
keeps its payload and a signalling NaN sets no flag (assumption 62; R50 and R339 leave it open). -/
def scanLanes (w : Nat) (et : Nat) (rm : RMode) : List Lane → NodeCore → List Lane × NodeCore
  | [], k => ([], k)
  | x :: l, k =>
    if x.data then
      let op : RedOp := if et = 4 then .fadd else .add
      let (v, f) := if k.has then redOp op 32 rm k.acc x.val else (x.val, 0)
      let o := if bitAt (cPar w) 0 then (if k.has then k.acc else 0) else v
      let (r, k) := scanLanes w et rm l { k with acc := v, has := true, flags := k.flags ||| f }
      ({ tag := 0, pk := pkOf et, val := o } :: r, k)
    else
      let k := if x.mark && (x.code == 1 || x.code == 2) then { k with acc := 0, has := false } else k
      let (r, k) := scanLanes w et rm l k
      (x :: r, k)

/-- SCANB. -/
def scanbNode (w : Nat) (k : NodeCore) (a : Beat) : NodeRes :=
  match dataOf w a with
  | .error c => .fault c
  | .ok _ =>
    let (l, k) := scanLanes w (cEt w) (cRm w) ((List.range 16).map a.get) k
    .go true false false k [(0, packLanes l)]

/-- The two beats of ROWSTAT and its reset state. -/
def rowOut (rm : RMode) (k : NodeCore) : NodeCore × List (Nat × Beat) :=
  let (r, f) := rcpF rm (f32.decode k.s)
  ({ k with m := 0xff800000, s := 0, has := false, flags := k.flags ||| f },
    [(1, ofLanes fun _ => { tag := 0, pk := 0, val := k.m }), (2, ofLanes fun _ => { tag := 0, pk := 0, val := r })])

/-- ROWSTAT (R340). -/
def rowstatNode (w : Nat) (k : NodeCore) (a : Beat) : NodeRes :=
  let rm := cRm w
  match dataOf w a with
  | .error c => .fault c
  | .ok l =>
    let k := match redTree .fmax 32 rm l with
      | (none, _) => k
      | (some bm, f0) =>
        let (mn, f1) := f32.minmax true k.m bm
        let sub (x : Nat) : Nat × Nat := f32.add rm (f32.decode x) (f32.decode mn).negate
        let ex (x : Nat) : Nat × Nat :=
          let (d, f) := sub x
          let (e, g) := exp2F rm (f32.decode d)
          (e, f ||| g)
        let es := l.map fun o => o.map ex
        let (t, f2) := redTree .fadd 32 rm (es.map fun o => o.map (·.1))
        let (d, f3) := ex k.m
        let (s, f4) := f32.fmaC rm k.s d (t.getD 0)
        let fe := es.foldl (fun f o => f ||| (match o with | some x => x.2 | none => 0)) 0
        { k with m := mn, s := s, has := true, flags := k.flags ||| f0 ||| f1 ||| f2 ||| f3 ||| f4 ||| fe }
    match a.marker with
    | none => .go true false false k []
    | some (_, m) =>
      if m.code = 2 then
        let (k, o) := rowOut rm k
        .go true false false k o
      else if m.code = 1 then
        let (k, o) := if k.has then rowOut rm k else (k, [])
        .go true false false { k with m := 0xff800000, s := 0, has := false } (o ++ [(0, packLanes [m])])
      else .go true false false k [(0, packLanes [m])]

/-- Combination of two values of MERGE (R341), with its flags. -/
def mergeOp (w a b : Nat) : Nat × Nat :=
  let et := cEt w
  let sgn := et == 2
  match fld (cPar w) 3 0 with
  | 0 => f32.addC (cRm w) a b
  | 1 => ((a + b) % 2 ^ 32, 0)
  | 2 => f32.minmax false a b
  | 3 => f32.minmax true a b
  | 4 => (if sgn then minS 32 a b else Nat.min a b, 0)
  | 5 => (if sgn then maxS 32 a b else Nat.max a b, 0)
  | 6 => (a, 0)
  | _ => (a ||| b, 0)

/-- Pairs of a beat, as KEY and VALUE lanes after each other, with its marker at the end; a TYPE fault where a DATA lane
cannot be read. -/
def pairsOf (kt vt : Option Nat) (b : Beat) : Except Nat (List Lane) :=
  let bad (t : Option Nat) (l : Lane) : Bool := match t with | some t => l.data && !okPk t l.pk | none => false
  if (List.range 8).any fun j => bad kt (b.get (2 * j)) || bad vt (b.get (2 * j + 1)) then .error 3
  else
    .ok ((List.range 8).flatMap (fun j =>
      if (b.get (2 * j)).data && (b.get (2 * j + 1)).data then [b.get (2 * j), b.get (2 * j + 1)] else [])
      ++ match b.marker with | some (_, m) => [m] | none => [])

/-- Keys of the tokens of a beat ascend strictly from the last key of the segment on; the last key after them: none behind an EOR, EOI or
TSM, which end the segment, and unchanged by an ERR (R341). -/
def ascending : Option Nat → List Lane → Bool × Option Nat
  | o, x :: _ :: l =>
    if x.mark then (true, if x.code = 5 then o else none)
    else if (match o with | some v => decide (v < x.val) | none => true) then ascending (some x.val) l else (false, o)
  | o, [x] => (true, if x.mark && x.code != 5 then none else o)
  | o, [] => (true, o)

/-- Output pairs fill the partial beat; a full one is closed. -/
def pushPair (part : List Lane) (x y : Lane) : List Lane × List Beat :=
  let p := part ++ [x, y]
  if 16 ≤ p.length then ([], [packLanes p]) else (p, [])

/-- A segment end takes the next free lane and closes the beat (R341). -/
def pushEor (part : List Lane) (arg : Nat) : List Beat := [packLanes (part ++ [markLane 2 arg])]

/-- An ERR is at the head of an input's tokens. -/
def errHead : List Lane → Bool
  | m :: _ => m.mark && m.code == 5
  | [] => false

/-- A marker of an input other than ERR: how its present segment ends: 0 EOR, 1 EOI, 2 TSM, with the argument. -/
def segEnd (m : Lane) : Option (Nat × Nat) := some (if m.code = 2 then 0 else if m.code = 1 then 1 else 2, m.arg)

/-- The output once both inputs of MERGE have ended their segments; an input at a TSM or EOI waits for the other (R341). -/
def mergeEnd (k : NodeCore) : Except Nat (NodeCore × List Beat) :=
  match k.endA, k.endB with
  | some (0, a), some (0, _) => .ok ({ k with endA := none, endB := none, part := [] }, pushEor k.part a)
  | some (0, a), some _ => .ok ({ k with endA := none, part := [] }, pushEor k.part a)
  | some _, some (0, b) => .ok ({ k with endB := none, part := [] }, pushEor k.part b)
  | some (1, a), some (1, _) => .ok ({ k with endA := none, endB := none, part := [] }, closePart k.part ++ [markBeat 1 a])
  | some (2, a), some (2, _) => .ok ({ k with endA := none, endB := none, part := [] }, closePart k.part ++ [markBeat 3 a])
  | _, _ => .error 2

/-- One step of MERGE on the tokens that its inputs hold; none when it needs another beat. An ERR at a head goes at once (R341). -/
def mergeStep (w : Nat) (k : NodeCore) : Option (Except Nat (NodeCore × List Beat)) :=
  let emit (k : NodeCore) (x y : Lane) : Option (Except Nat (NodeCore × List Beat)) :=
    let (p, bs) := pushPair k.part x y
    some (.ok ({ k with part := p }, bs))
  if errHead k.inA || errHead k.inB then
    let m := ((if errHead k.inA then k.inA else k.inB).headD {})
    let inA := if errHead k.inA then k.inA.drop 1 else k.inA
    let inB := if errHead k.inB then k.inB.drop 1 else k.inB
    some (.ok ({ k with inA := inA, inB := inB, part := [] }, closePart k.part ++ [packLanes [m]]))
  else if k.endA.isSome && k.endB.isSome then some (mergeEnd k)
  else match k.inA, k.inB with
    | x :: l, ys =>
      if k.endA.isSome then
        match ys with
        | [] => none
        | y :: m => if y.mark then some (.ok ({ k with inB := m, endB := segEnd y }, [])) else emit { k with inB := m.drop 1 } y (m.headD {})
      else if x.mark then some (.ok ({ k with inA := l, endA := segEnd x }, []))
      else if k.endB.isSome then emit { k with inA := l.drop 1 } x (l.headD {})
      else match ys with
        | [] => none
        | y :: m =>
          if y.mark then some (.ok ({ k with inB := m, endB := segEnd y }, []))
          else if x.val < y.val then emit { k with inA := l.drop 1 } x (l.headD {})
          else if y.val < x.val then emit { k with inB := m.drop 1 } y (m.headD {})
          else
            let a := l.headD {}
            let (v, f) := mergeOp w a.val (m.headD {}).val
            let k := { k with inA := l.drop 1, inB := m.drop 1, flags := k.flags ||| f }
            if bitAt (cPar w) 4 && (v == 0 || (cEt w == 4 && v == 2 ^ 31)) then some (.ok (k, []))
            else emit k x { tag := 0, pk := if fld (cPar w) 3 0 = 6 then a.pk else pkOf (cEt w), val := v }
    | [], y :: m =>
      if k.endB.isSome then none
      else if y.mark then some (.ok ({ k with inB := m, endB := segEnd y }, []))
      else if k.endA.isSome then emit { k with inB := m.drop 1 } y (m.headD {})
      else none
    | [], [] => none

/-- MERGE goes on until it needs a beat. -/
def mergeRun (w : Nat) (k : NodeCore) (fuel : Nat) : Except Nat (NodeCore × List Beat) :=
  match fuel with
  | 0 => .ok (k, [])
  | n + 1 =>
    match mergeStep w k with
    | none => .ok (k, [])
    | some (.error c) => .error c
    | some (.ok (k, bs)) => match mergeRun w k n with
      | .error c => .error c
      | .ok (k, cs) => .ok (k, bs ++ cs)

/-- Whether a TSM may come as the next token of an input of MERGE after a beat: none may where it holds a TSM that is not at the start of
an invocation or directly behind an EOR or EOI (R341). -/
def tsmHead (head : Bool) (b : Beat) : Option Bool :=
  let data := (List.range 16).any fun i => (b.get i).data
  match b.marker with
  | none => some (head && !data)
  | some (_, m) =>
    if m.code = 3 then (if head && !data then some false else none) else some (m.code == 1 || m.code == 2)

/-- MERGE (R341): a beat of each input that it needs. -/
def mergeNode (w : Nat) (k : NodeCore) (sa sb : Src) : NodeRes :=
  let needA := k.inA.isEmpty && k.endA.isNone
  let needB := k.inB.isEmpty && k.endB.isNone
  let a := if needA then sa.beat w k else none
  let b := if needB then sb.beat w k else none
  if a.isNone && b.isNone then .wait
  else
    let load (o : Option Beat) (last : Option Nat) (head : Bool) (old : List Lane) : Except Nat (List Lane × Option Nat × Bool) :=
      match o with
      | none => .ok (old, last, head)
      | some x => match pairsOf (some 0xe) (some (cEt w)) x, tsmHead head x with
        | .error c, _ => .error c
        | _, none => .error 2
        | .ok l, some h =>
          let (ok, v) := ascending last l
          if ok then .ok (l, v, h) else .error 6
    match load a k.lastA k.headA k.inA, load b k.lastB k.headB k.inB with
    | .error c, _ => .fault c
    | _, .error c => .fault c
    | .ok (la, va, ha), .ok (lb, vb, hb) =>
      match mergeRun w { k with inA := la, inB := lb, lastA := va, lastB := vb, headA := ha, headB := hb } 64 with
      | .error c => .fault c
      | .ok (k, bs) => .go a.isSome b.isSome false k (bs.map fun x => (0, x))

/-- Score x is preferred to y (R342): NaN ranks last, −0 below +0. -/
def prefers (w x y : Nat) : Bool :=
  let small := bitAt (cPar w) 7
  let lt (a b : Nat) : Bool := match cEt w with
    | 2 => sx 32 a < sx 32 b
    | 4 => (f32.decode a).lt (f32.decode b)
    | _ => a < b
  let nan (a : Nat) : Bool := cEt w == 4 && (f32.decode a).isNan
  if nan x then false else if nan y then true else if small then lt x y else lt y x

/-- A pair enters the selection behind every pair that it is not preferred to. -/
def insTop (w : Nat) (p : Lane × Lane) : List (Lane × Lane) → List (Lane × Lane)
  | [] => [p]
  | q :: l => if prefers w p.1.val q.1.val then p :: q :: l else q :: insTop w p l

/-- Pairs enter the selection of TOPK, which keeps k of them, each lane as it came (R320). -/
def topAdd (w : Nat) : List (Lane × Lane) → List Lane → List (Lane × Lane)
  | top, x :: y :: l => if x.mark then top else topAdd w ((insTop w (x, y) top).take (fld (cPar w) 6 0)) l
  | top, _ => top

/-- TOPK (R342). -/
def topNode (w : Nat) (k : NodeCore) (a : Beat) : NodeRes :=
  match pairsOf (some (cEt w)) none a with
  | .error c => .fault c
  | .ok l =>
    let k := { k with top := topAdd w k.top l }
    let out (l : List Beat) : List (Nat × Beat) := l.map fun b => (0, b)
    let (part, bs) := compactLanes [] (k.top.flatMap fun p => [p.1, p.2])
    let done : NodeCore := { k with top := [] }
    match a.marker with
    | none => .go true false false k []
    | some (_, m) =>
      if m.code = 2 then
        if bitAt (cPar w) 8 then .go true false false done (out (bs ++ pushEor part m.arg))
        else .go true false false k []
      else if m.code = 1 then .go true false false done (out (bs ++ closePart part ++ [packLanes [m]]))
      else .go true false false k (out [packLanes [m]])

/-! ### Conversion and packing, R333 and R334 -/

/-- MXFP4 block of 32 values: scale code, element codes, flags (R41). -/
def mxBlock (rm : RMode) (l : List Fv) : Nat × List Nat × Nat :=
  let bad := l.any fun v => match v with | .fin .. => false | _ => true
  if bad then (0xff, l.map fun _ => 0, nv)
  else
    let mags := l.filterMap fun v => match v with
      | .fin _ m e => if m = 0 then none else some (m, e)
      | _ => none
    if mags.isEmpty then (0x7f, l.map fun _ => 0, 0)
    else
      let top := mags.foldl (fun (t : Int) x => let g := (Nat.log2 x.1 : Int) + x.2; if t < g then g else t) (-100000)
      let e0 := top - 2
      let e := if e0 < -127 then -127 else if 127 < e0 then 127 else e0
      let rs := l.map fun v => match v with
        | .fin s m x =>
          if m = 0 then (0, 0)
          else
            let r := e2m1.enc rm (.fin s m (x - e))
            let f := if r.1 % 8 = 0 then ufl ||| nx else 0
            (if r.1 % 8 = 0 then 0 else r.1, r.2 ||| f)
        | _ => (0, 0)
      ((e + 127).toNat, rs.map (·.1), rs.foldl (fun f x => f ||| x.2) 0)

/-- An E2M1 element under a scale code (R39). -/
def mxValue (c x : Nat) : Fv :=
  if c = 0xff then .nan false
  else match e2m1.decode x with
    | .fin s m e => .fin s m (e + (c : Int) - 127)
    | v => v

/-- Open block scales after one beat (R284): the scale code at each lane position for this beat, and the state behind
it. `n` is the sub-elements of a lane. -/
def scaleStep (n : Nat) (t : Tab (Nat × Nat)) (b : Beat) : Tab (Nat × Nat) :=
  (List.range 16).foldl (fun t i =>
    let l := b.get i
    let (c, r) := Tab.get (0x7f, 0) t i
    let new : Nat × Nat :=
      if l.scale then (l.val % 256, 32)
      else if l.mark || r ≤ n then (0x7f, 0)
      else (c, r - n)
    Tab.set (0x7f, 0) t i new) t

/-- The exact values of the sub-elements of a DATA lane of type S. -/
def laneValues (src : Nat) (c : Nat) (v : Nat) : List Fv :=
  let w := typeWidth src
  (subsOf w v).map fun x =>
    if src = 0xb then mxValue c x
    else match intType src with
      | some (_, sgn) => let i : Int := if sgn then sx w x else (x : Int); .fin (decide (i < 0)) i.natAbs 0
      | none => decodeT src x

/-- Convert one sub-element. -/
def cvtSub (w src c x : Nat) : Nat × Nat :=
  if src = 0xb then
    match intType (cEt w) with
    | some (dw, ds) => toIntT dw ds (cRm w) (mxValue c x)
    | none => encodeT (cEt w) (cRm w) (bitAt (cPar w) 4) (mxValue c x)
  else convertT src (cEt w) (cRm w) (bitAt (cPar w) 4) x

/-- The codes of a lane's sub-elements in the destination type, +0 from an EMPTY lane. -/
def cvtLane (w src : Nat) (c : Nat) (l : Lane) : List (Nat × Nat) :=
  let n := typeWidth src
  if l.data then (subsOf n l.val).map (cvtSub w src c) else List.replicate (32 / n) (0, 0)

/-- Scale code of a lane position. -/
def openScale (t : Tab (Nat × Nat)) (i : Nat) : Nat := (Tab.get (0x7f, 0) t i).1

/-- A group of source beats converted to a destination other than E2M1; each beat carries its scale codes. -/
def cvtGroup (w src : Nat) (g : List (Beat × Tab (Nat × Nat))) : List Beat × Nat :=
  let et := cEt w
  let sw := typeWidth src
  let dw := typeWidth et
  let subs (i : Nat) : List (Nat × Nat) := g.flatMap fun x => cvtLane w src (openScale x.2 i) (x.1.get i)
  let live (i : Nat) : Bool := g.any fun x => (x.1.get i).data
  let beats := if sw < dw then dw / sw else 1
  let lane (n i : Nat) : Lane :=
    if !live i then {}
    else { tag := 0, pk := pkOf et, val := joinSubs dw (((subs i).drop (n * (32 / dw))).take (32 / dw) |>.map (·.1)) }
  ((List.range beats).map fun n => ofLanes (lane n),
    (List.range 16).foldl (fun f i => (subs i).foldl (fun f x => f ||| x.2) f) 0)

/-- A group converted to E2M1: the SCALE beat and four data beats (R333, R41). -/
def cvtMx (w src : Nat) (g : List (Beat × Tab (Nat × Nat))) : List Beat × Nat :=
  let n := 32 / typeWidth src
  let vals (i : Nat) : List Fv := g.flatMap fun x =>
    if (x.1.get i).data then laneValues src (openScale x.2 i) (x.1.get i).val else List.replicate n (.fin false 0 0)
  let live (i : Nat) : Bool := g.any fun x => (x.1.get i).data
  let blocks := (List.range 16).map fun i => (live i, mxBlock (cRm w) (vals i))
  let blk (i : Nat) : Bool × Nat × List Nat × Nat := blocks.getD i (false, 0, [], 0)
  let sb := ofLanes fun i => if (blk i).1 then { tag := 2, pk := 2, val := (blk i).2.1 } else {}
  let db (d : Nat) : Beat := ofLanes fun i =>
    if (blk i).1 then
      { tag := 0, pk := 0xa, val := joinSubs 4 ((List.range 8).map fun j => ((blk i).2.2.1).getD (8 * d + j) 0) }
    else {}
  (sb :: (List.range 4).map db, blocks.foldl (fun f x => if x.1 then f ||| x.2.2.2 else f) 0)

/-- CVT (R333): the group in hand is converted once it is complete or a MARK lane ends it. -/
def cvtNode (w : Nat) (k : NodeCore) (a : Beat) : NodeRes :=
  let src := fld (cPar w) 3 0
  let et := cEt w
  let es := 32 / typeWidth src
  let ed := 32 / typeWidth et
  let mx := et == 0xb
  let need := if mx then 32 / es else if es < ed then ed / es else 1
  let bad := (List.range 16).any fun i => (a.get i).data && !okPk src (a.get i).pk
  if bad then .fault 3
  else
    let scales (b : Beat) (t : Tab (Nat × Nat)) : Tab (Nat × Nat) := scaleStep es t b
    let before := (List.range 16).foldl (fun t i =>
      if (a.get i).scale then Tab.set (0x7f, 0) t i ((a.get i).val % 256, 32) else t) k.scales
    let noScale (b : Beat) : Beat := ofLanes fun i => if (b.get i).scale || (b.get i).mark then {} else b.get i
    -- the beats in hand carry their scale codes as SCALE lanes of a companion beat
    let pack (b : Beat) (t : Tab (Nat × Nat)) : List Beat :=
      [b, ofLanes fun i => { tag := 2, pk := 2, val := openScale t i }]
    let rec unpack : List Beat → List (Beat × Tab (Nat × Nat))
      | b :: c :: l =>
        (b, (List.range 16).foldl (fun t i => Tab.set (0x7f, 0) t i ((c.get i).val, 32)) []) :: unpack l
      | _ => []
    let conv (g : List Beat) : List Beat × Nat := if mx then cvtMx w src (unpack g) else cvtGroup w src (unpack g)
    let out (l : List Beat) : List (Nat × Beat) := l.map fun b => (0, b)
    let hasScale := (List.range 16).any fun i => (a.get i).scale
    let nextScales := if src = 0xb then scales a k.scales else k.scales
    let b := noScale a
    let simple := src != 0xb && !mx
    let scaleOnly := ofLanes fun i => if (a.get i).scale then a.get i else {}
    let inPlace := simple && es == ed
    -- a SCALE lane that passes ends a partial narrowing group and goes first
    let (pre, preF, grp) : List Beat × Nat × List Beat :=
      if simple && !inPlace && hasScale then
        let (x, f) := if k.group.isEmpty then ([], 0) else conv k.group
        (x ++ [scaleOnly], f, [])
      else ([], 0, k.group)
    let grp := grp ++ pack b (if src = 0xb then before else [])
    -- a beat of SCALE lanes without data is no beat of a block group
    let grp := if mx && hasScale && a.marker.isNone && !(List.range 16).any (fun i => (a.get i).data) then k.group else grp
    let full := need * 2 ≤ grp.length || a.marker.isSome
    let (os, f) := if full then conv grp else ([], 0)
    let os := if inPlace then os.map fun o => ofLanes fun i => if (a.get i).scale then a.get i else o.get i else os
    let marks := match a.marker with
      | some (i, m) => [oneLane i m]
      | none => []
    .go true false false
      { k with group := if full then [] else grp, scales := nextScales, flags := k.flags ||| preF ||| f }
      (out (pre ++ os ++ marks))

/-- PACK in ATTACH mode (R334): `cnt` data beats of A are left in the group; `endA` is a marker of A, ERR among them (R325), for which B
must present the same. -/
def attachNode (w : Nat) (k : NodeCore) (sa sb : Src) : NodeRes :=
  let e := 32 / typeWidth (cEt w)
  let out (l : List Beat) : List (Nat × Beat) := l.map fun b => (0, b)
  let same (code : Nat) (b : Beat) (go : NodeRes) : NodeRes := if b.has code && !b.noMark.any then go else .fault 2
  match k.endA with
  | some (code, arg) =>
    match sb.beat w k with
    | none => .wait
    | some b => same code b (.go false true false { k with endA := none } (out [markBeat code arg]))
  | none =>
    if 0 < k.cnt then
      match sa.beat w k with
      | none => .wait
      | some a =>
        if (List.range 16).any fun i => (a.get i).data && !okPk (cEt w) (a.get i).pk then .fault 3
        else match a.marker with
          | none => .go true false false { k with cnt := k.cnt - 1 } (out [a])
          | some (_, m) =>
            .go true false false { k with cnt := 0, endA := some (m.code, m.arg) } (out (if a.noMark.any then [a.noMark] else []))
    else
      match sb.beat w k with
      | none => .wait
      | some b => match b.marker with
        | some (_, m) =>
          match sa.beat w k with
          | none => .wait
          | some a =>
            let arg := match a.marker with | some (_, n) => n.arg | none => 0
            same m.code a (same m.code b (.go true true false k (out [markBeat m.code arg])))
        | none =>
          if (List.range 16).any fun i => (b.get i).data && 2 < (b.get i).pk then .fault 3
          else
            let s := ofLanes fun i => if (b.get i).data then { tag := 2, pk := 2, val := (b.get i).val % 256 } else {}
            .go false true false { k with cnt := 32 / e } (out [s])

/-- UNPACK (R334). -/
def unpackNode (w : Nat) (k : NodeCore) (a : Beat) : NodeRes :=
  if bitAt (cPar w) 0 then
    let et := cEt w
    let ok (l : Lane) : Bool := if et = 4 then l.pk == 3 || l.pk == 4 else l.pk == 5
    if (List.range 16).any fun i => (a.get i).data && !ok (a.get i) then .fault 3
    else
      let wide (pk v : Nat) : Nat × Nat :=
        if et = 4 then convertT (if pk = 3 then 6 else 5) 4 .rne false v else (ux 32 (sx 16 v), 0)
      let half (h : Nat) : Beat := ofLanes fun i =>
        let l := a.get i
        if l.data then { tag := 0, pk := pkOf et, val := (wide l.pk (l.val / 2 ^ (16 * h) % 2 ^ 16)).1 } else l
      let f := (List.range 16).foldl (fun f i =>
        let l := a.get i
        if l.data then f ||| (wide l.pk (l.val % 2 ^ 16)).2 ||| (wide l.pk (l.val / 2 ^ 16)).2 else f) 0
      .go true false false { k with flags := k.flags ||| f } [(1, half 0), (2, half 1)]
  else if (List.range 16).any fun i => (a.get i).data && !okPk (cEt w) (a.get i).pk then .fault 3
  else
    let x := ofLanes fun i => if (a.get i).data then a.get i else {}
    let y := ofLanes fun i => if (a.get i).scale then { tag := 0, pk := 1, val := (a.get i).val } else {}
    let m := match a.marker with | some (i, m) => [(0, oneLane i m)] | none => []
    .go true false false k ((if x.any then [(1, x)] else []) ++ (if y.any then [(2, y)] else []) ++ m)

/-- MUX (R344). -/
def muxNode (w : Nat) (k : NodeCore) (sa sb sc : Src) : NodeRes :=
  match sc.beat w k with
  | none => .wait
  | some c =>
    let l := c.get 0
    if (List.range 15).any fun i => (c.get (i + 1)).mark then .fault 2
    else if l.scale then .fault 3
    else if l.empty then .go false false true k []
    else if l.data then
      match (if l.val = 0 then sa else sb).beat w k with
      | none => .wait
      | some x => .go (l.val == 0) (l.val != 0) true k [(0, x)]
    else if l.code = 5 then .go false false true k [(0, packLanes [l])]
    else
      let is (b : Beat) : Bool := (b.get 0).mark && (b.get 0).code == l.code && !(List.range 15).any fun i => !(b.get (i + 1)).empty
      match sa.beat w k, sb.beat w k with
      | some a, some b => if is a && is b then .go true true true k [(0, a)] else .fault 2
      | _, _ => .wait

/-! ### The node of a stage -/

/-- What a stage's node does with its inputs (R317 to R344). -/
def nodeStep (w : Nat) (k : NodeCore) (ss : Srcs) : NodeRes :=
  let (sa, sb, sc) := ss
  let one (f : Nat → NodeCore → Beat → NodeRes) : NodeRes := match sa.beat w k with
    | none => .wait
    | some a => f w k a
  match cOpc w with
  | 0x20 => one cvtNode
  | 0x21 => if bitAt (cPar w) 0 then laneNode w k ss else attachNode w k sa sb
  | 0x22 => one unpackNode
  | 0x30 => one lredNode
  | 0x31 =>
    if fld (cPar w) 1 0 = 0 then
      match sa.beat w k, sb.beat w k with
      | some a, some b => shufIndex k a b
      | _, _ => .wait
    else one moveNode
  | 0x32 => one moveNode
  | 0x33 => one lscanNode
  | 0x38 | 0x3c => one segNode
  | 0x39 => mergeNode w k sa sb
  | 0x3a => one topNode
  | 0x3d => one rowstatNode
  | 0x3e => one scanbNode
  | 0x40 | 0x43 => one fun _ k a => .go true false false k [(0, a)]
  | 0x42 => muxNode w k sa sb sc
  | 0x00 | 0xff => .wait
  | _ => laneNode w k ss

end Sys2Proof.Machine
end

