-- ==== Sys2Proof/Machine/Tables.lean ====
section
/-! DEFINITION. The table instructions: TINV, EXTW, URTW, KEYOP and LAUNCH, the patrol scrub's part in keys, and the region
tree as LAUNCH reads it (16_tables R395 to R402, R405 to R407; 17_work R409 to R411, R416, R417, R460; 07_memories R185;
18_outside R442). -/
namespace Sys2Proof.Machine

/-! ### Waiting for accesses, R396 and R398 -/

/-- Every access that was translated under a context KEY that meets `p` has been performed, those at other packages and those of engine
commands too. -/
def State.quiet (s : State) (p : Nat → Bool) : Bool :=
  let idle (b : Bank) : Bool :=
    b.reqs.all (fun q => !p q.ctx) && b.batches.all (fun x => !x.ctx.any p) && (b.todo.isEmpty || !p (b.ctxkey.toNat % 4096))
  s.banks.all (fun e => idle e.2) && s.svcs.all (fun e => idle e.2) && s.pairs.all (fun x => !p x.ctx) &&
    s.rops.all fun e => match e.2 with
      | some o => !(o.sent && o.ctx.any p)
      | none => true

/-- Act as FENCE.sc.pkg: everything before it is performed, and nothing read ahead is kept (08_ordering R196). -/
def State.fenced (s : State) (k : State → Res) : Res :=
  match s.releaseGo 2 with
  | some r => r
  | none => k (s.preAcquire s.cur 2)

/-- TINV, KEYOP, URTW and LAUNCH do not park (R398, R402, R406; 17_work R417), but for the wait of LAUNCH for its block, which R417
lets park the bank. -/
def State.noPark (s : State) : State :=
  match s.b.waited with
  | some (_, .ops _) => s
  | _ => s.waitOn none

/-- A privileged table instruction: it waits for room, for its fence and for the accesses under the context KEYs that meet
`p`. -/
def State.opTable (s : State) (reads writes : List Reg) (p : State → Nat → Bool) (k : State → Res) : State :=
  s.privileged fun s => s.issue reads writes fun s => s.gate fun s => s.fenced fun s =>
    if s.quiet (p s) then k s else .wait none

/-! ### TINV, R398 -/

/-- Drop cached translations that meet `p` from every core, cluster and engine command. -/
def State.dropTlb (s : State) (p : TlbE → Bool) : State :=
  let go (t : Tab (List TlbE)) : Tab (List TlbE) :=
    t.filterMap fun e =>
      let l := e.2.filter fun x => !p x
      if l = [] then none else some (e.1, l)
  { s with l1tlb := go s.l1tlb, cltlb := go s.cltlb }

/-- TINV.all (R398). -/
def execTinvAll (s : State) : Host.Outcome State Fault Refusal :=
  .next (s.opTable [] [] (fun _ _ => true) fun s => (s.dropTlb fun _ => true).doneM 4).noPark

/-- TINV.ctx ga (R398). -/
def execTinvCtx (a : BitVec 5) (s : State) : Host.Outcome State Fault Refusal :=
  let key (s : State) : Nat := (s.b.gpr a.toNat).toNat % 4096
  .next (s.opTable [.g a.toNat] [] (fun s k => k == key s) fun s =>
    (s.dropTlb fun e => e.ctx == key s).doneM 4).noPark

/-- TINV.page ga, gb (R398). -/
def execTinvPage (a b : BitVec 5) (s : State) : Host.Outcome State Fault Refusal :=
  let key (s : State) : Nat := (s.b.gpr a.toNat).toNat % 4096
  .next (s.opTable [.g a.toNat, .g b.toNat] [] (fun s k => k == key s) fun s =>
    let va := (s.b.gpr b.toNat).toNat
    (s.dropTlb fun e => e.ctx == key s && e.va == va / 2 ^ e.bits).doneM 4).noPark

/-! ### EXTW, R396 -/

/-- An entry of every held copy of a table, in cores and in engine commands, becomes the record. -/
def State.updateHeld (s : State) (pa v : Nat) : State :=
  let base := pa / 2048 * 2048
  let i := pa % 2048 / 32
  let upd (l : List Nat) : List Nat := modNth (fun _ => v) l i
  { s with
    held := s.held.map fun e => (e.1, e.2.map fun h => if h.base = base then { h with ents := upd h.ents } else h)
    cmds := s.cmds.map fun e => (e.1, e.2.map fun c =>
      if xtabBase c.xtab = base then { c with exts := c.exts.map upd } else c) }

/-- EXTW ga, gb (R396). An entry in the spill log of a valid region is no place for it: exception 0x04 with REASON PERM, with the
physical address in EADDR (10_updates R246; assumption 55). -/
def execExtw (a b : BitVec 5) (s : State) : Host.Outcome State Fault Refusal :=
  .next (s.opTable [.g a.toNat, .g b.toNat] [.g a.toNat] (fun _ _ => true) fun s =>
    let pa := (s.b.gpr a.toNat).toNat
    s.readRecord .record (s.b.gpr b.toNat).toNat 32 false fun s w _ _ =>
      let out (s : State) (v : Word) : Res := .done (s.setB ((s.b.setGpr a.toNat v).advanceM 4))
      let past := bitAt (extDw w 0) 0 && 2 ^ 54 < (fld (extDw w 2) 53 16 + fld (extDw w 1) 38 0) * 2 ^ 16
      if pa % 32 ≠ 0 ∨ 2 ^ 54 ≤ pa ∨ s.ownTier pa = false ∨ past = true then out s 1
      else if s.inLog (paLocal pa) then .done (s.raise 4 0 pa)
      else out (((s.sysWrite (paLocal pa) 32 w 2 (.core (coreOf s.cur))).updateHeld pa w).preAcquire s.cur 2) 0)

/-! ### URTW, R406 -/

/-- Dword `i` of a record. -/
def dwOf (w i : Nat) : Nat := fld w (64 * i + 63) (64 * i)

/-- Region and log of an entry as physical spans. -/
def Region.spans (r : Region) : (Nat × Nat) × (Nat × Nat) :=
  ((r.base, r.len), (r.logBase, r.logLen * 48))

/-- A record is refused (R406). -/
def State.regionRefused (s : State) (n : Nat) (r : Region) : Bool :=
  let meet (x y : Nat × Nat) : Bool := spansMeet x.1 x.2 y.1 y.2
  let (g, l) := r.spans
  r.valid && (!updRow r.op r.etype || r.len == 0 || !s.spanOwn g.1 g.2 || (r.logLen != 0 && !s.spanOwn l.1 l.2) ||
    meet g l || s.regions.any fun e =>
      let (g', l') := e.2.spans
      e.1 != n && e.2.valid && (meet g g' || meet g l' || meet l g' || meet l l'))

/-- URTW ga, gb (R406). -/
def execUrtw (a b : BitVec 5) (s : State) : Host.Outcome State Fault Refusal :=
  .next (s.opTable [.g a.toNat, .g b.toNat] [.g a.toNat] (fun _ _ => false) fun s =>
    let n := (s.b.gpr a.toNat).toNat % 256
    s.readRecord .record (s.b.gpr b.toNat).toNat 32 false fun s w _ _ =>
      let out (s : State) (v : Word) : Res := .done (s.setB ((s.b.setGpr a.toNat v).advanceM 4))
      let r : Region := { d0 := dwOf w 0, d1 := dwOf w 1, d2 := dwOf w 2, d3 := dwOf w 3 }
      if s.regionRefused n r then out s 1
      else
        let s := if (s.region n).valid then s.applyRegion n else s
        let s := { s with regions := Tab.set {} s.regions n r }
        out (if r.valid then { s with regstat := Tab.set 0 s.regstat n 0 } else s) 0).noPark

/-! ### KEYOP, R399 to R402, R185 -/

/-- Write a key slot. -/
def State.setKey (s : State) (n : Nat) (k : KeySlot) : State :=
  { s with keys := Tab.ins n k (Tab.del s.keys n) }

/-- create: a new key, version 0. -/
def State.keyCreate (s : State) (n : Nat) : Nat × State :=
  let k := s.key n
  if n = 0 || keyLive k then (1, s)
  else
    (0, { (s.setKey n { k with state := .active, ver := false, held := [s.nextVer], seen := false }) with
      nextVer := s.nextVer + 1 })

/-- rotate: writes go on under the next version. -/
def State.keyRotate (s : State) (n : Nat) : Nat × State :=
  let k := s.key n
  if n = 0 then (1, s)
  else match k.state with
    | .active =>
      (0, { (s.setKey n { k with state := .rotating, held := s.nextVer :: k.held, seen := false }) with
        nextVer := s.nextVer + 1 })
    | .rotating => (2, s)
    | _ => (1, s)

/-- The lines of a slot are dropped from every cache, dirty ones without write-back, with the errors of their SRAM words and the updates
pending for them (R185, R255). -/
def State.dropKeyLines (s : State) (n : Nat) : State :=
  let mine (l : Nat) : Bool := match (s.line l).key with | some t => t.slot == n | none => false
  let lines := (s.lines.map (·.1)).filter mine
  let s := lines.foldl State.restoreLine (lines.foldl State.dropLine s)
  { s with
    wpoison := lines.foldl (fun t l => clearWords t (l * 64) 64) s.wpoison
    hostLines := s.hostLines.filter fun l => !lines.contains l
    caches := s.caches.drop lines.contains }

/-- destroy (R185). -/
def State.keyDestroy (s : State) (n : Nat) : Nat × State :=
  let k := s.key n
  if n = 0 || !keyLive k then (1, s)
  else (0, (s.dropKeyLines n).setKey n { k with state := .destroyed, held := [], seen := false })

/-- query. -/
def KeySlot.word (k : KeySlot) : Nat :=
  (match k.state with | .empty => 0 | .active => 1 | .rotating => 2 | .destroyed => 3) + bit01 k.ver * 4
    + k.rotations % 2 ^ 32 * 2 ^ 32

/-- One key operation: create, rotate and destroy act as fences (R402). -/
def State.opKey (s : State) (d a : BitVec 5) (fence : Bool) (f : State → Nat → Nat × State) : State :=
  s.privileged fun s => s.issue [.g a.toNat] [.g d.toNat] fun s => s.gate fun s =>
    let go (s : State) : Res :=
      let (v, s) := f s ((s.b.gpr a.toNat).toNat % 4096)
      .done (s.setB ((s.b.setGpr d.toNat (BitVec.ofNat 64 v)).advanceM 4))
    (if fence then s.fenced go else go s)

/-- KEYOP.create gd, ga (R402). -/
def execKeyopCreate (d a : BitVec 5) (s : State) : Host.Outcome State Fault Refusal :=
  .next (s.opKey d a true State.keyCreate).noPark
/-- KEYOP.rotate gd, ga (R402). -/
def execKeyopRotate (d a : BitVec 5) (s : State) : Host.Outcome State Fault Refusal :=
  .next (s.opKey d a true State.keyRotate).noPark
/-- KEYOP.destroy gd, ga (R402). -/
def execKeyopDestroy (d a : BitVec 5) (s : State) : Host.Outcome State Fault Refusal :=
  .next (s.opKey d a true State.keyDestroy).noPark
/-- KEYOP.query gd, ga (R402). -/
def execKeyopQuery (d a : BitVec 5) (s : State) : Host.Outcome State Fault Refusal :=
  .next (s.opKey d a false fun s n => ((s.key n).word, s)).noPark

/-! ### The patrol scrub, R442 and R401 -/

/-- Lines of both tiers. -/
def tierLines : Nat := 2 ^ 35

/-- One line of a pass (R442). A line that a cache holds dirty is skipped. A line whose error cannot be corrected, whose tag does not
match or whose key is no longer held is counted and written back poisoned (07_memories R180), under the key that a write of the
scheduler takes where its own is gone (assumption 56). A line that carries the old version of a ROTATING slot takes its next version,
and no value changes. -/
def State.patrolLine (s : State) (l : Nat) : State :=
  let m := s.line l
  let put (m : LineMeta) (s : State) : State := { s with lines := Tab.set {} s.lines l m }
  let count : State := s.bump 1 (homeSlice (l * 64)) 9 1
  if (Tab.get none s.dirty l).isSome then s
  else if !s.lineReadable l then put { poison := true, key := some (s.sysTag l) } count
  else if !m.poison && (m.err == 1 || m.err == 2) then
    put (if s.caches.holds l then { m with err := 3 } else { m with poison := true, err := 0 }) count
  else match m.key with
    | some t =>
      if (s.key t.slot).state == .rotating && t.ver != (s.key t.slot).held.headD 0 then put { m with key := some (s.tagOf t.slot) } s else s
    | none => s

/-- A pass begins: the rotations under way end with it. -/
def State.passBegins (s : State) : State :=
  { s with
    scrubActive := true
    keys := s.keys.map fun e => (e.1, if e.2.state = .rotating then { e.2 with seen := true } else e.2) }

/-- A pass ends (R399): dirty lines of an old version leave under the next one. -/
def State.passEnds (s : State) : State :=
  let ends (k : KeySlot) : Bool := k.state == .rotating && k.seen
  let fix (m : LineMeta) : LineMeta := match m.key with
    | some t => if ends (s.key t.slot) && (s.key t.slot).held.contains t.ver then { m with key := some (s.tagOf t.slot) } else m
    | none => m
  { s with
    lines := s.lines.map fun e => (e.1, fix e.2)
    dirty := s.dirty.map fun e => (e.1, e.2.map fun b => { b with info := fix b.info })
    keys := s.keys.map fun e => (e.1, if ends e.2 then
      { e.2 with state := .active, ver := !e.2.ver, held := e.2.held.take 1, rotations := e.2.rotations + 1, seen := false }
      else e.2)
    scrubActive := false
    scrubPasses := (s.scrubPasses + 1) % 2 ^ 32
    patrol := 0 }

/-- PATROL_STEP: the scrub visits its next line (R442). -/
def execPatrolStep (s : State) : Host.Outcome State Fault Refusal :=
  .next (let s := if s.patrol = 0 then s.passBegins else s
    let s := s.patrolLine s.patrol
    if s.patrol + 1 = tierLines then s.passEnds else { s with patrol := s.patrol + 1 })

/-! ### The region tree, R409 to R411 and R460 -/

/-- The 16 dwords of an RCB as memory holds them. -/
def State.rcbWords (s : State) (pa : Nat) : List Nat := tabulate 16 fun i => s.num (paLocal pa + 8 * i) 8

/-- A place where an RCB may lie (R460). -/
def State.rcbPlace (s : State) (pa : Nat) : Bool := pa % 128 == 0 && pa < 2 ^ 54 && s.ownTier pa

/-- An RCB is read, and held from then on (R411); false when it reads as poison, and what was held of it stays (assumption 26). -/
def State.readRcb (s : State) (pa : Nat) : Bool × State :=
  let s := s.sysRead (paLocal pa) 128 3
  if s.anyPoison (paLocal pa) 128 3 then (false, s) else (true, { s with rcbs := Tab.set [] s.rcbs pa (s.rcbWords pa) })

/-- Read the RCBs from a node to the root, and the number of the first condition of R460, 1 or 2, that fails. An RCB that reads as
poison leads to no parent (assumption 26). -/
def State.readPath (s : State) (pa steps : Nat) : Option Nat × State :=
  let root := s.rcbptr / 128 * 128
  match steps with
  | 0 => (some 1, s)
  | n + 1 =>
    if !s.rcbPlace pa then (some 2, s)
    else match s.readRcb pa with
      | (false, s) => (some 1, s)
      | (true, s) =>
        let up := (s.rcbWords pa).headD 0
        if pa = root then (if up = 0 then (none, s) else (some 2, s))
        else if up = 0 then (some 1, s)
        else s.readPath up n

/-- The first condition of R460 that a leaf fails, if any, with the state that its reads leave. -/
def State.checkLeaf (s : State) (leaf : Nat) : Option Nat × State :=
  if !bitAt s.rcbptr 0 then (some 1, s)
  else match s.readPath leaf 65 with
    | (some n, s) => (some n, s)
    | (none, s) =>
      if !s.windowOk leaf then (some 3, s)
      else if s.leaves.any fun x => x != leaf && s.doorbell x == s.doorbell leaf then (some 4, s)
      else (none, s)

/-- Read a leaf and its path. A read that finds it not usable gives its launches no other context: what the scheduler held of its
tree stays (15_counters R371; assumption 57). -/
def State.readLeaf (s : State) (leaf : Nat) : Option Nat × State :=
  match s.checkLeaf leaf with
  | (some n, t) => (some n, { t with rcbs := s.rcbs })
  | r => r

/-- The leaf is usable; otherwise it is not known and a record of kind TREE is written (R460). -/
def State.useLeaf (s : State) (leaf : Nat) : Bool × State :=
  match s.readLeaf leaf with
  | (none, s) => (true, s)
  | (some n, s) =>
    (false, { s with leaves := s.leaves.filter (· != leaf) }.faultqRecord { kind := 0x0d, cause := n, leaf := leaf })

/-- The CTL of an RCB is read. -/
def State.leafRead (s : State) (pa : Nat) : State := if s.rcbPlace pa then s.sysRead (paLocal pa) 16 1 else s

/-- An aligned RCB of this package with LEAF = 1, once its CTL is read; one that reads as poison is none (R400). -/
def State.isLeaf (s : State) (pa : Nat) : Bool :=
  s.rcbPlace pa && !s.anyPoison (paLocal pa) 16 1 && bitAt (s.num (paLocal pa + 8) 8) 0

/-- Slot `n` of a leaf's launch queue (R414). -/
def State.launchSlot (s : State) (leaf n : Nat) : Nat :=
  s.rcb leaf 11 / 64 * 64 + n % 2 ^ Nat.min (fld (s.rcb leaf 12) 4 0) 16 * 64

/-- Append a launch record to a leaf's queue: 0 DONE, 1 REFUSED, 2 FULL (R417, R419). A ring outside the tiers of this package, or in a
spill log, refuses it (assumption 72). The writes are those of the thread of LAUNCH, or the scheduler's (08_ordering R187). -/
def State.appendLaunch (s : State) (leaf rcd : Nat) (by' : By := .home) : Nat × State :=
  let s := s.leafRead leaf
  if !s.isLeaf leaf then (1, s)
  else match s.useLeaf leaf with
    | (false, s) => (1, s)
    | (true, s) =>
      let ptr := s.num (paLocal leaf + 0x68) 8
      let len := 2 ^ Nat.min (fld (s.rcb leaf 12) 4 0) 16
      let tail := ptr % 2 ^ 32
      let head := ptr / 2 ^ 32
      if len ≤ (tail + 2 ^ 32 - head) % 2 ^ 32 then (2, s)
      else if !s.recPlace (s.launchSlot leaf tail) then (1, s)
      else
        let s := s.sysWrite (paLocal (s.launchSlot leaf tail)) 64 rcd 2 by'
        let s := s.sysWrite (paLocal leaf + 0x68) 4 ((tail + 1) % 2 ^ 32) 2 by'
        let s := { s with leaves := if s.leaves.contains leaf then s.leaves else leaf :: s.leaves }
        (0, s.semSignal (s.doorbell leaf) 1)

/-- LAUNCH ga (R417). -/
def execLaunch (a : BitVec 5) (s : State) : Host.Outcome State Fault Refusal :=
  .next (s.opTable [.g a.toNat] [.g a.toNat] (fun _ _ => false) fun s =>
    s.readRecord .record (s.b.gpr a.toNat).toNat 128 true fun s w _ _ =>
      let (v, s) := s.appendLaunch (w % 2 ^ 64) (w / 2 ^ 512) (.core (coreOf s.cur))
      .done (s.setB ((s.b.setGpr a.toNat (BitVec.ofNat 64 v)).advanceM 4))).noPark

end Sys2Proof.Machine
end

