-- ==== Sys2Proof/Machine/Image.lean ====
section
/-! DEFINITION. Configuration words and Vysen images: which words are refused and how the part reads an image (03_encoding R77
to R81; 13_fabric R313, R314, R320, R323, R324, R327, R329 to R347; 14_matrix R352; 17_work R418). -/
namespace Sys2Proof.Machine

/-! ### Stage words, R77 to R81 -/

/-- Types that nodes name: F32, F16 and BF16; the integers; F32, I32 and U32; every type of R320. -/
def etFloats : List Nat := [4, 5, 6]
def etInts : List Nat := [0, 1, 2, 0xc, 0xd, 0xe]
def etWide : List Nat := [4, 2, 0xe]
def etAll : List Nat := [0, 1, 2, 4, 5, 6, 8, 9, 0xa, 0xb, 0xc, 0xd, 0xe]

/-- What a node accepts: the number of its inputs, its types, whether EPOL may differ from ABSORB, and its other limits on
RM and PARAM. -/
structure NodeForm where
  inputs : Nat
  types : List Nat
  epol : Bool := false
  ok : Bool := true
  lanewise : Bool := false
  deriving DecidableEq, Repr

/-- The form of a node by its word; none for an opcode that is refused or is OFF or CONT (R79). -/
def nodeForm (w : Nat) : Option NodeForm :=
  let p := cPar w
  let rm := cRmc w
  let op := fld p 3 0
  let opOk := decide (op ≤ 8) && (decide (3 ≤ op) != (cEt w == 4)) && p / 32 == 0
  match cOpc w with
  | 1 | 2 | 3 | 7 | 8 | 0x0b => some { inputs := 2, types := etFloats, epol := true, lanewise := true }
  | 4 | 5 | 6 | 0x0c => some { inputs := 3, types := etFloats, epol := true, lanewise := true }
  | 9 | 0x0a => some { inputs := 1, types := etFloats, epol := true, lanewise := true }
  | 0x10 | 0x11 | 0x12 | 0x13 | 0x14 | 0x15 | 0x17 | 0x18 | 0x19 | 0x1a | 0x1b | 0x1c =>
    some { inputs := 2, types := etInts, epol := true, ok := rm == 0, lanewise := true }
  | 0x16 => some { inputs := 1, types := etInts, epol := true, ok := rm == 0, lanewise := true }
  | 0x1d => some { inputs := 2, types := etInts, epol := true, lanewise := true }
  | 0x20 =>
    some { inputs := 1, types := etAll, ok := etAll.contains op && p / 32 == 0 && (!bitAt p 4 || cEt w == 0xa) }
  | 0x21 =>
    if bitAt p 0 then some { inputs := 2, types := [5, 6, 1, 0xd], epol := true, ok := p == 1 }
    else some { inputs := 2, types := [0, 8, 9, 0xa, 0xb, 0xc], ok := p == 0 }
  | 0x22 =>
    if bitAt p 0 then some { inputs := 1, types := [4, 2], ok := p == 1 } else some { inputs := 1, types := etAll, ok := p == 0 }
  | 0x23 => some { inputs := 2, types := etFloats, epol := true, lanewise := true }
  | 0x28 | 0x29 | 0x2a | 0x2b | 0x2c => some { inputs := 1, types := [4], epol := true }
  | 0x30 => some { inputs := 1, types := etWide, epol := true, ok := opOk }
  | 0x31 =>
    let m := fld p 1 0
    some { inputs := if m = 0 then 2 else 1, types := etAll, epol := true,
           ok := m != 3 && (p &&& (if m = 1 then 0xf1 else 2)) == p && (m != 0 || p == 0) }
  | 0x32 => some { inputs := 1, types := etAll, epol := true, ok := p / 16 == 0 }
  | 0x33 => some { inputs := 1, types := etWide, epol := true, ok := opOk && !bitAt p 4 }
  | 0x38 => some { inputs := 1, types := etWide, ok := p / 4 == 0 }
  | 0x39 =>
    let f := cEt w == 4
    some { inputs := 2, types := etWide, ok := p / 32 == 0 && decide (op ≤ 7) && (if op = 0 ∨ op = 2 ∨ op = 3 then f else if op = 6 ∨ op = 7 then true else !f) }
  | 0x3a => some { inputs := 1, types := etWide, ok := decide (1 ≤ fld p 6 0 ∧ fld p 6 0 ≤ 64) && p / 512 == 0 }
  | 0x3b => some { inputs := 2, types := etAll, epol := true, lanewise := true }
  | 0x3c => some { inputs := 1, types := etAll, ok := p / 4 == 0 }
  | 0x3d => some { inputs := 1, types := [4], ok := p == 0 }
  | 0x3e => some { inputs := 1, types := etWide, ok := p / 2 == 0 }
  | 0x40 | 0x43 => some { inputs := 1, types := etAll, ok := p == 0 }
  | 0x41 => some { inputs := 2, types := etAll, epol := true, lanewise := true }
  | 0x42 => some { inputs := 3, types := etAll, ok := p == 0 }
  | _ => none

/-- A special function (R79). -/
def isSpecial (w : Nat) : Bool := 0x28 ≤ cOpc w && cOpc w ≤ 0x2c

/-- PARAM of a binary node with no CONST source and no REPLACE keeps to the fields of R324. A source SELF counts as one of its stream
inputs (assumption 63: R77 and R322 do not say). -/
def policyOk (f : NodeForm) (w : Nat) : Bool :=
  let ss := (List.range 3).map (cSrc w)
  let plain := f.lanewise && !ss.contains 5 && cEpol w != 2 && 2 ≤ (ss.filter (· != 0)).length
  !plain || (cPar w / 8 == 0 && (!bitAt (cPar w) 2 || cOpc w == 0x3b))

/-- The word of a stage is accepted, by itself (R77 to R79, R320, R323, R324, R331). A special function in stage 4 whose ROUTE sets NEXT,
which would name a stage below stage 5, is refused like stage 5 (assumption 64: the spec states stage 5 only). -/
def stageOk (stage w : Nat) : Bool :=
  if cOpc w = 0 ∨ cOpc w = 0xff then w % 2 ^ 56 == 0
  else match nodeForm w with
    | none => false
    | some f =>
      let ss := (List.range 3).map (cSrc w)
      f.types.contains (cEt w) && cRmc w < 6 && cEpol w != 3 && (f.epol || cEpol w == 0) && f.ok && policyOk f w
        && !ss.contains 7 && !(stage == 0 && ss.contains 1)
        && (List.range 3).all (fun i => (cSrc w i != 0) == decide (i < f.inputs))
        && !bitAt (cRoute w) 5 && (cRoute w != 0 || cOpc w == 0x43)
        && !(stage == 5 && (bitAt (cRoute w) 0 || isSpecial w)) && !(stage == 4 && isSpecial w && bitAt (cRoute w) 0)

/-! ### Scratch and array words, R80 and R346 -/

def uMode (w : Nat) : Nat := fld w 63 60
def uEt (w : Nat) : Nat := fld w 59 56
def uRm (w : Nat) : RMode := rmOf (fld w 55 53)
def uKop (w : Nat) : Nat := fld w 52 50
def uFeed (w : Nat) : Bool := bitAt w 49
def uReps (w : Nat) : Nat := fld w 47 32
def uLen (w : Nat) : Nat := fld w 31 16

/-- A scratch configuration word is accepted (R346): of the KEYED operators only FADD names its type. -/
def unitOk (w : Nat) : Bool :=
  let m := uMode w
  if m = 0 then w == 0
  else
    m < 6 && uEt w != 7 && uEt w != 0xf && (if m = 4 ∨ m = 5 then etWide.contains (uEt w) else true) && fld w 55 53 < 6
      && (m != 5 || uKop w != 0 || uEt w == 4)
      && (!uFeed w || m == 1 || m == 2) && !bitAt w 48 && (m != 2 || uReps w != 0) && 1 ≤ uLen w && uLen w ≤ 1024
      && w % 2 ^ 16 == 0

def aForm (w : Nat) : Nat := fld w 63 56
def aBuf (w : Nat) : Nat := fld w 47 46
/-- The code of the closing marker (R80). -/
def aClose (w : Nat) : Nat := match fld w 45 44 with | 0 => 1 | 1 => 2 | _ => 3
/-- The shadow interval, 0 for off (R80). -/
def aShadow (w : Nat) : Nat := match fld w 43 41 with | 1 => 64 | 2 => 256 | 3 => 1024 | 4 => 4096 | _ => 0
def aHalf (w : Nat) : Bool := bitAt w 40
/-- The array fires (R352): neither DRAIN nor ZERO. -/
def aMma (w : Nat) : Bool := aForm w < 0x10

/-- A matrix array word is accepted (R80). -/
def arrayOk (w : Nat) : Bool :=
  let a := fld w 55 52
  let b := fld w 51 48
  let types := match aForm w with
    | 1 => a == 6 && b == 6
    | 2 => a == 5 && b == 5
    | 3 => (a == 8 || a == 9) && (b == 8 || b == 9)
    | 4 => a == 0xa && b == 0xa
    | 5 => a == 0xb && b == 0xb
    | 6 | 0x10 | 0x11 => a == 0 && b == 0
    | _ => false
  types && aBuf w != 3 && fld w 45 44 != 3 && fld w 43 41 < 5 && w % 2 ^ 40 == 0 && (aMma w || aBuf w != 2)

/-- A configuration entry is accepted, by itself. -/
def wordOk (e : WordEnt) : Bool :=
  if e.unit < 8 then e.stage < 6 && stageOk e.stage e.word
  else if e.unit < 16 then e.stage == 0 && unitOk e.word
  else if e.unit = 16 then e.stage == 0 && arrayOk e.word
  else e.unit == 17 && e.stage == 0 && e.word < 2

/-! ### Wiring, R313 and R314 -/

/-- Output ports: VUi.OUTn, SUi.DOUT, EINn. -/
def outPort (c : Nat) : Bool :=
  (c < 64 && 3 ≤ c % 8 && c % 8 ≤ 6) || (64 ≤ c && c < 96 && c % 4 == 2) || (96 ≤ c && c < 104)
/-- Input ports: VUi.INn, SUi.DIN and KIN, EOUTn. -/
def inPort (c : Nat) : Bool :=
  (c < 64 && c % 8 < 3) || (64 ≤ c && c < 96 && c % 4 < 2) || (104 ≤ c && c < 112)

/-- Number of the edge port of a port of a relative page (R313). -/
def edgePort (page c : Nat) : Nat := page * 16 + (c - 96)

/-- DIR and EPORT of a binding. -/
def BindEnt.dir (b : BindEnt) : Nat := fld b.d0 63 62
def BindEnt.eport (b : BindEnt) : Nat := fld b.d0 15 0

/-- The binding of an edge port in a direction. -/
def Image.edge (m : Image) (port dir : Nat) : Option BindEnt :=
  m.binds.find? fun b => b.queue != 63 && b.eport == port && b.dir == dir

/-- The word of a unit of a relative page, 0 when the image gives none. -/
def Image.word (m : Image) (page unit stage : Nat) : Nat :=
  match m.words.find? fun e => e.page == page && e.unit == unit && e.stage == stage with
  | some e => e.word
  | none => 0

/-- The 32-bit words of a scratch unit's initial content (R347). -/
def initWords (v : Nat) : Tab Nat :=
  (List.range 16384).foldl (fun t i => Tab.set 0 t i (v / 2 ^ (32 * i) % 2 ^ 32)) []

/-- The initial content of scratch unit `u` of a page. -/
def Image.content (m : Image) (page u : Nat) : Tab Nat := match m.suinit.find? fun e => e.1 == page && e.2.1 == u with
  | some e => initWords e.2.2
  | none => []

/-- The page's image holds a matrix word (R313). -/
def Image.hasMa (m : Image) (page : Nat) : Bool := m.words.any fun e => e.page == page && e.unit == 16

/-- The image has an arc into, or out of, a port. -/
def Image.arcTo (m : Image) (page port : Nat) : Bool := m.arcs.any fun a => a.toPage == page && a.toPort == port
def Image.arcFrom (m : Image) (page port : Nat) : Bool := m.arcs.any fun a => a.fromPage == page && a.fromPort == port

/-- The first entry of a list that agrees under a key with one before it. -/
def repeated (key : α → Nat) (seen : List Nat) : List α → Option α
  | [] => none
  | x :: l => if seen.contains (key x) then some x else repeated key (key x :: seen) l

/-- An arc of an image is accepted (R313, R314, R418). -/
def Image.arcOk (m : Image) (a : ArcEnt) : Bool :=
  a.fromPage < m.pages && a.toPage < m.pages && outPort a.fromPort && inPort a.toPort && 1 ≤ a.slots && a.slots ≤ 64
    && (a.fromPort < 96 || (m.edge (edgePort a.fromPage a.fromPort) 1).isSome)
    && (a.toPort < 104 || (m.edge (edgePort a.toPage a.toPort) 2).isSome)
    && !(a.toPort < 64 && a.toPort % 8 == 2 && m.hasMa a.toPage)

/-- The first stage of vector unit `u`, with words `w`, that does not fit the others or the arcs of its page (R79, R314): it names a port
that a stage above it names, or one without an arc; it routes to a port without an arc; it is a special function without a CONT below
it, or a CONT below none (assumption 65: the spec states the former only). -/
def vuBad (arcTo arcFrom : Nat → Bool) (ma : Bool) (u : Nat) (w : Nat → Nat) : Option Nat :=
  let ports (n : Nat) : List Nat :=
    if cOpc (w n) = 0 ∨ cOpc (w n) = 0xff then []
    else ((List.range 3).map (cSrc (w n))).filter fun x => decide (2 ≤ x ∧ x ≤ 4)
  (List.range 6).find? fun n =>
    (ports n).any (fun x => (List.range n).any (fun m => (ports m).contains x) || !(arcTo (8 * u + (x - 2)) || (x == 4 && ma)))
      || (isSpecial (w n) && cOpc (w (n + 1)) != 0xff) || (cOpc (w n) == 0xff && !(n != 0 && isSpecial (w (n - 1))))
      || (List.range 4).any fun k => bitAt (cRoute (w n)) (k + 1) && !arcFrom (8 * u + 3 + k)

/-- Under an MMA form every scratch unit of the page feeds the array (R352): the first that does not. -/
def feedBad (array : Option Nat) (unit : Nat → Nat) : Option Nat :=
  match array with
  | some w => if aMma w then (List.range 8).find? fun i => !uFeed (unit i) else none
  | none => none

/-- A binding entry is accepted (R286 to R288, R418). -/
def Image.bindOk (m : Image) (dir : Nat) (b : BindEnt) : Bool :=
  (dir == 1 || dir == 2) && b.dir == dir
    && (if b.queue = 63 then dir == 2 else b.eport < 16 * m.pages && decide (8 ≤ b.eport % 16) == (dir == 2))

/-! ### Reading an image, R418 -/

/-- A refused image: CAUSE, WHERE and the physical address of the offending entry. -/
structure BadImage where
  cause : Nat := 0
  page : Nat := 0xffff
  addr : Nat
  deriving DecidableEq, Repr

/-- The entries of a section: `n` of `size` bytes from an address. -/
def State.entries (s : State) (a size n : Nat) : List (Nat × Nat) :=
  (List.range n).map fun i => (a + size * i, s.num (paLocal (a + size * i)) size)

/-- A configuration entry. -/
def wordEnt (page : Nat) (e : Nat × Nat) : WordEnt :=
  { page := page, unit := recFld e.2 8 1, stage := recFld e.2 9 1, word := recFld e.2 0 8, at' := e.1 }

/-- Bytes of an entry of a section by its TYPE. -/
def sectSize (t : Nat) : Option Nat :=
  match t with
  | 1 | 6 => some 16
  | 2 | 4 => some 8
  | 3 => some 32
  | 5 => some 128
  | 7 => some 1
  | _ => none

/-- One section is added to an image; `a` is the address of its entry. -/
def State.readSect (s : State) (pa len a : Nat) (m : Image) : Except BadImage Image :=
  let w := s.num (paLocal a) 32
  let t := recFld w 0 4
  let page := recFld w 4 4
  let off := recFld w 8 8
  let n := recFld w 16 8
  let id := recFld w 24 4
  match sectSize t with
  | none => .error { addr := a }
  | some z =>
    if len < off + n || n % z != 0 then .error { addr := a }
    else if (t = 1 ∨ t = 6 ∨ t = 7) ∧ m.pages ≤ page then .error { addr := a }
    else
      let es := s.entries (pa + off) z (n / z)
      match t with
      | 1 | 6 =>
        match es.find? fun e => recFld e.2 10 6 != 0 || !(t == 6 || wordOk (wordEnt page e)) with
        | some e => .error { page := page, addr := e.1 }
        | none =>
          let ws := es.map (wordEnt page)
          .ok (if t = 1 then { m with words := m.words ++ ws } else { m with rcf := m.rcf ++ ws.map fun x => (id, x), rcfIds := id :: m.rcfIds })
      | 2 =>
        let arc (e : Nat × Nat) : ArcEnt :=
          { fromPort := recFld e.2 0 1, fromPage := recFld e.2 1 1, toPort := recFld e.2 2 1, toPage := recFld e.2 3 1
            slots := fld e.2 38 32, at' := e.1 }
        match es.find? fun e => fld e.2 63 39 != 0 with
        | some e => .error { addr := e.1 }
        | none => .ok { m with arcs := m.arcs ++ es.map arc }
      | 3 =>
        let ent (e : Nat × Nat) : BindEnt :=
          { queue := fld e.2 5 0, d0 := recFld e.2 8 8, d1 := recFld e.2 16 8, peer := recFld e.2 24 8, at' := e.1 }
        match es.find? fun e => !m.bindOk (fld e.2 63 62) (ent e) with
        | some e => .error { addr := e.1 }
        | none => .ok { m with binds := m.binds ++ es.map ent }
      | 4 => .ok { m with start := m.start ++ es.map (·.2) }
      | 5 => if es.length = 1 && m.succ.isEmpty then .ok { m with succ := es } else .error { addr := a }
      | _ =>
        if 7 < id || 65536 < n then .error { page := page, addr := a }
        else .ok { m with suinit := m.suinit ++ [(page, id, s.num (paLocal (pa + off)) n)] }

/-- The sections of an image in order. -/
def State.readSects (s : State) (pa len : Nat) : List Nat → Image → Except BadImage Image
  | [], m => .ok m
  | a :: l, m => match s.readSect pa len a m with
    | .ok m => s.readSects pa len l m
    | .error e => .error e

/-- The entry that gives the word of a unit of a page, or the container's address `pa`. -/
def Image.placeOf (m : Image) (page unit stage pa : Nat) : Nat :=
  match m.words.find? fun e => e.page == page && e.unit == unit && e.stage == stage with
  | some e => e.at'
  | none => pa

/-- The first word of a page that does not fit the page's other words or its arcs. -/
def Image.pageBad (m : Image) (pa page : Nat) : Option BadImage :=
  let array := if m.hasMa page then some (m.word page 16 0) else none
  match feedBad array fun i => m.word page (8 + i) 0 with
  | some i => some { page := page, addr := m.placeOf page (8 + i) 0 (m.placeOf page 16 0 pa) }
  | none => (List.range 8).findSome? fun u =>
      (vuBad (m.arcTo page) (m.arcFrom page) (m.hasMa page) u (m.word page u)).map fun n =>
        { page := page, addr := m.placeOf page u n pa }

/-- The container's sections agree with each other (R81, R418); what offends is an arc, a word or a binding (R413). -/
def Image.check (m : Image) (pa : Nat) : Except BadImage Image :=
  match m.arcs.find? fun a => !m.arcOk a with
  | some a => .error { page := a.toPage, addr := a.at' }
  | none =>
    match repeated (fun a => a.toPage * 128 + a.toPort) [] m.arcs, repeated (fun a => a.fromPage * 128 + a.fromPort) [] m.arcs,
      repeated (fun e => e.page * 1024 + e.unit * 8 + e.stage) [] m.words, repeated (·.queue) [] m.binds,
      repeated (·.eport) [] (m.binds.filter fun b => b.queue != 63) with
    | some a, _, _, _, _ | none, some a, _, _, _ => .error { page := a.toPage, addr := a.at' }
    | none, none, some e, _, _ => .error { page := e.page, addr := e.at' }
    | none, none, none, some b, _ | none, none, none, none, some b => .error { addr := b.at' }
    | none, none, none, none, none => match (List.range m.pages).findSome? (m.pageBad pa) with
      | some e => .error e
      | none => .ok m

/-- The first poisoned line of [a, a + 64 n). -/
def State.firstBadLine (s : State) (a n : Nat) : Option Nat :=
  match n with
  | 0 => none
  | k + 1 => if (s.poisonAt (paLocal a) 64).isSome then some a else s.firstBadLine (a + 64) k

/-- Read the image at a physical address for a launch of `t` initial continuations a group. -/
def State.readImage (s : State) (pa t : Nat) : Except BadImage Image :=
  let local' := pa % 64 == 0 && pa / 2 ^ 42 == s.pkg && isTier (paLocal pa)
  if !local' then .error { addr := pa }
  else if (s.poisonAt (paLocal pa) 64).isSome then .error { cause := 1, addr := pa }
  else
    let h := s.num (paLocal pa) 64
    let ns := recFld h 4 4
    let len := recFld h 16 8
    let p := recFld h 8 4
    if recFld h 0 4 != 1 || ns = 0 || 4096 < ns || p = 0 || 144 < p || len < 64 + 32 * ns || !inOneTier (paLocal pa) len then
      .error { addr := pa }
    else match s.firstBadLine pa (cdiv len 64) with
      | some a => .error { cause := 1, addr := a }
      | none =>
        match s.readSects pa len ((List.range ns).map fun i => pa + 64 + 32 * i) { pages := p } with
        | .error e => .error e
        | .ok m =>
          if m.start.isEmpty || (m.start.length != 1 && m.start.length < t) then
            let start := ((List.range ns).map fun i => pa + 64 + 32 * i).find? fun a => s.num (paLocal a) 4 == 4
            .error { addr := start.getD pa }
          else m.check pa

end Sys2Proof.Machine
end

