-- ==== Sys2Proof/Machine/Graph.lean ====
section
/-! DEFINITION. What the units of a fabric page share: graph faults, arcs and the page network, the edge ports and the queues
behind them, and the rollback of a group (01_machine R17; 12_queues R306 to R310; 13_fabric R313 to R315, R326, R328, R345,
R349, R351; 14_matrix R368). -/
namespace Sys2Proof.Machine

/-! ### Pages -/

def State.page (s : State) (p : Nat) : Option Page := Tab.get none s.pages p
def State.setPage (s : State) (p : Nat) (x : Page) : State := { s with pages := Tab.set none s.pages p (some x) }
def Page.stage (x : Page) (u n : Nat) : Stage := Tab.get {} x.stages (u * 6 + n)
def Page.setStage (x : Page) (u n : Nat) (t : Stage) : Page := { x with stages := Tab.set {} x.stages (u * 6 + n) t }
def Page.unit (x : Page) (u : Nat) : ScratchUnit := Tab.get {} x.units u
def Page.setUnit (x : Page) (u : Nat) (t : ScratchUnit) : Page := { x with units := Tab.set {} x.units u t }

/-- The banks that run a continuation of a group. -/
def State.banksOf (s : State) (gid : Nat) : List Nat :=
  (s.banks.filter fun e => match e.2.cont with | some c => contGroup c == gid | none => false).map (·.1)

/-- A graph fault (R17, R328): the first one of a group counts. The group is FAULTED, STAT.GRAPH is set in every bank that
runs a continuation of it, and a record of kind GRAPH is written. -/
def State.graphFaultInfo (s : State) (gid page cause info : Nat) : State :=
  let g := s.group gid
  if g.fault.isSome then s
  else
    let st : GroupState := match g.st with
      | .resident | .parked | .parking | .placing => .faulted
      | x => x
    let s := s.setGroup gid { g with fault := some (page, cause), st := st }
    let s := (s.banksOf gid).foldl (fun s r => s.setBank r ((s.bank r).statBit 19 true)) s
    s.domainRecord gid { kind := 2, cause := cause, loc := page, info := info }

def State.graphFault (s : State) (gid page cause : Nat) : State := s.graphFaultInfo gid page cause 0

/-- A group's graph runs: it is RESIDENT and has raised no fault (R351, R421). -/
def State.graphRuns (s : State) (gid : Nat) : Bool :=
  let g := s.group gid
  g.st == .resident && g.fault.isNone

/-! ### Arcs, R314 and R315 -/

def State.arc (s : State) (k : Nat) : Option Arc := Tab.get none s.arcs k
def State.setArc (s : State) (k : Nat) (a : Arc) : State := { s with arcs := Tab.set none s.arcs k (some a) }
/-- Key of the arc into a port of a page. -/
def arcKey (page port : Nat) : Nat := page * 128 + port

/-- The arc out of a port of a page. -/
def State.arcOut (s : State) (page port : Nat) : Option (Nat × Arc) :=
  s.arcs.findSome? fun e => match e.2 with
    | some a => if a.page == page && a.port == port then some (e.1, a) else none
    | none => none

/-- The beats of an arc that are still in the page network. -/
def State.inNet (s : State) (k : Nat) : List Packet := s.net.filter fun x => x.arc == k

/-- An arc has a free slot; a beat on its way holds one. -/
def State.arcRoom (s : State) (k : Nat) (a : Arc) : Bool := a.beats.length + (s.inNet k).length < a.slots

/-- A beat enters an arc; one to another page may take the page network (R349). -/
def State.sendArc (s : State) (k : Nat) (b : Beat) : State :=
  match s.arc k with
  | none => s
  | some a =>
    let a := { a with since := if b.has 3 then 1 else if a.since = 0 then 0 else a.since + 1 }
    if k / 128 ≠ a.page ∧ (s.late ∨ (s.inNet k) ≠ []) then
      let s := s.setArc k a
      { s with net := s.net ++ [{ arc := k, beat := b, page := a.page, since := s.cycle }] }
    else s.setArc k { a with beats := a.beats ++ [b] }

/-- The head of the arc into a port. -/
def State.arcHead (s : State) (page port : Nat) : Option Beat := match s.arc (arcKey page port) with
  | some a => a.beats.head?
  | none => none

/-- A beat leaves the arc into a port. -/
def State.takeArc (s : State) (page port : Nat) : State :=
  match s.arc (arcKey page port) with
  | some a => s.setArc (arcKey page port) { a with beats := a.beats.drop 1 }
  | none => s

/-- The receiving port puts the packets of an arc that have arrived in send order into its slots; `all` says that every
packet of it arrives. -/
def State.deliverArc (s : State) (k : Nat) (all : Bool) : State :=
  match s.arc k with
  | none => s
  | some a =>
    let ps := s.inNet k
    let go := if all then ps else ps.takeWhile (·.arrived)
    let rest := ps.drop go.length
    { (s.setArc k { a with beats := a.beats ++ go.map (·.beat) }) with
      net := s.net.filter (fun x => x.arc != k) ++ rest }

/-- The switch behind the link that a packet at the switch of `page` takes towards that of `goal` in dimension order: the other die, then
the column, then the row. The spec lays the switches of a die in a mesh and gives no coordinates: the model has three rows of six, and
a die-to-die link joins the switches of one local number (R349; assumption 22). -/
def nextSwitch (page goal : Nat) : Nat :=
  if page / 18 ≠ goal / 18 then goal / 18 * 18 + page % 18
  else if page % 18 % 6 < goal % 18 % 6 then page + 1
  else if goal % 18 % 6 < page % 18 % 6 then page - 1
  else if page % 18 / 6 < goal % 18 / 6 then page + 6
  else if goal % 18 / 6 < page % 18 / 6 then page - 6
  else page

/-- A link joins two switches. -/
def linked (p q : Nat) : Bool := decide (q < 144) && p != q && nextSwitch p q == q

/-- The link that a packet takes next on the escape lane. -/
def Packet.link (x : Packet) : Nat × Nat := (x.page, nextSwitch x.page (x.arc / 128))

/-- The one packet buffer that the escape lane of a switch has for a link holds no packet (R349). -/
def laneFree (net : List Packet) (link : Nat × Nat) : Bool := net.all fun y => !y.lane || y.arrived || y.link != link

/-- A packet passes a link: at the switch of its receiving port it has arrived. -/
def Packet.pass (x : Packet) (page cycle : Nat) : Packet :=
  { x with page := page, since := cycle, arrived := page == x.arc / 128 }

/-- The packets on the escape lane at the switches of a die pass their next link in turn, each into the buffer behind it when that is
free; `seen` is what stands before them. -/
def laneStep (die cycle : Nat) (seen : List Packet) : List Packet → List Packet
  | [] => seen
  | x :: l =>
    let y := x.pass x.link.2 cycle
    let go := x.lane && !x.arrived && x.page / 18 == die && (y.arrived || laneFree (seen ++ l) y.link)
    laneStep die cycle (seen ++ [if go then y else x]) l

/-- The packets to a page arrive; while the turn holds the network back, only those that have passed their links do (R349). -/
def State.settlePage (s : State) (page : Nat) : State :=
  (s.net.map (·.arc)).foldl (fun s k => if k / 128 = page then s.deliverArc k !s.late else s) s

/-! ### Edge ports, R306 to R310 and R313 -/

/-- The queue of a group in a direction at an edge port. -/
def State.edgeQueue (s : State) (gid port dir : Nat) : Option Nat :=
  ((List.range 63).map (queueKey gid)).find? fun k =>
    let q := s.queue k
    q.dir == dir && fld q.d0 15 0 == port

/-- Whether the last token up to and including a beat is other than an EOI. -/
def Beat.leavesOpen (b : Beat) (old : Bool) : Bool :=
  match (List.range 16).reverse.find? fun i => !(b.get i).empty with
  | some i => !((b.get i).mark && (b.get i).code == 1)
  | none => old

/-- A consumed beat enters the replay window (R306). -/
def Queue.windowed (q : Queue) (b : Beat) : Queue :=
  if q.winBeats = 0 then q
  else if b.has 3 then { q with window := [b], d0 := putFld q.d0 60 60 0 }
  else if q.window.isEmpty then q
  else if q.winBeats ≤ q.window.length then { q with window := q.window.drop 1 ++ [b], d0 := putFld q.d0 60 60 1 }
  else { q with window := q.window ++ [b] }

/-- The consuming end of a chain keeps count of the producer's window, and whether it overflowed (R306, R310). -/
def Queue.counted (q : Queue) (c : ChainIn) (b : Beat) : Queue :=
  if q.winBeats = 0 then q
  else if b.has 3 then { q with cin := some { c with wlen := 1 }, d0 := putFld q.d0 60 60 0 }
  else if c.wlen = 0 then q
  else if q.winBeats ≤ c.wlen then { q with d0 := putFld q.d0 60 60 1 }
  else { q with cin := some { c with wlen := c.wlen + 1 } }

/-- The graph consumes a beat of an A2X queue: the replay window, here or at the producer of a chain, follows. -/
def Queue.consumed (q : Queue) (b : Beat) : Queue :=
  let q := { q with opened := b.leavesOpen q.opened }
  match q.cin with
  | some c => q.counted c b
  | none => q.windowed b

/-- The consuming end of a chain grants credits and acknowledges, and asks for the beats to be replayed that its edge port's receive
buffer of four can take (R287, R310). -/
def State.chainGrant (s : State) (k : Nat) : State :=
  let q := s.queue k
  match q.cin with
  | some c =>
    let s := s.chainMsg k c.pkg c.chain (.chainAck c.seq (64 - q.occ))
    let n := Nat.min c.again (4 - q.replay.length)
    if n = 0 then s else s.chainMsg k c.pkg c.chain (.chainReplay c.next n)
  | none => s

/-- Beats of an A2X queue enter the arc of its EIN while it has free slots, at most `n`; beats to be replayed come first
and change no counter and no OCC (R287, R307). -/
def State.pumpIn (s : State) (k q n : Nat) : State :=
  match n with
  | 0 => s
  | n + 1 =>
    match s.arc k with
    | none => s
    | some a =>
      if !s.arcRoom k a then s
      else
        let x := s.queue q
        match x.replay with
        | b :: l => (((s.setQueue q { x with replay := l }).chainGrant q).sendArc k b).pumpIn k q n
        | [] =>
          if (match x.cin with | some c => decide (0 < c.again) | none => false) then s
          else match x.beats with
          | b :: l => (((s.setQueue q ({ x with beats := l }.consumed b)).chainGrant q).sendArc k b).pumpIn k q n
          | [] => s

/-- The graph pushes a beat into an X2A queue (R308): a beat that repeats one before a rollback is discarded. -/
def State.pushX2a (s : State) (q : Nat) (b : Beat) : State :=
  let x := s.queue q
  if 0 < x.discard then s.setQueue q { x with discard := x.discard - 1 }
  else (s.setQueue q { x with sinceTsm := if b.has 3 then 1 else x.sinceTsm + 1 }).pushBeats q [b]

/-- Beats of the arc into an EOUT enter its X2A queue, at most `n`; an ERR raises ERRSINK (R325). -/
def State.pumpOut (s : State) (gid page port q n : Nat) : State :=
  match n with
  | 0 => s
  | n + 1 =>
    match s.arcHead page port with
    | none => s
    | some b =>
      if b.has 5 then s.graphFault gid page 5
      else if (s.queue q).room = 0 && (s.queue q).discard = 0 then s
      else ((s.takeArc page port).pushX2a q b).pumpOut gid page port q n

/-- The edge ports and the network of a page do what they can. -/
def State.pump (s : State) (p : Nat) : State :=
  match s.page p with
  | none => s
  | some x =>
    if !s.graphRuns x.gid then s
    else
      let s := s.settlePage p
      let ein (s : State) (n : Nat) : State := match s.arcOut p (96 + n), s.edgeQueue x.gid (x.rel * 16 + n) 1 with
        | some (k, _), some q => if (s.queue q).cout.isSome then s else s.pumpIn k q 64
        | _, _ => s
      let eout (s : State) (n : Nat) : State := match s.edgeQueue x.gid (x.rel * 16 + 8 + n) 2 with
        | some q => if s.graphRuns x.gid then s.pumpOut x.gid p (104 + n) q 64 else s
        | none => s
      (List.range 8).foldl eout ((List.range 8).foldl ein s)

/-- The state after an event of a page, with the time noted if its graph did anything (R424). -/
def State.noteMoved (s t : State) (p : Nat) : State :=
  match s.page p with
  | some x => if s.pages = t.pages ∧ s.arcs = t.arcs ∧ s.queues = t.queues then t else t.stir x.gid
  | none => t

/-! ### Rollback, R307, R308, R326 and R368 -/

/-- Beats without those that entered since a TSM passed their producer, the last `since` of them; the lanes ahead of the
TSM stay. -/
def dropBehind (l : List Beat) (since : Nat) : List Beat :=
  let n := l.length - since
  l.take n ++ match l.drop n with
    | b :: _ => if b.has 3 && b.noMark.any then [b.noMark] else []
    | [] => []

/-- The output beats ahead of a TSM among them, with the lanes that stand ahead of it in its own beat. -/
def aheadOf : List (Nat × Beat) → List (Nat × Beat)
  | [] => []
  | (g, b) :: l => if !b.has 3 then (g, b) :: aheadOf l else if b.noMark.any then [(g, b.noMark)] else []

/-- A stage rolls back. If a TSM of its own is still to leave, its state is that of the TSM and the beats ahead of it stay; else it
returns to its snapshot, and keeps its state if no TSM has left it. `fed` says that a TSM has passed the stage above, so that what its
input register holds entered behind it (R326; assumption 30). -/
def Stage.rollback (t : Stage) (fed : Bool) : Stage :=
  let t := { t with inreg := t.inreg.bind fun b => (dropBehind [b] (bit01 (fed || b.has 3))).head? }
  if t.out.any fun x => x.2.has 3 then { t with out := aheadOf t.out }
  else match t.snap with
    | some (w, k) => { t with word := w, core := k, out := [] }
    | none => t

/-- A scratch unit rolls back: FIFO and DELAY drop the beats behind the TSM, the others undo their log (R326). -/
def ScratchUnit.rollback (u : ScratchUnit) : ScratchUnit :=
  if uMode u.word = 1 ∨ uMode u.word = 3 then
    let l := dropBehind (u.out ++ u.core.beats) u.core.since
    let u := { u with out := l.take u.out.length, core := { u.core with beats := l.drop u.out.length, since := 0 } }
    match u.snap with
    | some n => if n.word = u.word then u else { u with word := n.word, table := n.table, core := n.core, out := [] }
    | none => u
  else if u.out.any fun b => b.has 3 then { u with out := (aheadOf (u.out.map fun b => (0, b))).map (·.2) }
  else match u.snap with
    | some n => { u with word := n.word, table := n.table, core := n.core, out := [], log := 0 }
    | none => u

/-- A buffer that became OPEN after the snapshot is EMPTY again. -/
def AccBuf.rollback (b : AccBuf) : AccBuf := if b.opened then {} else b

/-- The items ahead of the last TSM. -/
def aheadOfTsm (l : List DrainItem) : List DrainItem :=
  let is : DrainItem → Bool
    | .mark 3 _ => true
    | _ => false
  match findIdx is l.reverse with
  | some i => l.take (l.length - i - 1)
  | none => l.filter fun x => match x with | .buf _ => true | .mark _ _ => false

/-- The array returns to its snapshot; a buffer that closed before it goes on draining (R368). -/
def Matrix.rollback (m : Matrix) (t : MaSnap) : Matrix :=
  let old (n : Nat) : AccBuf := if n = 0 then m.buf0 else m.buf1
  let keep : DrainItem → Bool
    | .buf n => !(old n).opened
    | .mark _ _ => true
  { m with
    word := t.word
    buf0 := m.buf0.rollback
    buf1 := m.buf1.rollback
    staged := m.staged.map fun _ => []
    marks := m.marks.map fun _ => none
    ended := m.ended.map fun _ => false
    fire := none
    items := (aheadOfTsm m.items).filter keep
    nextbuf := t.nextbuf
    shcnt := t.shcnt
    drow := if [m.buf0, m.buf1].any fun b => b.st == 3 && !b.opened then m.drow else 0
    err := none }

/-- The array has accepted a TSM and not yet forwarded it. -/
def Matrix.tsmPending (m : Matrix) : Bool := m.items.any fun x => match x with
  | .mark 3 _ => true
  | _ => false

/-- A page rolls back. -/
def Page.rollback (x : Page) : Page :=
  let keep := match x.ma with
    | some m => m.tsmPending
    | none => true
  let fed (k : Nat) : Bool :=
    let above := Tab.get {} x.stages (k - 1)
    k % 6 != 0 && (if cOpc above.word = 0xff then (Tab.get {} x.stages (k - 2)).snap.isSome else above.snap.isSome)
  { x with
    stages := x.stages.map fun e => (e.1, e.2.rollback (fed e.1))
    units := x.units.map fun e => (e.1, e.2.rollback)
    ma := x.ma.map fun m => match m.snap with
      | some t => m.rollback t
      | none => m
    drains := if keep then x.drains
      else x.drains.filterMap fun e => match e.2.bind fun b => (dropBehind [b] 1).head? with
        | some b => some (e.1, some b)
        | none => none }

/-- An arc and its packets roll back. -/
def State.rollbackArc (s : State) (k : Nat) : State :=
  match s.arc k with
  | none => s
  | some a =>
    let ps := s.inNet k
    let l := dropBehind (a.beats ++ ps.map (·.beat)) a.since
    { (s.setArc k { a with beats := l.take a.beats.length, since := 0 }) with
      net := s.net.filter (fun x => x.arc != k) ++ (ps.zip (l.drop a.beats.length)).map fun y => { y.1 with beat := y.2 } }

/-- The first beat of a window with the lanes ahead of its TSM lane EMPTY (R307). -/
def Beat.fromTsm (b : Beat) : Beat :=
  if b.marker.isSome then ofLanes fun i => if (b.get i).mark then b.get i else {} else b

/-- A queue replays its window, or has it replayed from the producer of its chain, or freezes the count of what it is to discard (R307, R308). -/
def Queue.rollback (q : Queue) : Queue :=
  if q.dir = 1 then
    match q.cin with
    | some c =>
      { q with replay := [], cin := some { c with again := c.wlen, next := (c.seq + 2 ^ 33 - q.occ - c.wlen) % 2 ^ 32 } }
    | none => { q with replay := match q.window with | b :: l => b.fromTsm :: l | [] => [] }
  else { q with discard := q.sinceTsm }

/-- A page of a group cannot roll back: the log that a unit keeps since a TSM left it overflowed (R326), an array has no snapshot, or a
buffer of it was OPEN at the snapshot. -/
def Page.stuck (x : Page) : Bool :=
  x.units.any (fun e => e.2.snap.isSome && !e.2.out.any (·.has 3) && decide (4096 < e.2.log)) || match x.ma with
    | some m => (match m.snap with
      | some t => t.st0 == 1 || t.st1 == 1
      | none => true)
    | none => false

/-- The pages of a group. -/
def State.pagesOf (s : State) (gid : Nat) : List Page :=
  s.pages.filterMap fun e => e.2.bind fun x => if x.gid = gid then some x else none

/-- An array of a group has a fire in progress. -/
def State.firing (s : State) (gid : Nat) : Bool :=
  (s.pagesOf gid).any fun x => match x.ma with | some m => m.fire.isSome | none => false

/-- An array of a group has met an uncorrectable error and waits for a fire to end before the group rolls back (R359). -/
def State.errWaits (s : State) (gid : Nat) : Bool :=
  (s.pagesOf gid).any fun x => match x.ma with | some m => m.err.isSome | none => false

/-- A group rolls back after an uncorrectable error that the array of a page consumed, and the rollback is counted, or it is impossible;
`lost` says that the error lies in a buffer that closed before the snapshot (R307, R367, R368). -/
def State.rollback (s : State) (gid page : Nat) (lost : Bool) : State :=
  let qs := ((List.range 64).map (queueKey gid)).filter fun k => !((s.queue k).dir == 1 && (s.queue k).cout.isSome)
  let ovf := qs.any fun k => (s.queue k).dir == 1 && bitAt (s.queue k).d0 60
  if lost || ovf || (s.pagesOf gid).any Page.stuck then s.graphFault gid page 0x0a
  else
    let s := s.bump 3 page 4 1
    let back (o : Option Page) : Option Page := match o with
      | some x => if x.gid = gid then some x.rollback else o
      | none => o
    let s := { s with pages := s.pages.map fun (e : Nat × Option Page) => (e.1, back e.2) }
    let mine (k : Nat) : Bool := match s.page (k / 128) with
      | some x => x.gid == gid
      | none => false
    let s := ((s.arcs.map Prod.fst).filter mine).foldl State.rollbackArc s
    qs.foldl (fun s k => if (s.queue k).dir = 0 then s else (s.setQueue k (s.queue k).rollback).chainGrant k) s

/-- An uncorrectable error of a page's array. A fire in progress anywhere in the group ends first (R359). -/
def State.arrayError (s : State) (gid page : Nat) (lost : Bool) : State :=
  let s := s.bump 3 page 6 1
  if !s.firing gid then s.rollback gid page lost
  else match s.page page with
    | some x => s.setPage page { x with ma := x.ma.map fun m => { m with err := some (lost || m.err.getD false) } }
    | none => s

/-- The last fire of a group that held a rollback back has ended. -/
def State.rollbackDue (s : State) (gid : Nat) : State :=
  let hit (e : Nat × Option Page) : Option (Nat × Bool) := e.2.bind fun x =>
    if x.gid = gid then (x.ma.bind fun m => m.err).map fun l => (e.1, l) else none
  match s.pages.findSome? hit with
  | some (p, lost) => if s.firing gid || !s.graphRuns gid then s else s.rollback gid p lost
  | none => s

end Sys2Proof.Machine
end

