-- ==== Sys2Proof/Machine/Matrix.lean ====
section
/-! DEFINITION. The matrix array of a page: feeds, fires, buffers, markers, drains, shadow checks and its uncorrectable errors
(14_matrix R352 to R370; 02_numbers R55, R56; 03_encoding R80; 13_fabric R327). -/
namespace Sys2Proof.Machine

/-! ### Operands, R353 to R355 -/

/-- Slab beats of one feed for a fire (R353, R355). -/
def groupBeats (w : Nat) : Nat := if aForm w = 5 then 40 else 32
/-- k-values of a cycle (R353). -/
def aWidth (w : Nat) : Nat := match aForm w with | 1 | 2 => 1 | 5 => 4 | _ => 2
/-- A feed, by the number of its scratch unit, is one of the A side (R352). -/
def isAFeed (w i : Nat) : Bool := decide (4 ≤ i) == aHalf w
/-- Element type of a side (R80). -/
def sideType (w : Nat) (a : Bool) : Nat := if a then fld w 55 52 else fld w 51 48
/-- The four feeds of a side. -/
def sideFeeds (w : Nat) (a : Bool) (l : List (List Beat)) : List (List Beat) :=
  if a == aHalf w then l.drop 4 else l.take 4

/-- Place of the data beat of a slab cycle in a feed's group. -/
def beatAt (w c : Nat) : Nat := if aForm w = 5 then c / 8 * 10 + 2 + c % 8 else c

/-- The code of row (or column) `r` at k-value `k`; none for an EMPTY operand (R354). -/
def operand (w : Nat) (a : Bool) (l : List (List Beat)) (r k : Nat) : Option Nat :=
  let p := aWidth w
  let b := ((sideFeeds w a l).getD (r / 32) []).getD (beatAt w (k / p)) emptyBeat
  let x := b.get (r % 32 / 2)
  let n := typeWidth (sideType w a)
  if x.data then some (x.val / 2 ^ (n * (r % 2 * p + k % p)) % 2 ^ n) else none

/-- The scale code of row (or column) `r` for block `q` of 32 k-values; none for an EMPTY lane (R355). -/
def scaleOf (w : Nat) (a : Bool) (l : List (List Beat)) (r q : Nat) : Option Nat :=
  let b := ((sideFeeds w a l).getD (r / 32) []).getD (q * 10 + r % 2) emptyBeat
  let x := b.get (r % 32 / 2)
  if x.scale then some (x.val % 256) else none

/-! ### Accumulation, R55 and R56 -/

/-- Exact sum; none for ∞ − ∞. -/
def sumExact (a b : Fv) : Option Fv :=
  match a, b with
  | .nan s, .nan t => some (.nan (s || t))
  | .nan s, _ => some (.nan s)
  | _, .nan t => some (.nan t)
  | .inf s, .inf t => if s = t then some (.inf s) else none
  | .inf s, .fin .. => some (.inf s)
  | .fin .., .inf t => some (.inf t)
  | .fin sa ma ea, .fin sb mb eb =>
    let (m, e) := addExact sa ma ea sb mb eb
    some (.fin (if m = 0 then ma == 0 && mb == 0 && sa && sb else decide (m < 0)) m.natAbs e)

/-- acc + q rounded once, or the default NaN with NV where q has no value. -/
def accAdd (acc : Nat) (q : Option Fv) : Nat × Nat :=
  match q with
  | none => (f32.nanc, nv)
  | some v => f32.add .rne v (f32.decode acc)

/-- The product of two operands, none where one is EMPTY. -/
def product (w : Nat) (l : List (List Beat)) (i j k : Nat) : Option (Option Fv) :=
  match operand w true l i k, operand w false l j k with
  | some a, some b => some (mulExact (decodeT (sideType w true) a) (decodeT (sideType w false) b))
  | _, _ => none

/-- The update of one element in one cycle of the single and paired forms. -/
def cycleStep (w : Nat) (l : List (List Beat)) (i j c acc : Nat) : Nat × Nat :=
  if aWidth w = 1 then
    match product w l i j c with
    | none => (acc, 0)
    | some p => accAdd acc p
  else
    match product w l i j (2 * c), product w l i j (2 * c + 1) with
    | none, none => (acc, 0)
    | some p, none => accAdd acc p
    | none, some q => accAdd acc q
    | some (some p), some (some q) => accAdd acc (sumExact p q)
    | some _, some _ => accAdd acc none

/-- The update of one element in one cycle of MMA.b8. -/
def intStep (w : Nat) (l : List (List Beat)) (i j c acc : Nat) : Nat :=
  let t (k : Nat) : Int := match operand w true l i k, operand w false l j k with
    | some a, some b => sx 8 a * sx 8 b
    | _, _ => 0
  ux 32 ((acc : Int) + t (2 * c) + t (2 * c + 1))

/-- The update of one element for one block of MMA.mx4: S in quarters. -/
def blockStep (w : Nat) (l : List (List Beat)) (i j q acc : Nat) : Nat × Nat :=
  let sa := scaleOf w true l i q
  let sb := scaleOf w false l j q
  if sa == some 0xff || sb == some 0xff then (f32.nanc, 0)
  else match sa, sb with
    | some ca, some cb =>
      let term (k : Nat) : Int := match operand w true l i k, operand w false l j k with
        | some a, some b => match mulExact (e2m1.decode a) (e2m1.decode b) with
          | some (.fin s m e) => signed s (m * 2 ^ (e + 2).toNat)
          | _ => 0
        | _, _ => 0
      let t := (List.range 32).foldl (fun t k => t + term (32 * q + k)) 0
      if t = 0 then (acc, 0)
      else accAdd acc (some (.fin (decide (t < 0)) t.natAbs ((ca : Int) + cb - 254 - 2)))
    | _, _ => (acc, 0)

/-- One element after a fire. -/
def fireCell (w : Nat) (l : List (List Beat)) (i j acc : Nat) : Nat × Nat :=
  if aForm w = 6 then ((List.range 32).foldl (fun a c => intStep w l i j c a) acc, 0)
  else
    let f (step : Nat → Nat → Nat × Nat) (n : Nat) : Nat × Nat :=
      (List.range n).foldl (fun a c => let r := step c a.1; (r.1, a.2 ||| r.2)) (acc, 0)
    if aForm w = 5 then f (fun q a => blockStep w l i j q a) 4 else f (fun c a => cycleStep w l i j c a) 32

/-- A buffer after a fire. -/
def AccBuf.fired (b : AccBuf) (w : Nat) (l : List (List Beat)) : AccBuf :=
  (List.range 128).foldl (fun b i => (List.range 128).foldl (fun b j =>
    let k := i * 128 + j
    let r := fireCell w l i j (Tab.get 0 b.acc k)
    { b with acc := Tab.set 0 b.acc k r.1, flags := b.flags ||| r.2 }) b) b

/-! ### Buffers -/

def Matrix.buf (m : Matrix) (n : Nat) : AccBuf := if n = 0 then m.buf0 else m.buf1
def Matrix.setBuf (m : Matrix) (n : Nat) (b : AccBuf) : Matrix := if n = 0 then { m with buf0 := b } else { m with buf1 := b }
/-- The destination of the next fire (R357). -/
def Matrix.dest (m : Matrix) : Nat := if aBuf m.word = 2 then m.nextbuf else aBuf m.word

/-- An OPEN buffer closes: it goes behind the buffers that closed before it (R360). -/
def Matrix.close (m : Matrix) (n : Nat) : Matrix :=
  if (m.buf n).st = 1 then { (m.setBuf n { m.buf n with st := 2 }) with items := m.items ++ [.buf n] } else m

/-- The buffer that closed first becomes DRAINING, unless the other one is; its rows leave in their turn (R360, R362). -/
def Matrix.startDrain (m : Matrix) : Matrix :=
  if m.buf0.st = 3 ∨ m.buf1.st = 3 then m
  else match m.items.findSome? fun x => match x with | .buf n => some n | .mark _ _ => none with
    | some n => if (m.buf n).st = 2 then { (m.setBuf n { m.buf n with st := 3 }) with drow := 0 } else m
    | none => m

/-! ### Feeds, R352 and R356 -/

/-- A beat of a slab is accepted at its place: a graph fault cause otherwise (R356). -/
def slabCheck (w i n : Nat) (b : Beat) : Option Nat :=
  let ls := (List.range 16).map b.get
  if ls.any Lane.mark then some 2
  else if aForm w = 5 ∧ n % 10 < 2 then (if ls.all fun x => x.scale || x.empty then none else some 3)
  else if ls.any fun x => x.scale || (x.data && x.pk != pkOf (sideType w (isAFeed w i))) then some 3 else none

/-- What a feed does with a beat of scratch unit `i`: it cannot take it yet, raises a fault, or takes it. -/
inductive FeedRes where
  | wait
  | fault (cause : Nat)
  | ok (m : Matrix)
  deriving DecidableEq, Repr

def Matrix.feed (m : Matrix) (i : Nat) (b : Beat) : FeedRes :=
  let st := m.staged.getD i []
  let need := groupBeats m.word
  if (m.marks.getD i none).isSome then .wait
  else match b.marker with
    | some (p, x) =>
      if p ≠ 0 then .fault 2
      else if st.length = need then .wait
      else if !st.isEmpty then .fault 1
      else if m.staged.any (fun l => !l.isEmpty) then .fault 2
      else if m.marks.any (fun o => match o with | some y => y.code != x.code | none => false) then .fault 2
      else .ok { m with marks := modNth (fun _ => some x) m.marks i }
    | none =>
      if !aMma m.word then .ok { m with ended := modNth (fun e => e && !b.any) m.ended i }
      else if st.length = need then .wait
      else if m.marks.any Option.isSome then .fault 2
      else match slabCheck m.word i st.length b with
        | some c => .fault c
        | none => .ok { m with
            staged := modNth (fun l => l ++ [b]) m.staged i
            ended := modNth (fun e => e && !b.any) m.ended i }

/-! ### Fires, R357 and R358 -/

/-- MATRIX_FIRE_START. -/
def execMatrixFireStart (p : Nat) (s : State) : Host.Outcome State Fault Refusal :=
  .next (s.noteMoved (match s.page p with
    | none => s
    | some x =>
      match x.ma with
      | none => s
      | some m =>
        let d := m.dest
        let b := m.buf d
        if s.graphRuns x.gid && s.errWaits x.gid then s.rollbackDue x.gid
        else if !s.graphRuns x.gid || !aMma m.word || m.fire.isSome || m.staged.any (fun l => l.length != groupBeats m.word)
            || 1 < b.st then s
        else
          let b : AccBuf := if b.st = 0 then { st := 1, int := aForm m.word == 6, opened := true } else b
          let n := aShadow m.word
          let sh := n != 0 && m.shcnt + 1 == n
          let m := { (m.setBuf d b) with
            fire := some { slabs := m.staged, buf := d, shadow := sh, at' := s.cycle }
            staged := m.staged.map fun _ => []
            shcnt := if n = 0 ∨ sh then 0 else m.shcnt + 1 }
          s.setPage p { x with ma := some m }) p)

/-- The check words of a shadow fire that the part computed wrong, as a turn names them: each digit of base 2^15 less one is a cell, plus
2^14 for its word of the third pass. -/
def wrongWords (fuel v : Nat) : List Nat :=
  match fuel with
  | 0 => []
  | f + 1 => if v = 0 then [] else (if v % 32769 = 0 then [] else [v % 32769 - 1]) ++ wrongWords f (v / 32769)

/-- The pairs (i, j) that disagree in a shadow fire, as i × 128 + j (R366). The second pass in cell (i + 1, j) and the third in cell (i, j)
compute one value from the same rows, so that a pair disagrees when the part computed its two words unequally wrong: a word named n
times is wrong by n. -/
def disagreeing (wrong : List Nat) : List Nat :=
  let err (k : Nat) : Nat := (wrong.filter (· == k)).length
  if wrong.isEmpty then [] else (List.range 16384).filter fun c => err (2 ^ 14 + c) % 2 ^ 32 != err ((c / 128 + 1) % 128 * 128 + c % 128) % 2 ^ 32

/-- The cell below a pair in its column. -/
def below (c : Nat) : Nat := (c / 128 + 1) % 128 * 128 + c % 128

/-- INFO of a CHECK record (R366, R413): the first two pairs, the suspected cell and the count. The cell (i + 1, j) lies between two adjacent
pairs; where there are none, the first pair's is named (assumption 33). -/
def checkInfo (l : List Nat) : Nat :=
  let at' (c : Nat) : Nat := c / 128 + c % 128 * 2 ^ 7
  let (p, q, cell) := match l.find? fun c => l.contains (below c) with
    | some c => (c, below c, below c)
    | none => (l.headD 0, l.getD 1 0, below (l.headD 0))
  at' p + at' q * 2 ^ 14 + at' cell * 2 ^ 28 + Nat.min l.length 3 * 2 ^ 42

/-- MATRIX_FIRE_END: the accumulations apply (R357, R358); a shadow fire compares its check words (R366), unless an uncorrectable error
fell in it (R370); and a rollback that waits for the group's fires may begin (R359). -/
def execMatrixFireEnd (p : Nat) (s : State) : Host.Outcome State Fault Refusal :=
  .next (s.noteMoved (match s.page p with
    | none => s
    | some x =>
      match x.ma with
      | none => s
      | some m =>
        match m.fire with
        | none => s
        | some f =>
          if s.cycle < f.at' + (if f.shadow then 96 else 32) then s
          else
            let b := (m.buf f.buf).fired m.word f.slabs
            let s := s.setPage p { x with ma := some { (m.setBuf f.buf b) with fire := none } }
            let l := if f.shadow then disagreeing (wrongWords s.choice s.choice) else []
            let s := if !f.shadow || m.err.isSome then s
              else if l.isEmpty then s.bump 3 p 3 1
              else s.graphFaultInfo x.gid p 9 (checkInfo l)
            s.rollbackDue x.gid) p)

/-! ### Markers and reconfiguration, R360, R362 and R363 -/

/-- The configuration section of the group's image, with the words that it gives; none where the image has no such section
or the section holds a refused value (R327): a word that is refused by itself, or that does not fit the words and arcs of its page
(R79, R314, R352). -/
def State.section' (s : State) (gid id : Nat) : Option (List WordEnt) :=
  match (s.launch (s.group gid).lid).image with
  | none => none
  | some m =>
    let l := (m.rcf.filter fun e => e.1 == id).map (·.2)
    let gives (p u n : Nat) : Option Nat := (l.find? fun e => e.page == p && e.unit == u && e.stage == n).map (·.word)
    let fits (p : Nat) : Bool := match s.page ((s.group gid).pages.getD p 0) with
      | some x =>
        (feedBad (x.ma.map fun a => (gives p 16 0).getD a.word) fun i => (gives p (8 + i) 0).getD (x.unit i).word).isNone
          && (List.range 8).all fun u =>
            (vuBad (m.arcTo p) (m.arcFrom p) x.ma.isSome u fun n => (gives p u n).getD (x.stage u n).word).isNone
      | none => true
    if !m.rcfIds.contains id || !(l.all wordOk && l.all fun e => fits e.page) then none else some l

/-- The word that a section gives a unit. -/
def sectionWord (l : List WordEnt) (page unit stage : Nat) : Option Nat :=
  (l.find? fun e => e.page == page && e.unit == unit && e.stage == stage).map (·.word)

/-- A new word is loaded; DRAIN and ZERO act once (R363). -/
def Matrix.load (m : Matrix) (w : Nat) : Matrix :=
  let n := aBuf w
  let m := { m with word := w, shcnt := 0 }
  if aForm w = 0x10 then m.close n
  else if aForm w = 0x11 ∧ ((m.buf n).st = 1 ∨ (m.buf n).st = 2) then
    { (m.setBuf n {}) with items := m.items.filter (· != .buf n) }
  else m

/-- The new form changes the accumulator type of a buffer that is OPEN or CLOSED (R363). -/
def Matrix.clashes (m : Matrix) (w : Nat) : Bool :=
  aMma w && [m.buf0, m.buf1].any fun b => (b.st == 1 || b.st == 2) && b.int != (aForm w == 6)

/-- A marker step of a code other than RCF (R360, R362, R368). -/
def Matrix.markStep (m : Matrix) (code arg : Nat) : Matrix :=
  let d := m.dest
  let closing := aMma m.word && code == aClose m.word && (m.buf d).st == 1
  let m := if closing then { (m.close d) with nextbuf := if aBuf m.word = 2 then 1 - m.nextbuf else m.nextbuf } else m
  let m := if code = 5 ∧ (m.buf d).st = 1 then m.setBuf d { m.buf d with err := true } else m
  let m := if code = 3 then
      { m with
        snap := some { word := m.word, st0 := m.buf0.st, st1 := m.buf1.st, nextbuf := m.nextbuf, shcnt := m.shcnt, drow := m.drow }
        buf0 := { m.buf0 with opened := false }
        buf1 := { m.buf1 with opened := false } }
    else m
  { m with items := m.items ++ [.mark code arg] }

/-- MATRIX_MARKER_STEP. No array of a group takes one while a rollback waits for a fire to end (R359, R368; assumption 30). -/
def execMatrixMarkerStep (p : Nat) (s : State) : Host.Outcome State Fault Refusal :=
  .next (s.noteMoved (match s.page p with
    | none => s
    | some x =>
      match x.ma with
      | none => s
      | some m =>
        match m.marks.getD (if aHalf m.word then 4 else 0) none with
        | none => s
        | some k =>
          if !s.graphRuns x.gid || m.marks.any Option.isNone || m.fire.isSome || s.errWaits x.gid then s
          else
            let ends := m.ended.all id
            let m := { m with
              marks := m.marks.map fun _ => none
              ended := m.ended.map fun _ => k.code == 1 }
            if k.code ≠ 4 then s.setPage p { x with ma := some (m.markStep k.code k.arg).startDrain }
            else
              match if ends then s.section' x.gid k.arg else none with
              | none => s.graphFault x.gid p 4
              | some l =>
                let w := (sectionWord l x.rel 16 0).getD m.word
                if m.clashes w then s.graphFault x.gid p 4
                else
                  let m := if (sectionWord l x.rel 16 0).isSome then m.load w else { m with shcnt := 0 }
                  s.setPage p { x with ma := some (Matrix.startDrain { m with items := m.items ++ [DrainItem.mark 4 k.arg] }) }) p)

/-! ### Drains, R361 and R362 -/

/-- The vector units that receive the drain: those with a stage whose source names IN2. -/
def Page.receivers (x : Page) : List Nat :=
  (List.range 8).filter fun u => (List.range 6).any fun n =>
    let w := (x.stage u n).word
    cOpc w != 0 && cOpc w != 0xff && ((List.range 3).map (cSrc w)).contains 4

/-- A beat for each receiver is placed in its IN2. -/
def Page.drain (x : Page) (f : Nat → Beat) : Page :=
  x.receivers.foldl (fun y u => { y with drains := Tab.set none y.drains u (some (f u)) }) x

/-- Row `r` for vector unit `u`. -/
def AccBuf.row (b : AccBuf) (r u : Nat) : Beat :=
  ofLanes fun i => { tag := 0, pk := if b.int then 1 else 0, val := Tab.get 0 b.acc (r * 128 + 16 * u + i) }

/-- A buffer has drained: it is EMPTY and its flags enter the summary. -/
def Matrix.drained (m : Matrix) (n : Nat) : Matrix :=
  { (m.setBuf n {}) with flags := m.flags ||| (m.buf n).flags, items := m.items.drop 1, drow := 0 }

/-- MATRIX_DRAIN_ROW: the next row of the DRAINING buffer, or the marker that comes next, leaves when every receiver's IN2 is
free. -/
def execMatrixDrainRow (p b : Nat) (s : State) : Host.Outcome State Fault Refusal :=
  .next (s.noteMoved (match s.page p with
    | none => s
    | some x =>
      match x.ma with
      | none => s
      | some m =>
        if !s.graphRuns x.gid || x.receivers.any fun u => (Tab.get none x.drains u).isSome then s
        else match m.items with
          | [] => s
          | .mark c a :: l =>
            s.setPage p { (x.drain fun _ => markBeat c a) with ma := some (Matrix.startDrain { m with items := l }) }
          | .buf n :: _ =>
            let m := m.startDrain
            let k := m.buf n
            if n ≠ b then s
            else if k.err then s.setPage p { (x.drain fun _ => markBeat 5 1) with ma := some (m.drained n).startDrain }
            else
              let y := x.drain (k.row m.drow)
              let m := if m.drow = 127 then (m.drained n).startDrain else { m with drow := m.drow + 1 }
              s.setPage p { y with ma := some m }) p)

/-- MATRIX_UNCORRECTABLE_ERROR: choice 1 of the turn says that the error lies in a buffer that closed before the snapshot (R367, R368); a
fire in progress ends first (R359). -/
def execMatrixUncorrectableError (p : Nat) (s : State) : Host.Outcome State Fault Refusal :=
  .next (s.noteMoved (match s.page p with
    | none => s
    | some x =>
      match x.ma with
      | none => s
      | some m =>
        if !s.graphRuns x.gid then s
        else
          let old (b : AccBuf) : Bool := 2 ≤ b.st && !b.opened
          s.arrayError x.gid p (s.choice == 1 && (old m.buf0 || old m.buf1))) p)

end Sys2Proof.Machine
end

