-- ==== Sys2Proof/Machine/RemoteEvents.lean ====
section
/-! DEFINITION. RQRY, the owner's processing of requests, replies at the requester, and the timers of remote operations
(11_remote R257 to R279). -/
namespace Sys2Proof.Machine

/-! ### RQRY, R274 -/

/-- RQRY gd, ga: memory-class (09_ins_memory R458), and no memory event, so that no acquire holds it; its wait for a serial in SENT can
park the bank. -/
def State.opRqry (s : State) (d a : Nat) : State :=
  s.issue [.g a] [.g d, .g a] fun s => if !s.room then .wait none else
    let x := (s.b.gpr a).toNat
    let serial := x % 2 ^ 32
    match (s.slotsOf s.cur).find? fun e => e.2.serial == some serial with
    | some (id, o) =>
      if o.sent then .wait (some (.ops [id]))
      else
        (s.issueRop { who := s.cur, kind := 9, pkg := fld x 43 32, dsts := [.g d 8 false, .g a 8 false],
                      body := .rqry serial } false (some o.oinc)).doneM 4
    | none =>
      (s.issueRop { who := s.cur, kind := 9, pkg := fld x 43 32, dsts := [.g d 8 false, .g a 8 false],
                    body := .rqry serial } false).doneM 4

/-- RQRY gd, ga (R274). -/
def execRqry (d a : BitVec 5) (s : State) : Host.Outcome State Fault Refusal := .next (s.opRqry d.toNat a.toNat)

/-! ### Owner entries, R267 to R269 -/

/-- PKG and INC of an RCID (R95). -/
def rcidPkg (rcid : Nat) : Nat := fld rcid 31 20
def rcidInc (rcid : Nat) : Nat := fld rcid 19 12

/-- A slice has a free entry (R267). -/
def State.ownerFree (s : State) (rcid : Nat) : Bool :=
  (s.owner.filter fun e => ownerSlice e.rcid == ownerSlice rcid).length < 2 ^ 17

/-- An entry is of a requester. -/
def OwnEntry.of (e : OwnEntry) (m : Msg) : Bool := e.rcid == m.rcid && e.svc == m.svc

/-- FLOOR of the requester of a message. -/
def State.floorOf (s : State) (m : Msg) : Option OwnEntry :=
  s.owner.find? fun e => e.kind == .floor && e.of m

/-- Entries of the requester's package with another INC are freed (R268). -/
def State.freeStale (s : State) (m : Msg) : State :=
  { s with owner := s.owner.filter fun e => !(rcidPkg e.rcid == rcidPkg m.rcid && rcidInc e.rcid != rcidInc m.rcid) }

/-- TIME in µs modulo 2^32. -/
def State.stamp (s : State) : Nat := s.time / 1000 % 2 ^ 32

/-- The ack steps of R268: the floor of the requester after them, or none when no entry is free. -/
def State.ackSteps (s : State) (m : Msg) : Option Nat × State :=
  match s.floorOf m with
  | none =>
    if s.ownerFree m.rcid then
      (some m.ackt, { s with owner :=
        s.owner ++ [{ kind := .floor, rcid := m.rcid, svc := m.svc, serial := m.ackt, stamp := s.stamp }] })
    else (none, s)
  | some f =>
    let up := f.serial != m.ackt && serialLe f.serial m.ackt
    let a := if up then m.ackt else f.serial
    let l := if up then s.owner.filter fun e => !(e.of m && e.kind != .floor && serialLe e.serial m.ackt) else s.owner
    (some a, { s with owner := l.map fun e =>
      if e.kind == .floor && e.of m then { e with serial := a, stamp := s.stamp } else e })

/-- Count an event of the requester's owner slice (R383). -/
def State.bumpOwner (s : State) (rcid ev : Nat) : State := s.bump 1 (ownerSlice rcid) ev 1

/-- The reply to a message. -/
def State.answer (s : State) (m : Msg) (r : RemReply) : State :=
  let s := match r with
    | .busy => s.bumpOwner m.rcid 0x0c
    | .dupAcked => s.bumpOwner m.rcid 0x0d
    | _ => s
  s.sendMsg { src := s.pkg, dst := m.src, oinc := s.oinc, rcid := m.rcid, svc := m.svc, op := m.op,
              serial := m.serial, tc := m.tc, body := .reply r } m.op

/-! ### Execution at the owner -/

/-- A remote access reaches tier memory only (R163, R256). -/
def State.ownerPa (s : State) (a : Nat) : Nat := s.pkg * 2 ^ 42 + paLocal a

/-- A remote access names a spill log of this package: like a host's, its read gives all ones and its write is dropped
(10_updates R246; assumption 58). -/
def State.ownerLog (s : State) (a : Nat) : Bool := s.inLog (paLocal a)

/-- A read-modify-write at the owner: the old value and its poison (R220). -/
def State.ownerRmw (s : State) (a n key : Nat) (f : Nat → Option Nat) : Nat × Option Nat × State :=
  if s.ownerLog a then (2 ^ (8 * n) - 1, none, s)
  else
    let (old, p, s) := s.readAt 0 (s.ownerPa a) n
    match p with
    | some r => (old, some r, s)
    | none => match f old with
      | some new => (old, none, s.writeAt 0 (s.ownerPa a) n new key .remote)
      | none => (old, none, s)

/-- A counter action at the owner. -/
def State.ownerBar (s : State) (a key : Nat) (see : Nat → State → State) (f : Bar → Bar) : Nat × Option Nat × State :=
  if s.ownerLog a then (0, none, s)
  else match s.barAction .remote 0 (s.ownerPa a) key see f with
    | .error r => (0, some r, s)
    | .ok t => (0, none, t)

/-- Execute a serial-class request: its result, poison and OP code, the KIND of R271. -/
def State.ownerExec (s : State) (b : RemBody) : Nat × Option Nat × Nat × State :=
  let op (k : Nat) (x : Nat × Option Nat × State) : Nat × Option Nat × Nat × State := (x.1, x.2.1, k, x.2.2)
  match b with
  | .write a n v key kind => (0, none, kind, if s.ownerLog a then s else s.writeAt 0 (s.ownerPa a) n v key .remote)
  | .cas a n e v key => op 5 (s.ownerRmw a n key fun old => if old = e then some v else none)
  | .swap a n v key => op 5 (s.ownerRmw a n key fun _ => some v)
  | .fadd a n v key => op 5 (s.ownerRmw a n key fun old => some ((old + v) % 2 ^ (8 * n)))
  | .batch l => (0, none, 6, s.acceptKeys .remote l)
  | .bari a e t k key => op 5 (s.ownerBar a key (fun _ s => s) fun o => o.arm e t k)
  | .bara a n key => op 5 (s.ownerBar a key (fun φ s => s.preBara (barKey 0 (s.ownerPa a)) 3 φ) fun o => o.arrive n)
  | .read .. | .apply _ | .rqry _ => (0, none, 0, s)

/-- A read within one line at the owner, with the bytes of it that are poisoned. -/
def State.ownerLine (s : State) (a n : Nat) : Nat × Option Nat × Nat × State :=
  if s.ownerLog a then (2 ^ (8 * n) - 1, none, 0, s) else s.readMask 0 (s.ownerPa a) n

/-- A read of at most two lines at the owner. -/
def State.ownerRead (s : State) (a n : Nat) : Nat × Option Nat × Nat × State :=
  let (v, p, m, s) := s.ownerLine a (Nat.min n 64)
  if n ≤ 64 then (v, p, m, s)
  else
    let (w, q, k, s) := s.ownerLine (a + 64) (n - 64)
    (v + w * 2 ^ 512, p.or q, m + k * 2 ^ 64, s)

/-- A message exceeds the age of R257. -/
def msgOld (m : Msg) : Bool := 1500000 < m.age

/-- The lines that a request names. -/
def bodyLines : RemBody → List Nat
  | .read a n => [a / 64, (a + (n - 1)) / 64]
  | .apply a | .write a _ _ _ _ | .cas a _ _ _ _ | .swap a _ _ _ | .fadd a _ _ _ | .bari a _ _ _ _ | .bara a _ _ => [a / 64]
  | .batch l => l.map fun p => p.1 / 64
  | .rqry _ => []

/-- An earlier request in the inbox names a line of the request `m`: requests to one line execute in arrival order
(R268). -/
def State.lineFirst (s : State) (m : Nat) (b : RemBody) : Bool :=
  (s.inbox.take m).any fun x => match x.body with
    | .request c => (bodyLines c).any fun l => (bodyLines b).contains l
    | _ => false

/-- A message is taken out of the inbox. -/
def State.takeMsg (s : State) (m : Nat) : State := { s with inbox := dropNth s.inbox m }

/-- OWNER_SERIAL_REQUEST (R268). -/
def execOwnerSerialRequest (m : Nat) (s : State) : Host.Outcome State Fault Refusal :=
  .next (match s.inbox[m]? with
    | some x =>
      match x.body, x.serial with
      | .request b, some n =>
        if s.lineFirst m b then s
        else
          let s := s.takeMsg m
          if msgOld x then s
          else if x.oinc ≠ s.oinc then s.answer x .stale
          else
            match (s.freeStale x).ackSteps x with
            | (none, s) => s.answer x .busy
            | (some floor, s) =>
              let hit (k : OwnKind) : Option OwnEntry :=
                s.owner.find? fun e => e.kind == k && e.of x && e.serial == n
              if serialLe n floor then s.answer x .dupAcked
              else match hit .result with
                | some e => s.answer x (.value e.result e.poison)
                | none =>
                  if (hit .void).isSome then s.answer x .notexec
                  else if !s.ownerFree x.rcid then s.answer x .busy
                  else
                    let (v, p, k, s) := s.ownerExec b
                    let e : OwnEntry :=
                      { kind := .result, op := k, rcid := x.rcid, svc := x.svc, serial := n, result := v, poison := p }
                    { s with owner := s.owner ++ [e] }.answer x (.value v p)
      | _, _ => s
    | none => s)

/-- OWNER_ACK_MESSAGE: the ack steps only; it is not replied to (R263, R268). -/
def execOwnerAckMessage (m : Nat) (s : State) : Host.Outcome State Fault Refusal :=
  .next (match s.inbox[m]? with
    | some x =>
      match x.body with
      | .ack =>
        let s := s.takeMsg m
        if msgOld x || x.oinc != s.oinc then s else ((s.freeStale x).ackSteps x).2
      | _ => s
    | none => s)

/-- OWNER_RQRY (R274). -/
def execOwnerRqry (m : Nat) (s : State) : Host.Outcome State Fault Refusal :=
  .next (match s.inbox[m]? with
    | some x =>
      match x.body with
      | .request (.rqry n) =>
        let s := s.takeMsg m
        let hit (k : OwnKind) : Option OwnEntry :=
          s.owner.find? fun e => e.kind == k && e.of x && e.serial == n
        if msgOld x then s
        else if x.oinc ≠ s.oinc then s.answer x (.rqry 3 0 none)
        else match hit .result with
          | some e => s.answer x (.rqry 1 e.result e.poison)
          | none =>
            if (hit .void).isSome then s.answer x (.rqry 0 0 none)
            else if (match s.floorOf x with | some f => serialLe n f.serial | none => false) then
              s.answer x (.rqry 2 0 none)
            else if !s.ownerFree x.rcid then s.answer x .busy
            else
              let e : OwnEntry := { kind := .void, op := 9, rcid := x.rcid, svc := x.svc, serial := n }
              { s with owner := s.owner ++ [e] }.answer x (.rqry 0 0 none)
      | _ => s
    | none => s)

/-- OWNER_READ_REQUEST: a read, or the apply of UFLUSH, whatever incarnation it carries (R257). -/
def execOwnerReadRequest (m : Nat) (s : State) : Host.Outcome State Fault Refusal :=
  .next (match s.inbox[m]? with
    | some x =>
      match x.body with
      | .request (.read a n) =>
        if s.lineFirst m (.read a n) then s
        else
          let s := s.takeMsg m
          if msgOld x then s
          else
            let (v, p, m, s) := s.ownerRead a n
            s.answer x (.value v p m)
      | .request (.apply a) =>
        if s.lineFirst m (.apply a) then s
        else
          let s := s.takeMsg m
          if msgOld x then s else (s.applyAt (paLocal a) 1).answer x (.value 0 none)
      | _ => s
    | none => s)

/-- FLOOR_EXPIRE: a FLOOR with no other entry of its requester is freed 1,500 µs after its last update (R267). -/
def execFloorExpire (n : Nat) (s : State) : Host.Outcome State Fault Refusal :=
  .next (match s.owner[n]? with
    | some f =>
      if f.kind == .floor && 1500 ≤ (s.stamp + 2 ^ 32 - f.stamp) % 2 ^ 32 &&
          !s.owner.any (fun e => e.kind != .floor && e.rcid == f.rcid && e.svc == f.svc) then
        { s with owner := dropNth s.owner n }
      else s
    | none => s)

/-! ### Ends of operations at the requester, R260, R270, R276 -/

/-- A remote fault becomes pending: in the bank, or in a reserved channel (R270, R277). Its EADDR is the address that R271 gives it, where
the table of R92 has 0 for these causes (assumption 78). -/
def State.remoteFault (s : State) (id : Nat) (o : RemOp) (cause : Nat) : State :=
  let f : RFault := { cause := cause, einfo := o.einfo, eaddr := o.va, order := id }
  if (s.chan o.who).reserved.isSome then
    s.setChan o.who { s.chan o.who with faults := (s.chan o.who).faults ++ [f] }
  else
    let b := s.bank o.who
    s.setBank o.who ({ b with rfaults := b.rfaults ++ [f] }.statBit 17 true)

/-- Destinations take poison marks (R260, R270). -/
def Bank.markDsts (b : Bank) (l : List Dst) (va : Nat) : Bank :=
  l.foldl (fun b d => match d.reg with
    | some (.g i) => b.markG i { reason := 0, va := BitVec.ofNat 64 va }
    | some (.v i) => b.markV i { reason := 0, va := BitVec.ofNat 64 va }
    | none => b) b

/-- A BARI or BARA that waits for its reply completes, or takes exception 0x06 on a poisoned object (R459). -/
def State.unblock (s : State) (r id : Nat) (poison : Option Nat) (va : Nat) : State :=
  let b := s.bank r
  if b.blocked ≠ some id then s
  else match poison with
    | some q =>
      (s.setBank r { b with blocked := none }).takeExc r { cause := 6, epc := b.pc, einfo := 10 + q * 2 ^ 9, eaddr := va }
    | none => s.setBank r ({ b with blocked := none }.advanceM 4)

/-- A message names the requester of an operation, whose RCID holds its incarnation (04_registers R95; R257). -/
def State.names (s : State) (x : Msg) (o : RemOp) : Bool := x.rcid == s.rchan o.who % 2 ^ 32 && x.svc == isSvc o.who

/-- A serial-class operation enters HELD (R270); a batch that waited behind its line may go (R462, 08_ordering R206). -/
def State.hold (s : State) (id : Nat) (o : RemOp) (cause : Nat) : State :=
  let s := s.setBank o.who ((s.bank o.who).markDsts o.dsts o.va)
  let s := s.setRop id (some { o with held := some cause, busy := none })
  (((s.remoteFault id o cause).unblock o.who id none o.va).flushClosed o.who 64).chanSettle o.who

/-- An operation is over: waiting batches may use its slot (R462), and the channel of an ended continuation may be free. -/
def State.ropOver (s : State) (id : Nat) (o : RemOp) : State := ((s.setRop id none).flushClosed o.who 64).chanSettle o.who

/-- The registers that destinations write. -/
def regPairs (l : List Dst) : List (Bool × Nat) := (l.filterMap Dst.reg).map Reg.pair

/-- The result of an operation reaches its destinations, `bad` the bytes of a read that are poisoned. -/
def State.ropResult (s : State) (id : Nat) (o : RemOp) (v : Nat) (p : Option Nat) (bad : Nat) : State :=
  match o.eng with
  | some c =>
    let s := s.setRop id none
    match s.cmd c with
    | some k =>
      let put (x : EngRead) : EngRead :=
        if x.op = some id then { x with op := none, got := some { n := x.n, v := v, bad := bad } } else x
      s.setCmd c (some { k with reads := k.reads.map put })
    | none => s
  | none =>
    if o.record then
      let b := s.bank o.who
      let s := s.setRop id none
      match b.record with
      | some x =>
        if x.op = id then
          s.setBank o.who { b with record := some { x with data := some (if p.isSome then lowBit bad 128 else v, p) } }
        else s
      | none => s
    else
      let b := o.dsts.foldl (fun (b : Bank) d => b.deliver d v (markOf p o.va)) (s.bank o.who)
      ((((s.setBank o.who b).preWritten o.who (regPairs o.dsts)).ropOver id o).unblock o.who id p o.va)

/-- The result of RQRY: the value, then the status; a HELD operation of its serial is freed (R272, R274). -/
def State.rqryResult (s : State) (id : Nat) (o : RemOp) (code v : Nat) (p : Option Nat) : State :=
  let b := s.bank o.who
  let b := match o.dsts with
    | [d, a] =>
      let b := b.deliver d (if code = 1 then v else 0) (if code = 1 then markOf p o.va else none)
      b.deliver a code none
    | _ => b
  let n := match o.body with | .rqry n => n | _ => 0
  let s := (s.setBank o.who b).preWritten o.who (regPairs o.dsts)
  let s := match (s.slotsOf o.who).find? fun e => e.2.serial == some n && e.2.held.isSome with
    | some e => s.setRop e.1 none
    | none => s
  s.ropOver id o

/-- A STALE reply: a request that cannot have executed starts again under the new incarnation; another is HELD under
cause 0x08 (R270). -/
def State.staleReply (s : State) (id : Nat) (o : RemOp) (inc : Nat) : State :=
  if o.oinc = 0 ∨ o.sends = 1 then
    let o := { o with restarts := o.oinc :: o.restarts, oinc := inc, attempt := 1, sends := 1, sentAt := s.time, busy := none }
    (s.setRop id (some o)).transmit id o
  else s.hold id o 8

/-- A reply's incarnation sets the table entry of its package (R265). -/
def State.learn (s : State) (pkg inc : Nat) : State := { s with oincs := Tab.set 0 s.oincs pkg inc }

/-- A reply carries an incarnation older than the one that an operation started again under (R279). -/
def RemOp.late (o : RemOp) (x : Msg) : Bool := match o.body with
  | .rqry _ => false
  | _ => o.serial.isSome && o.restarts.contains x.oinc

/-- REMOTE_REPLY: a reply that matches no outstanding operation is ignored (R257, R270, R279). -/
def execRemoteReply (m : Nat) (s : State) : Host.Outcome State Fault Refusal :=
  .next (match s.inbox[m]? with
    | some x =>
      match x.body with
      | .reply r =>
        let s := s.takeMsg m
        match s.rop x.op with
        | none => s
        | some o =>
          let rqry := match o.body with | .rqry _ => true | _ => false
          if o.pkg ≠ x.src ∨ o.held.isSome ∨ o.serial ≠ x.serial ∨ o.late x ∨ !s.names x o then s
          else match r with
            | .stale => if o.serial.isSome && x.oinc != o.oinc then (s.learn o.pkg x.oinc).staleReply x.op o x.oinc else s
            | .busy =>
              let s := if o.eng.isNone then s.setBank o.who ((s.bank o.who).count 6) else s
              (s.learn o.pkg x.oinc).setRop x.op (some { o with busy := some s.time })
            | .rqry code v p => if rqry then (s.learn o.pkg x.oinc).rqryResult x.op o code v p else s
            | .value v p m =>
              if rqry || (o.serial.isSome && x.oinc != o.oinc) then s else (s.learn o.pkg x.oinc).ropResult x.op o v p m
            | .dupAcked | .notexec =>
              if o.serial.isSome && x.oinc == o.oinc then
                ((s.learn o.pkg x.oinc).ropOver x.op o).unblock o.who x.op none o.va
              else s
      | _ => s
    | none => s)

/-- BUSY_RESEND: 20 µs after BUSY the request is sent again with the same attempt (R259). -/
def execBusyResend (id : Nat) (s : State) : Host.Outcome State Fault Refusal :=
  .next (match s.rop id with
    | some o =>
      match o.busy, o.held with
      | some t, none =>
        if t + 20000 ≤ s.time then
          let o := { o with busy := none, sends := o.sends + 1, sentAt := s.time }
          (s.setRop id (some o)).transmit id o
        else s
      | _, _ => s
    | none => s)

/-- The timer of an attempt, in nanoseconds (R258). -/
def attemptTimer (n : Nat) : Nat := 20000 * 2 ^ (n - 1)

/-- The timer of an operation has expired. -/
def State.timedOut (s : State) (o : RemOp) : Bool :=
  o.held.isNone && o.busy.isNone && o.sentAt + attemptTimer o.attempt ≤ s.time

/-- A reply of an operation has arrived: it wins over a timer that expires in the same cycle (R279). -/
def State.replied (s : State) (id : Nat) (o : RemOp) : Bool :=
  s.inbox.any fun x => x.op == id && x.src == o.pkg && x.serial == o.serial && !o.late x && s.names x o && match x.body with
    | .reply _ => true
    | _ => false

/-- RETRANSMIT_TIMER (R258). -/
def execRetransmitTimer (id : Nat) (s : State) : Host.Outcome State Fault Refusal :=
  .next (match s.rop id with
    | some o =>
      if s.timedOut o && !s.replied id o && o.attempt < 6 then
        let o := { o with attempt := o.attempt + 1, sends := o.sends + 1, sentAt := s.time }
        let s := if o.eng.isNone then s.setBank o.who ((s.bank o.who).count 5) else s
        (s.setRop id (some o)).transmit id o
      else s
    | none => s)

/-- RETRANSMIT_EXHAUSTED (R258, R260, R270). -/
def execRetransmitExhausted (id : Nat) (s : State) : Host.Outcome State Fault Refusal :=
  .next (match s.rop id with
    | some o =>
      if !(s.timedOut o && !s.replied id o && o.attempt == 6) then s
      else if o.serial.isSome then s.hold id o 9
      else match o.eng with
        | some c =>
          let s := s.setRop id none
          match s.cmd c with
          | some k =>
            let fails (x : EngRead) : EngRead := if x.op = some id then { x with op := none, failed := true } else x
            s.setCmd c (some { k with reads := k.reads.map fails })
          | none => s
        | none =>
          let s := s.ropOver id o
          let b := s.bank o.who
          if o.record then
            match b.record with
            | some x => if x.op = id then s.setBank o.who { b with record := some { x with failed := true } } else s
            | none => s
          else (s.setBank o.who (b.markDsts o.dsts o.va)).remoteFault id o 9
    | none => s)

/-- ACK_MESSAGE_SEND: a channel that has sent nothing for 100 µs acknowledges to each package of its list (R263). -/
def execAckMessageSend (r : Nat) (s : State) : Host.Outcome State Fault Refusal :=
  .next (let c := s.chan r
    let a := s.ackt r
    let due := c.owed.filter fun e => e.2 != a
    if due.isEmpty || s.time < c.sentAt + 100000 then s
    else
      let rc := s.rchan r
      let s := due.foldl (fun s e => s.sendMsg
        { src := s.pkg, dst := e.1, oinc := Tab.get 0 s.oincs e.1, rcid := rc % 2 ^ 32, svc := isSvc r, ackt := a,
          tc := c.tc, body := .ack } a) s
      s.setChan r { c with owed := c.owed.filter fun e => e.2 == a, sentAt := s.time })

end Sys2Proof.Machine
end

