-- ==== Sys2Proof/Machine/Fabric.lean ====
section
/-! DEFINITION. Firing of vector-unit stages and scratch units, the Ochre token and chained queues (13_fabric R317 to R350;
12_queues R300, R308, R310, R311). -/
namespace Sys2Proof.Machine

/-! ### Inputs and destinations of a stage, R317 and R318 -/

/-- The head of a source of a stage. -/
def State.stageSrc (s : State) (p : Nat) (x : Page) (u n i : Nat) : Src :=
  let t := x.stage u n
  match cSrc t.word i with
  | 1 => .stream t.inreg
  | 2 => .stream (s.arcHead p (8 * u))
  | 3 => .stream (s.arcHead p (8 * u + 1))
  | 4 => .stream (if x.ma.isSome then Tab.get none x.drains u else s.arcHead p (8 * u + 2))
  | 5 => .const
  | 6 => .self
  | _ => .none

/-- Change a page. -/
def State.modPage (s : State) (p : Nat) (f : Page → Page) : State := match s.page p with
  | some x => s.setPage p (f x)
  | none => s

/-- A stage takes the beat at the head of a source. -/
def State.takeSrc (s : State) (p u n : Nat) (w i : Nat) : State :=
  match cSrc w i with
  | 1 => s.modPage p fun x => x.setStage u n { x.stage u n with inreg := none }
  | 2 => s.takeArc p (8 * u)
  | 3 => s.takeArc p (8 * u + 1)
  | 4 => match s.page p with
    | some x => if x.ma.isSome then s.setPage p { x with drains := Tab.set none x.drains u none } else s.takeArc p (8 * u + 2)
    | none => s
  | _ => s

/-- A stage takes the beats of those of its sources that `take` names, one from each port (R317). -/
def State.takeSrcs (s : State) (p u n w : Nat) (take : Nat → Bool) : State :=
  (List.range 3).foldl (fun s i =>
    if take i && !(List.range i).any (fun j => take j && cSrc w j == cSrc w i) then s.takeSrc p u n w i else s) s

/-- The stage that NEXT of a stage names (R318). -/
def nextStage (n w : Nat) : Nat := if isSpecial w then n + 2 else n + 1

/-- Route bits that a beat of stream 0 (all), X (1) or Y (2) takes (R334). -/
def routesOf (w t : Nat) : List Nat :=
  (List.range 5).filter fun k => bitAt (cRoute w) k && (t == 0 || (t == 1) == (k == 0 || k == 1 || k == 3))

/-- A destination has a free slot. -/
def State.routeRoom (s : State) (p u n w k : Nat) : Bool :=
  if k = 0 then match s.page p with
    | some x => (x.stage u (nextStage n w)).inreg.isNone
    | none => false
  else match s.arcOut p (8 * u + 2 + k) with
    | some (i, a) => s.arcRoom i a
    | none => true

/-- Every destination of a stream has a free slot. -/
def State.routesRoom (s : State) (p u n w t : Nat) : Bool := (routesOf w t).all (s.routeRoom p u n w)

/-- A beat is placed in a destination. -/
def State.routeBeat (s : State) (p u n w : Nat) (b : Beat) (k : Nat) : State :=
  if k = 0 then s.modPage p fun x =>
    x.setStage u (nextStage n w) { x.stage u (nextStage n w) with inreg := some b }
  else match s.arcOut p (8 * u + 2 + k) with
    | some (i, _) => s.sendArc i b
    | none => s

/-- The next output beat of a stage leaves: SELF follows it, and is EMPTY again behind an EOI or an RCF, and a TSM takes a snapshot (R318,
R326, R327). -/
def State.emitOut (s : State) (p u n : Nat) : State :=
  match s.page p with
  | none => s
  | some x =>
    let t := x.stage u n
    match t.out with
    | [] => s
    | (g, b) :: l =>
      if !s.routesRoom p u n t.word g then s
      else
        let core := { t.core with self := if b.has 1 || b.has 4 then emptyBeat else b }
        let t' := { t with core := core, out := l, snap := if b.has 3 then some (t.word, core) else t.snap }
        (routesOf t.word g).foldl (fun s k => s.routeBeat p u n t.word b k) (s.setPage p (x.setStage u n t'))

/-! ### Reconfiguration, R327 -/

/-- What RCF markers at the heads of stream inputs mean: none there, a fault, all there with the first one, some that wait, or some
that wait while other inputs that have ended hold an all-EMPTY beat, which is passed over. -/
inductive RcfRes where
  | none
  | fault
  | accept (b : Beat)
  | held (mask : Nat)
  | pass (mask : Nat)
  deriving DecidableEq, Repr

/-- A head is an RCF that stands first in its beat. -/
def rcfFirst (b : Beat) : Bool := b.has 4 && !b.noMark.any

/-- The stream inputs, each with its number and its head, judged by R327; `ended` has the inputs whose last token was an
EOI. -/
def rcfCheck (l : List (Nat × Option Beat)) (ended : Nat) : RcfRes :=
  let isRcf (o : Option Beat) : Bool := match o with
    | some b => b.has 4
    | none => false
  let rs := l.filter fun x => isRcf x.2
  match rs with
  | [] => .none
  | (_, o) :: _ =>
    if rs.any fun x => !(bitAt ended x.1 && (match x.2 with | some b => rcfFirst b | none => false)) then .fault
    else if rs.length = l.length then .accept (o.getD emptyBeat)
    else if l.any fun x => !isRcf x.2 && bitAt ended x.1 && (match x.2 with | some b => b.any | none => false) then .fault
    else
      let mask (l : List (Nat × Option Beat)) : Nat := l.foldl (fun m x => m + 2 ^ x.1) 0
      let void := l.filter fun x => bitAt ended x.1 && (match x.2 with | some b => !b.any | none => false)
      if void.isEmpty then .held (mask rs) else .pass (mask void)

/-- The last token of a taken beat marks whether an input has ended. -/
def endedAfter (ended i : Nat) (b : Beat) : Nat := putFld ended i i (bit01 (!b.leavesOpen (!bitAt ended i)))

/-! ### Checked mode, R350 -/

/-- A node that checked mode fires twice. -/
def isChecked (c : Nat) : Bool := (1 ≤ c && c ≤ 6) || c == 0x0b || (0x10 ≤ c && c ≤ 0x1d)

/-- A floating-point code doubled, with the flags of the doubling. -/
def doubled (f : Fmt) (a : Nat) : Nat × Nat :=
  match f.decode a with
  | .fin s m e => f.enc .rne (.fin s m (e + 1))
  | _ => (a, 0)

/-- A result that is not compared: it overflowed, is subnormal, or is zero from nonzero operands. -/
def badShadow (f : Fmt) (l : List Nat) (r : Nat × Nat) : Bool :=
  let m := r.1 % 2 ^ (f.width - 1)
  r.2 &&& ofl != 0 || (m != 0 && m < 2 ^ f.fw) || (m == 0 && l.all fun a => a % 2 ^ (f.width - 1) != 0)

/-- A sub-element of a floating-point firing is skipped; the shadow firing overflows too where doubling an operand does. -/
def skipSub (w a b c : Nat) : Bool :=
  let f := fmtOf (cEt w)
  let d (x : Nat) : Nat := (doubled f x).1
  let overflows (x : Nat) : Bool := (doubled f x).2 &&& ofl != 0
  match cOpc w with
  | 1 | 2 => overflows a || overflows b || badShadow f [a, b] (subOp w a b c) || badShadow f [a, b] (subOp w (d a) (d b) c)
  | 3 => overflows a || badShadow f [a, b] (subOp w a b c) || badShadow f [a, b] (subOp w (d a) b c)
  | 4 | 5 | 6 => overflows a || overflows c || badShadow f [a, b, c] (subOp w a b c) || badShadow f [a, b, c] (subOp w (d a) b (d c))
  | 0x0b => (doubled f a).2 != 0 || (doubled f b).2 != 0
  | _ => false

/-- A firing of a checked page is skipped, by the operands that its lanes computed on. -/
def skipFiring (w : Nat) (ops : List (List Lane)) : Bool :=
  let n := typeWidth (cEt w)
  ops.any fun l =>
    let v (i : Nat) : List Nat := subsOf n (l.getD i {}).val
    ((v 0).zip ((v 1).zip (v 2))).any fun x => skipSub w x.1 x.2.1 x.2.2

/-! ### STAGE_FIRE -/

/-- SCALE lanes stored as EMPTY (R300). -/
def Beat.noScale (b : Beat) : Beat := ofLanes fun i => if (b.get i).scale then {} else b.get i

/-- The stream sources of a stage with their heads. -/
def streamHeads (l : List Src) : List (Nat × Option Beat) :=
  ((List.range l.length).zip l).filterMap fun x => match x.2 with
    | .stream o => some (x.1, o)
    | _ => none

/-- A stage takes its new word with reset state. -/
def Stage.load (t : Stage) (w : Nat) : Stage := { word := w, inreg := t.inreg, snap := t.snap }

/-- bq can take a beat (R344, R308). -/
def State.bqRoom (s : State) (gid : Nat) : Bool :=
  let q := s.queue (queueKey gid 63)
  q.room != 0 || q.discard != 0

/-- A stage accepts an RCF and forwards it under its new word (R327). A special function occupies the stage below too (R79), whose word
of the section is loaded with its own (assumption 32). -/
def State.acceptRcf (s : State) (x : Page) (p u n : Nat) (b : Beat) : State :=
  let arg := match b.marker with | some (_, m) => m.arg | none => 0
  let t := x.stage u n
  match s.section' x.gid arg with
  | none => s.graphFault x.gid p 4
  | some l =>
    let w := (sectionWord l x.rel u n).getD t.word
    let pair := if isSpecial t.word || isSpecial w then sectionWord l x.rel u (n + 1) else none
    let next := x.stage u (n + 1)
    if cOpc w == 0x43 && !s.bqRoom x.gid then s
    else if pair.isSome && !(next.inreg.isNone && next.out.isEmpty) then s
    else
      let s := s.takeSrcs p u n t.word fun _ => true
      let s := s.modPage p fun y =>
        let t := y.stage u n
        y.setStage u n { (if (sectionWord l x.rel u n).isSome then t.load w else { t with core := { t.core with ended := 0 } }) with out := [(0, b)] }
      let s := match pair with
        | some v => s.modPage p fun y => y.setStage u (n + 1) { (y.stage u (n + 1)).load v with core := { ended := 7 } }
        | none => s
      let s := if cOpc w = 0x43 then s.pushX2a (queueKey x.gid 63) b else s
      s.emitOut p u n

/-- A node fires: its inputs are taken and its first output beat leaves; in checked mode its lanes are computed twice (R350). -/
def State.fireNode (s : State) (x : Page) (p u n : Nat) (ss : List Src) (take : Bool × Bool × Bool) (core : NodeCore)
    (out : List (Nat × Beat)) (ops : List (List Lane)) : State :=
  let t := x.stage u n
  let w := t.word
  let ts := [take.1, take.2.1, take.2.2]
  let heads := streamHeads ss
  let ended := heads.foldl (fun e h => if ts.getD h.1 false then endedAfter e h.1 (h.2.getD emptyBeat) else e) t.core.ended
  let checked := x.checked && isChecked (cOpc w)
  let bad := checked && bitAt s.choice 3
  let skip := checked && skipFiring w ops
  let s := if skip then s.bump 3 p 2 1 else s
  if bad && !skip then (s.bump 3 p 1 1).graphFault x.gid p 9
  else
    let s := s.bump 3 p 0 1
    let s := s.takeSrcs p u n w fun i => ts.getD i false
    let s := s.modPage p fun y => y.setStage u n { y.stage u n with core := { core with ended := ended }, out := out }
    let s := if cOpc w = 0x43 then s.pushX2a (queueKey x.gid 63) (((ss.getD 0 .none).beat w t.core).getD emptyBeat).noScale else s
    s.emitOut p u n

/-- A stage fires, or sends an output beat that it still holds (R317). -/
def State.fireStage (s : State) (p u n : Nat) : State :=
  match s.page p with
  | none => s
  | some x =>
    let t := x.stage u n
    let w := t.word
    if !s.graphRuns x.gid || cOpc w == 0 || cOpc w == 0xff then s
    else if !t.out.isEmpty then s.emitOut p u n
    else if !s.routesRoom p u n w 0 || (cOpc w == 0x43 && !s.bqRoom x.gid) then s
    else
      let ss := (List.range 3).map (s.stageSrc p x u n)
      let heads := streamHeads ss
      match rcfCheck heads t.core.ended with
      | .fault => s.graphFault x.gid p 4
      | .accept b => s.acceptRcf x p u n b
      | .pass m => s.takeSrcs p u n w (bitAt m)
      | r =>
        let mask := match r with | .held m => m | _ => 0
        let src (i : Nat) : Src := if bitAt mask i then .stream none else ss.getD i .none
        let err := cOpc w == 0x43 && (match src 0 with | .stream (some b) => b.has 5 | _ => false)
        if err then s.graphFault x.gid p 5
        else match nodeStep w t.core (src 0, src 1, src 2) with
          | .wait => s
          | .fault c => s.graphFault x.gid p c
          | .go a b c core out ops => s.fireNode x p u n ss (a, b, c) core out ops

/-- STAGE_FIRE: the page's edge ports deliver and accept what they can before and after. -/
def execStageFire (p u n : Nat) (s : State) : Host.Outcome State Fault Refusal :=
  .next (if u < 8 ∧ n < 6 then s.noteMoved (((s.pump p).fireStage p u n).pump p) p else s)

/-! ### Scratch units, R346 and R347 -/

/-- What a scratch unit does in a cycle: nothing, a graph fault, or the inputs taken (DIN, KIN), its new state, the change
count of its log and what it emits, now or after. -/
inductive UnitRes where
  | wait
  | fault (cause : Nat)
  | go (d k : Bool) (core : UnitCore) (log : Nat) (out : List Beat)
  deriving DecidableEq, Repr

/-- A lane read as an unsigned 32-bit number: its packing is W32 or I32 (R320). -/
def keyLane (l : Lane) : Bool := l.pk == 1 || l.pk == 2

/-- The operator of KEYED on codes (R346). -/
def kop (w a b : Nat) : Nat :=
  let sgn := uEt w == 2
  let float := uEt w == 4
  if (uKop w == 1 || uKop w == 4 || uKop w == 5) && float || (uKop w == 2 || uKop w == 3) && !float then
    (Config.keyedValue (uKop w) (uEt w) a b).toNat
  else match uKop w with
  | 0 => (f32.addC (uRm w) a b).1
  | 1 => (a + b) % 2 ^ 32
  | 2 => (f32.minmax false a b).1
  | 3 => (f32.minmax true a b).1
  | 4 => if sgn then minS 32 a b else Nat.min a b
  | 5 => if sgn then maxS 32 a b else Nat.max a b
  | 6 => a ||| b
  | _ => b

/-- KEYED takes the lanes of a beat in order; an error is a cause. -/
def keyedLanes (w : Nat) (d k : Beat) : List Nat → Tab (Option Nat) → Nat → Except Nat (Tab (Option Nat) × Nat)
  | [], t, n => .ok (t, n)
  | i :: l, t, n =>
    let x := d.get i
    let y := k.get i
    if (x.data && !okPk (uEt w) x.pk) || (y.data && !keyLane y) then .error 3
    else if x.data && y.data then
      if uLen w * 16 ≤ y.val then .error 8
      else
        let v := match Tab.get none t y.val with
          | some o => kop w o x.val
          | none => x.val
        keyedLanes w d k l (Tab.set none t y.val (some v)) (n + 1)
    else keyedLanes w d k l t n

/-- KEYED in a cycle; markers of DIN and KIN must agree (R325, R347). -/
def keyedStep (w : Nat) (c : UnitCore) (d k : Beat) : UnitRes :=
  match keyedLanes w d k (List.range 16) c.ents 0 with
  | .error e => .fault e
  | .ok (t, n) =>
    let go (c : UnitCore) (n : Nat) (out : List Beat) : UnitRes := .go true true c n out
    let c' := { c with ents := t }
    let fwd (code arg : Nat) : UnitRes :=
      if code = 1 then
        let row (b : Nat) : Beat := ofLanes fun i => match Tab.get none t (16 * b + i) with
          | some v => { tag := 0, pk := pkOf (uEt w), val := v }
          | none => {}
        go { c' with ents := [] } (n + t.length) ((List.range (uLen w)).map row ++ [markBeat 1 arg])
      else if code = 2 then go c' n []
      else go c' n [markBeat code arg]
    match d.marker, k.marker with
    | none, none => go c' n []
    | some (_, x), some (_, y) =>
      if x.code = 5 then fwd 5 x.arg
      else if y.code = 5 then fwd 5 y.arg
      else if x.code = y.code then fwd x.code x.arg else .fault 2
    | some (_, x), none => if x.code = 5 then fwd 5 x.arg else .fault 2
    | none, some (_, y) => if y.code = 5 then fwd 5 y.arg else .fault 2

/-- A lane of LUT. -/
def lutLane (w : Nat) (t : Tab Nat) (l : Lane) : Lane :=
  if l.mark then l
  else if l.data && l.val < uLen w * 16 then { tag := 0, pk := pkOf (uEt w), val := Tab.get 0 t l.val }
  else {}

/-- How many of the last beats held entered since a TSM, after one more. -/
def UnitCore.entered (c : UnitCore) (b : Beat) : UnitCore :=
  { c with beats := c.beats ++ [b], since := if b.has 3 then 1 else if c.since = 0 then 0 else c.since + 1 }

/-- A scratch unit in a cycle, with its destination free (`room`) or not. -/
def unitStep (u : ScratchUnit) (room : Bool) (din kin : Option Beat) : UnitRes :=
  let w := u.word
  let c := u.core
  let len := uLen w
  let takeD (c : UnitCore) (ok : Bool) (out : List Beat) : UnitRes := match din with
    | some b => if ok then .go true false (c.entered b) 0 out else if out.isEmpty then .wait else .go false false c 0 out
    | none => if out.isEmpty then .wait else .go false false c 0 out
  match uMode w with
  | 1 =>
    match c.beats with
    | b :: l => if room then takeD { c with beats := l } (decide (l.length < len)) [b] else takeD c (decide (c.beats.length < len)) []
    | [] => takeD c true []
  | 2 =>
    if 0 < c.passes then
      if !room then .wait
      else match c.beats[c.pos]? with
        | none => .wait
        | some b =>
          if c.pos + 1 < c.beats.length then .go false false { c with pos := c.pos + 1 } 0 [b]
          else if c.passes = 1 then .go false false { c with pos := 0, passes := 0, beats := [] } c.beats.length [b]
          else .go false false { c with pos := 0, passes := c.passes - 1 } 0 [b]
    else match din with
      | none => .wait
      | some b =>
        if !room then .wait
        else if c.beats.length = len then .fault 7
        else
          let c := { c with beats := c.beats ++ [b] }
          if b.has 1 then
            .go true false (if uReps w = 1 then { c with beats := [] } else { c with passes := uReps w - 1, pos := 0 }) 1 [b]
          else .go true false c 1 [b]
  | 3 =>
    match c.beats with
    | [] => takeD c true []
    | b :: l =>
      let leaves := c.beats.any (fun b => b.marker.isSome) || (c.beats.length == len && din.isSome)
      if leaves && room then takeD { c with beats := l } true [b]
      else takeD c (decide (c.beats.length < len)) []
  | 4 =>
    match din with
    | none => .wait
    | some b =>
      if !room then .wait
      else if (List.range 16).any fun i => (b.get i).data && !keyLane (b.get i) then .fault 3
      else .go true false c 0 [ofLanes fun i => lutLane w u.table (b.get i)]
  | 5 =>
    match din, kin with
    | some d, some k => keyedStep w c d k
    | _, _ => .wait
  | _ => .wait

/-- A word of a beat read from a scratch unit is found uncorrectable (R325): choice n + 1 of the turn names lane n. -/
def State.unitRead (s : State) (b : Beat) : Except Nat Beat :=
  if s.choice = 0 then .ok b
  else
    let i := (s.choice - 1) % 16
    let l := (List.range 16).map b.get
    let e := modNth (fun _ => markLane 5 1) l i
    if (b.get i).empty then .ok b else if markOk e then .ok (packLanes e) else .error 2

/-- The next output beat of a scratch unit leaves by DOUT or for the array. -/
def State.emitUnit (s : State) (p u : Nat) : State :=
  match s.page p with
  | none => s
  | some x =>
    let t := x.unit u
    match t.out with
    | [] => s
    | b :: l =>
      let done (s : State) (y : Page) (b : Beat) : State :=
        let t := y.unit u
        s.setPage p (y.setUnit u { t with
          out := l
          snap := if b.has 3 then some { word := t.word, table := t.table, core := t.core } else t.snap
          log := if b.has 3 then 0 else t.log })
      if uFeed t.word then
        if s.errWaits x.gid then s
        else if s.choice ≠ 0 ∧ (List.range 16).any fun i => i == (s.choice - 1) % 16 && !(b.get i).empty then
          s.arrayError x.gid p false
        else match x.ma with
          | none => s
          | some m => match m.feed u b with
            | .wait => s
            | .fault c => s.graphFault x.gid p c
            | .ok m => done s { x with ma := some m } b
      else match s.arcOut p (66 + 4 * u) with
        | none => s
        | some (k, a) =>
          if !s.arcRoom k a then s
          else match s.unitRead b with
            | .error c => (s.bump 3 p 6 1).graphFault x.gid p c
            | .ok e =>
              let s := if e = b then s else s.bump 3 p 6 1
              (done s x b).sendArc k e

/-- The destination of a scratch unit has a free slot. -/
def State.unitRoom (s : State) (p : Nat) (x : Page) (u : Nat) : Bool :=
  if uFeed (x.unit u).word then (x.unit u).out.isEmpty
  else match s.arcOut p (66 + 4 * u) with
    | some (k, a) => s.arcRoom k a
    | none => false

/-- A scratch unit accepts an RCF once everything ahead of it has left (R327). -/
def State.unitRcf (s : State) (x : Page) (p u : Nat) (b : Beat) : State :=
  let t := x.unit u
  let arg := match b.marker with | some (_, m) => m.arg | none => 0
  if !t.core.beats.isEmpty || 0 < t.core.passes then s
  else match s.section' x.gid arg with
    | none => s.graphFault x.gid p 4
    | some l =>
      let w := (sectionWord l x.rel (8 + u) 0).getD t.word
      let table := match (s.launch (s.group x.gid).lid).image with
        | some m => if uMode w = 4 then m.content x.rel u else []
        | none => []
      let s := s.takeArc p (64 + 4 * u)
      let s := if uMode t.word = 5 then s.takeArc p (65 + 4 * u) else s
      (s.modPage p fun y => y.setUnit u { word := w, table := table, out := [b], snap := t.snap, log := t.log }).emitUnit p u

/-- A scratch unit's cycle. -/
def State.cycleUnit (s : State) (p u : Nat) : State :=
  match s.page p with
  | none => s
  | some x =>
    let t := x.unit u
    if !s.graphRuns x.gid || uMode t.word == 0 then s
    else if !t.out.isEmpty then s.emitUnit p u
    else
      let d := s.arcHead p (64 + 4 * u)
      let k := s.arcHead p (65 + 4 * u)
      let heads := if uMode t.word = 5 then [(0, d), (1, k)] else [(0, d)]
      let step (din kin : Option Beat) : State :=
        match unitStep t (s.unitRoom p x u) din kin with
        | .wait => s
        | .fault c => s.graphFault x.gid p c
        | .go td tk c n out =>
          let e := if td then endedAfter c.ended 0 (d.getD emptyBeat) else c.ended
          let e := if tk then endedAfter e 1 (k.getD emptyBeat) else e
          let s := if td then s.takeArc p (64 + 4 * u) else s
          let s := if tk then s.takeArc p (65 + 4 * u) else s
          (s.setPage p (x.setUnit u { t with core := { c with ended := e }, log := t.log + n, out := out })).emitUnit p u
      match rcfCheck heads t.core.ended with
      | .fault => s.graphFault x.gid p 4
      | .accept b =>
        if t.core.beats.isEmpty && t.core.passes = 0 then s.unitRcf x p u b else step none none
      | .held _ => s
      | .pass m => s.takeArc p (64 + 4 * u + bit01 (!bitAt m 0))
      | .none => step d k

/-- SCRATCH_UNIT_CYCLE. -/
def execScratchUnitCycle (p u : Nat) (s : State) : Host.Outcome State Fault Refusal :=
  .next (if u < 8 then s.noteMoved (((s.pump p).cycleUnit p u).pump p) p else s)

/-! ### The Ochre token, R349 -/

/-- A packet at a switch has waited 64 cycles or more for a link buffer, and the escape lane's buffer for its link is free. -/
def Packet.due (x : Packet) (net : List Packet) (page cycle : Nat) : Bool :=
  x.page == page && !x.arrived && !x.lane && decide (x.since + 64 ≤ cycle) && laneFree net x.link

/-- The first packet that is due at a switch goes onto the escape lane. -/
def escape (net : List Packet) (page cycle : Nat) : List Packet → Option (List Packet)
  | [] => none
  | x :: l =>
    if x.due net page cycle then some ({ x with lane := true } :: l) else (escape net page cycle l).map fun y => x :: y

/-- OCHRE_TOKEN_STEP: the packets on the escape lane of a die pass their next links, and the token of the die leaves the switch that it
is at, with a packet of it moved onto the lane, and moves on (assumption 22). -/
def execOchreTokenStep (d : Nat) (s : State) : Host.Outcome State Fault Refusal :=
  .next (if 8 ≤ d then s
    else
      let at' := Tab.get 0 s.ochre d
      let net := laneStep d s.cycle [] s.net
      let s := { s with ochre := Tab.set 0 s.ochre d ((at' + 1) % 18), net := net }
      match escape net (d * 18 + at') s.cycle net with
      | none => s
      | some l => ({ s with net := l } : State).bump 4 d 0 1)

/-! ### Chained queues, R310 and R311 -/

/-- The queue whose consuming, or producing, end a message of a chain names. -/
def State.chainEnd (s : State) (m : Msg) (out : Bool) : Option Nat :=
  s.queues.findSome? fun e =>
    let hit := if out then (match e.2.cout with | some c => c.pkg == m.src && c.chain == m.chain | none => false)
      else (match e.2.cin with | some c => c.pkg == m.src && c.chain == m.chain | none => false)
    if hit then some e.1 else none

/-- The group of a queue has raised no graph fault: the queue is OPEN (R289). -/
def State.chainOpen (s : State) (q : Nat) : Bool := (s.group (q / 64)).fault.isNone

/-- A beat of a chain reaches its consuming end: the next of those to be replayed, or the next in sequence (R307, R310). -/
def Queue.chainTake (y : Queue) (c : ChainIn) (seq : Nat) (b : Beat) : Queue :=
  if 0 < c.again ∧ seq = c.next then
    { y with
      replay := y.replay ++ [if c.again = c.wlen then b.fromTsm else b]
      cin := some { c with again := c.again - 1, next := (c.next + 1) % 2 ^ 32 } }
  else if seq = c.seq ∧ y.occ < 64 then
    { y.push [b] with cin := some { c with seq := (c.seq + 1) % 2 ^ 32 } }
  else y

/-- The consuming end of a chain has heard from the producer. -/
def Queue.heard (y : Queue) (time : Nat) : Queue := { y with cin := y.cin.map fun c => { c with heardAt := time } }

/-- CHAIN_BEAT_RECEIVE: the consumer takes the next beat in sequence, or a keep-alive, and acknowledges; a FAULTED queue takes no more
(R289). -/
def execChainBeatReceive (m : Nat) (s : State) : Host.Outcome State Fault Refusal :=
  .next (match s.inbox[m]? with
    | none => s
    | some x =>
      match x.body with
      | .chainBeat seq d t k =>
        let s := s.takeMsg m
        match s.chainEnd x false with
        | none => s
        | some q =>
          let y := s.queue q
          match y.cin with
          | none => s
          | some c =>
            if !s.chainOpen q then s
            else (s.setQueue q ((y.chainTake c seq { data := d, tags := t, pack := k }).heard s.time)).chainGrant q
      | .chainAlive =>
        let s := s.takeMsg m
        match s.chainEnd x false with
        | none => s
        | some q => if !s.chainOpen q then s else (s.setQueue q ((s.queue q).heard s.time)).chainGrant q
      | _ => s)

/-- Send again at most `k` beats from sequence number `n` on that were sent before; the replay window comes ahead of the beats. -/
def State.chainResend (s : State) (q n k : Nat) : State :=
  match k with
  | 0 => s
  | k + 1 =>
    let y := s.queue q
    match y.cout with
    | none => s
    | some c =>
      if n = c.seq then s
      else match (y.window ++ y.beats)[(n + 2 ^ 32 + y.window.length - c.base) % 2 ^ 32]? with
        | none => s
        | some b => (s.chainMsg q c.pkg c.chain (.chainBeat n b.data b.tags b.pack)).chainResend q ((n + 1) % 2 ^ 32) k

/-- CHAIN_ACK_RECEIVE: the producer forgets what is consumed, learns its credits and sends what they cover, or sends again what is to be
replayed (R307). Beats leave OCC as the consumer's graph takes them, and enter the replay window: the acknowledged number with the free
slots of the receive window tells how many. A FAULTED queue keeps its beats (R289). -/
def execChainAckReceive (m : Nat) (s : State) : Host.Outcome State Fault Refusal :=
  .next (match s.inbox[m]? with
    | none => s
    | some x =>
      match x.body with
      | .chainAck a n =>
        let s := s.takeMsg m
        match s.chainEnd x true with
        | none => s
        | some q =>
          let y := s.queue q
          match y.cout with
          | none => s
          | some c =>
            let lim := (a + n) % 2 ^ 32
            if !s.chainOpen q || !(serialLe c.acked a && serialLe a c.seq && serialLe c.limit lim) then s
            else
              let base := (lim + 2 ^ 32 - 64) % 2 ^ 32
              let gone := if serialLe c.base base then (base + 2 ^ 32 - c.base) % 2 ^ 32 else 0
              let c' := { c with
                base := (c.base + gone) % 2 ^ 32
                acked := a
                limit := lim
                attempt := if a = c.acked then c.attempt else 1
                sentAt := if a = c.acked then c.sentAt else s.time }
              let y := (y.beats.take gone).foldl Queue.windowed y
              (s.setQueue q { y with beats := y.beats.drop gone, cout := some c' }).chainSend q 64
      | .chainReplay n k =>
        let s := s.takeMsg m
        match s.chainEnd x true with
        | none => s
        | some q => if s.chainOpen q then s.chainResend q n (Nat.min k 4) else s
      | _ => s)

/-- The timer of a chain's oldest beat that is not acknowledged has run out (R258, R310). -/
def State.chainLate (s : State) (c : ChainOut) : Bool :=
  c.acked != c.seq && c.sentAt + attemptTimer c.attempt ≤ s.time

/-- CHAIN_RETRANSMIT. -/
def execChainRetransmit (q : Nat) (s : State) : Host.Outcome State Fault Refusal :=
  .next (match (s.queue q).cout with
    | none => s
    | some c =>
      if s.chainOpen q && s.chainLate c && c.attempt < 6 then
        let y := s.queue q
        (s.setQueue q { y with cout := some { c with attempt := c.attempt + 1, sentAt := s.time, beatAt := s.time } }).chainResend
          q c.acked 64
      else s)

/-- Page of a group that a chain fault names: the page of the queue's edge port (R413). -/
def State.chainPage (s : State) (q : Nat) : Nat := (s.group (q / 64)).pages.getD (fld (s.queue q).d0 15 0 / 16) 0

/-- A chain is over at one end. -/
def State.endChain (s : State) (q : Nat) : State :=
  let y := s.queue q
  (s.setQueue q { y with cout := none, cin := none }).graphFault (q / 64) (s.chainPage q) 0x0b

/-- CHAIN_RETRANSMIT_EXHAUSTED: a graph fault here and a fault notice there (R311). -/
def execChainRetransmitExhausted (q : Nat) (s : State) : Host.Outcome State Fault Refusal :=
  .next (match (s.queue q).cout with
    | none => s
    | some c =>
      if s.chainOpen q && s.chainLate c && 6 ≤ c.attempt then (s.chainMsg q c.pkg c.chain .chainFault).endChain q else s)

/-- CHAIN_KEEPALIVE: 100 µs without a beat while the queue is OPEN (R311). -/
def execChainKeepalive (q : Nat) (s : State) : Host.Outcome State Fault Refusal :=
  .next (match (s.queue q).cout with
    | none => s
    | some c =>
      if s.chainOpen q && c.beatAt + 100000 ≤ s.time then
        let y := s.queue q
        (s.setQueue q { y with cout := some { c with beatAt := s.time } }).chainMsg q c.pkg c.chain .chainAlive
      else s)

/-- CHAIN_CONSUMER_TIMEOUT: 1,500 µs without a beat or keep-alive. -/
def execChainConsumerTimeout (q : Nat) (s : State) : Host.Outcome State Fault Refusal :=
  .next (match (s.queue q).cin with
    | none => s
    | some c => if c.heardAt + 1500000 ≤ s.time then s.endChain q else s)

/-- CHAIN_FAULT_NOTICE: the producer has given up. -/
def execChainFaultNotice (m : Nat) (s : State) : Host.Outcome State Fault Refusal :=
  .next (match s.inbox[m]? with
    | none => s
    | some x =>
      match x.body with
      | .chainFault =>
        let s := s.takeMsg m
        match s.chainEnd x false with
        | some q => s.endChain q
        | none => s
      | _ => s)

end Sys2Proof.Machine
end

