-- ==== Sys2Proof/Machine/Launch.lean ====
section
/-! DEFINITION. Launches and groups: taking, staging, placement, parking, saving, completion (17_work R414 to R424, R428 to R431;
01_machine R18 to R20; 12_queues R286 to R289, R309). -/
namespace Sys2Proof.Machine

/-! ### Launch records, R415 -/

def Launch.image' (l : Launch) : Nat := recFld l.rcd 0 8
def Launch.arg (l : Launch) : Nat := recFld l.rcd 8 8
def Launch.carea (l : Launch) : Nat := recFld l.rcd 16 8
def Launch.counts (l : Launch) : Nat := recFld l.rcd 24 8
/-- G, T and RECS. -/
def Launch.g (l : Launch) : Nat := fld l.counts 23 0
def Launch.t (l : Launch) : Nat := fld l.counts 35 24
def Launch.recs (l : Launch) : Nat := fld l.counts 51 36
def Launch.ub (l : Launch) : Bool := bitAt l.counts 52
def Launch.wait (l : Launch) : Nat := recFld l.rcd 32 8
def Launch.sig (l : Launch) : Nat := recFld l.rcd 40 8
def Launch.wset (l : Launch) : Nat := recFld l.rcd 48 8
def Launch.succ (l : Launch) : Nat := recFld l.rcd 56 8

/-- An address that the scheduler may read or write: `n` bytes in a tier of this package, aligned. -/
def State.schedPlace (s : State) (pa n align : Nat) : Bool :=
  pa % align == 0 && pa < 2 ^ 54 && pa / 2 ^ 42 == s.pkg && inOneTier (paLocal pa) n

/-- A fault record of a launch goes to the domain of its leaf (R413). -/
def State.launchRecord (s : State) (lid : Nat) (r : FaultRec) : State :=
  let l := s.launch lid
  let r := { r with leaf := l.leaf, who := lid % 2 ^ 32 }
  let d := s.eff l.leaf 12 4
  if d = 0 then s.faultqRecord r else s.appendRecord d r

/-- A semaphore of a leaf's window, by its index. -/
def State.windowSem (s : State) (leaf i : Nat) : Nat := fld (s.eff leaf 11 3) 19 8 + i
/-- SEMLEN of a leaf. -/
def State.semLen (s : State) (leaf : Nat) : Nat := fld (s.eff leaf 11 3) 28 20

/-! ### The end of a group -/

/-- The pages of a group are released with its arcs (R421). -/
def State.releasePages (s : State) (gid : Nat) : State :=
  let g := s.group gid
  let s := { s with
    pages := s.pages.filter fun e => !g.pages.contains e.1
    arcs := s.arcs.filter fun e => !g.pages.contains (e.1 / 128)
    net := s.net.filter fun x => !g.pages.contains (x.arc / 128) }
  s.setGroup gid { g with pages := [] }

/-- Every queue of a group is UNBOUND (R289). -/
def State.unbindQueues (s : State) (gid : Nat) : State :=
  { s with queues := s.queues.filter fun e => e.1 / 64 != gid }

/-- A group is DONE: its pages, slots, queue bytes and save slot return (R18, R421, R433). -/
def State.groupOver (s : State) (gid : Nat) : State :=
  let s := (s.releasePages gid).unbindQueues gid
  let g := s.group gid
  let s := { s with saved := Tab.set none s.saved gid none }
  s.setGroup gid { st := .done, lid := g.lid, idx := g.idx, leaf := g.leaf }

/-- A continuation that ENDGROUP ends leaves its bank: its remote operations that are SENT go on without a destination, its update
batches are closed and sent (10_updates R254), and the channel is free once they end (R277). -/
def State.evacuate (s : State) (r : Nat) : State :=
  let s := (s.opsOf r).foldl
    (fun s e => s.setRop e.1 (if e.2.sent then some { e.2 with dsts := [], record := false } else none)) s
  let s := s.closeQuiet r fun _ => true
  let b := s.bank r
  let s := s.setChan r { s.chan r with
    reserved := if s.chanOver r then none else some (endedCont (s.gidOfBank r))
    faults := [] }
  ((s.detach r).setBank r { threadReset with seq := b.seq, batches := b.batches }).preKeep r fun _ => false

/-- Every continuation of a group ends, and with them the commands that push into its queues. -/
def State.endConts (s : State) (gid : Nat) : State :=
  let s := (s.banksOf gid).foldl State.evacuate s
  let s := (s.liveConts gid).foldl (fun s c => ((s.unqueue c).dropWaiter (.cont c)).setCont c {}) s
  let drop := s.cmds.filter fun e => match e.2 with
    | some c => c.gid == gid && c.pushes.isSome
    | none => false
  let s := (drop.map (·.1)).foldl State.endCmd s
  let s := { s with chans := s.chans.map fun (e : Nat × Chan) =>
      let hit := match e.2.reserved with | some c => !isEnded c && contGroup c == gid | none => false
      (e.1, if hit then { e.2 with reserved := some (endedCont gid), faults := [] } else e.2) }
  (s.chans.map (·.1)).foldl State.chanSettle s

/-- A group is ended (R432). -/
def State.endGroup (s : State) (gid : Nat) : State := (s.endConts gid).groupOver gid

/-- A launch is FAULTED: its groups are ended, with no signal and no successor (R419). -/
def State.failLaunch (s : State) (lid : Nat) : State :=
  let gids := (s.groups.filter fun e => e.2.lid == lid && e.2.st != .undispatched && e.2.st != .done).map (·.1)
  let held := (s.groups.filter fun e => e.2.lid == lid && e.2.restore).map (·.1)
  let s := (gids ++ held).foldl State.endGroup s
  s.setLaunch lid { s.launch lid with st := .faulted, succs := [], backs := [] }

/-! ### LAUNCH_TAKE, R414 and R419 -/

/-- Every group of a leaf's launches is placed, so that the next record may be taken. -/
def State.leafFree (s : State) (leaf : Nat) : Bool :=
  s.launches.all fun e => e.2.leaf != leaf || (match e.2.st with
    | .running | .completing | .done | .faulted => true
    | _ => false)

/-- A field of a launch record outside its limits, or an enabled semaphore index at or above SEMLEN (R415, R419). -/
def State.badLaunch (s : State) (l : Launch) : Bool :=
  let n := s.semLen l.leaf
  (bitAt l.wait 8 && n ≤ fld l.wait 7 0) || (bitAt l.sig 8 && n ≤ fld l.sig 7 0) || l.g == 0 || l.t == 0 || l.recs < l.t
    || !s.schedPlace l.image' 64 64 || !s.schedPlace l.carea (l.g * l.recs * 64) 64

/-- A block that waits for a place in a leaf's queue is appended, with those behind it, until one finds its target full; a
refused one is dropped with a record (R419). -/
def State.appendBlocks (s : State) (lid n : Nat) : State :=
  match n with
  | 0 => s
  | n + 1 =>
    let l := s.launch lid
    match l.succs with
    | [] => s.setLaunch lid { l with st := .done }
    | (a, b) :: rest =>
      match s.appendLaunch (b % 2 ^ 64) (b / 2 ^ 512) with
      | (2, t) => t
      | (1, t) => ((t.setLaunch lid { l with succs := rest }).launchRecord lid { kind := 1, loc := 0xffff, addr := a }).appendBlocks lid n
      | (_, t) => (t.setLaunch lid { l with succs := rest }).appendBlocks lid n

/-- A leaf's HEAD advanced: the blocks that found its queue full are tried again. -/
def State.retryAppends (s : State) (leaf : Nat) : State :=
  let waits (l : Launch) : Bool := l.st == .completing && (match l.succs with
    | b :: _ => b.2 % 2 ^ 64 == leaf
    | [] => false)
  ((s.launches.filter fun e => waits e.2).map (·.1)).foldl (fun s n => s.appendBlocks n ((s.launch n).succs.length + 1)) s

/-- LAUNCH_TAKE: the record at HEAD of a known leaf whose doorbell has a count, which the scheduler watches by what it holds of the
leaf (R411); the leaf is read first. An RCB that no longer has LEAF = 1 gives no launch and is not known any longer (R409; assumption 74). A
record that lies outside the tiers of this package, or in a spill log, is not read: its launch is FAULTED (assumption 72). -/
def execLaunchTake (leaf : Nat) (s : State) : Host.Outcome State Fault Refusal :=
  .next (if !s.leaves.contains leaf || !s.leafFree leaf || (s.sem (s.doorbell leaf)).count == 0 then s
    else if !(s.leafRead leaf).isLeaf leaf then
      { s.leafRead leaf with leaves := s.leaves.filter (· != leaf) }
    else match (s.leafRead leaf).useLeaf leaf with
      | (false, t) => t
      | (true, t) =>
        let t := t.sysRead (paLocal leaf + 0x68) 8 1
        let ptr := t.num (paLocal leaf + 0x68) 8
        let tail := ptr % 2 ^ 32
        let head := ptr / 2 ^ 32
        let bell := t.doorbell leaf
        let q := t.sem bell
        if q.count = 0 ∨ head = tail then t
        else
          let at' := t.launchSlot leaf head
          let here := t.recPlace at'
          let lid := t.nextLid
          let t := if here then t.sysRead (paLocal at') 64 2 else t
          let l : Launch := { leaf := leaf, rcd := if here then t.num (paLocal at') 64 else 0 }
          let poison := here && t.anyPoison (paLocal at') 64 2
          let t := t.sysWrite (paLocal leaf + 0x6c) 4 ((head + 1) % 2 ^ 32) 2
          let t := t.setSem bell { q with count := q.count - 1 }
          let t := { t with nextLid := (lid + 1) % 2 ^ 32 }.setLaunch lid l
          let t := t.retryAppends leaf
          if poison then (t.launchRecord lid { kind := 1, cause := 1, loc := 0xffff, addr := at' }).failLaunch lid
          else if !here || t.badLaunch l then (t.launchRecord lid { kind := 1, loc := 0xffff, addr := at' }).failLaunch lid
          else t)

/-! ### Staging, R416 and R419 -/

/-- LAUNCH_WAIT_MET: WEN = 0, or the wait semaphore has reached THR. -/
def execLaunchWaitMet (lid : Nat) (s : State) : Host.Outcome State Fault Refusal :=
  .next (let l := s.launch lid
    let met := !bitAt l.wait 8 || fld l.wait 63 32 ≤ (s.sem (s.windowSem l.leaf (fld l.wait 7 0))).count
    if l.rcd ≠ 0 ∧ l.st = .taken ∧ met then s.setLaunch lid { l with st := .staging } else s)

/-- An entry of a working-set list (R416). -/
structure Extent where
  src : Nat
  dst : Nat
  len : Nat
  back : Bool
  deriving DecidableEq, Repr

/-- A working-set list that cannot be staged: CAUSE, the number of its entry and the address concerned (R413). -/
structure BadStage where
  cause : Nat
  entry : Nat
  addr : Nat
  deriving DecidableEq, Repr

/-- Two ranges meet; an empty one meets nothing. -/
def overlap (a n b m : Nat) : Bool := 0 < n && 0 < m && a < b + m && b < a + n

/-- The source of an extent keeps to the rules of R416. -/
def State.srcOk (s : State) (x : Extent) : Bool :=
  let a := paLocal x.src
  x.src % 64 == 0 && x.src / 2 ^ 42 == s.pkg && (inOneTier a x.len || (isHost a && a + x.len ≤ 0x3f000000000))

/-- An extent keeps to the rules of R416 by itself. -/
def State.extentOk (s : State) (x : Extent) : Bool :=
  s.srcOk x && x.dst % 64 == 0 && x.len % 64 == 0 && x.len ≤ 2 ^ 40
    && x.dst / 2 ^ 42 == s.pkg && isHbm (paLocal x.dst) && inOneTier (paLocal x.dst) x.len

/-- The working-set list of a launch, checked; the first fault of its entries. -/
def State.readExtents (s : State) (l : Launch) : Except BadStage (List Extent) :=
  let w := l.wset
  if w = 0 then .ok []
  else if !s.schedPlace w 32 32 then .error { cause := 1, entry := 0, addr := w }
  else if s.anyPoison (paLocal w) 32 2 then .error { cause := 2, entry := 0, addr := w }
  else
    let n := s.num (paLocal w) 8
    if 63 < n ∨ !s.schedPlace w (32 + 32 * n) 32 then .error { cause := 1, entry := 0, addr := w }
    else
      let at' (i : Nat) : Nat := w + 32 + 32 * i
      let ent (i : Nat) : Extent :=
        let v := s.num (paLocal (at' i)) 32
        { src := recFld v 0 8, dst := recFld v 8 8, len := recFld v 16 8, back := bitAt (recFld v 24 8) 0 }
      let es := (List.range n).map ent
      match (List.range n).find? fun i => s.anyPoison (paLocal (at' i)) 32 2 with
      | some i => .error { cause := 2, entry := i, addr := at' i }
      | none =>
        let clash (i : Nat) : Bool :=
          let x := ent i
          !s.extentOk x || (List.range n).any fun j =>
            let y := ent j
            overlap x.dst x.len y.src y.len || (j != i && overlap x.dst x.len y.dst y.len)
        match (List.range n).find? clash with
        | some i => .error { cause := 1, entry := i, addr := if s.srcOk (ent i) then (ent i).dst else (ent i).src }
        | none => .ok es

/-- Copy `n` lines as CPY does; it stops behind a poisoned source line, whose address it gives (R181, R416). -/
def State.copyLines (s : State) (src dst n : Nat) (stop : Bool) : Option Nat × State :=
  match n with
  | 0 => (none, s)
  | n + 1 =>
    match s.readAt 0 src 64 with
    | (v, p, s) =>
      let d := paLocal dst
      let s := (s.hostFill (d / 64)).applyAt d 64
      let s := s.rawWrite d 64 v (if isTier d then some (s.sysTag (d / 64)) else none)
      let s := if p.isSome then s.markPoison d 64 else s
      if p.isSome && stop then (some src, s) else s.copyLines (src + 64) (dst + 64) n stop

/-- Copy the entries in order up to the first poisoned source line. -/
def State.stage (s : State) (i : Nat) : List Extent → Option BadStage × State
  | [] => (none, s)
  | x :: l => match s.copyLines x.src x.dst (x.len / 64) true with
    | (some a, s) => (some { cause := 2, entry := i, addr := a }, s)
    | (none, s) => s.stage (i + 1) l

/-- Staging of a launch: its fault or its extents, with the state after the copies. -/
def State.staging (s : State) (l : Launch) : Except BadStage (List Extent) × State :=
  let a := paLocal l.wset
  let s := if l.wset ≠ 0 ∧ s.schedPlace l.wset 32 32 then
      let s := s.sysRead a 32 2
      s.sysRead (a + 32) (if s.num a 8 ≤ 63 then 32 * s.num a 8 else 0) 34
    else s
  match s.readExtents l with
  | .error e => (.error e, s)
  | .ok es => match s.stage 0 es with
    | (some e, t) => (.error e, t)
    | (none, t) => (.ok es, t)

/-- STAGING_COMPLETE: every entry is copied; the launch is READY. -/
def execStagingComplete (lid : Nat) (s : State) : Host.Outcome State Fault Refusal :=
  .next (let l := s.launch lid
    if l.st ≠ .staging then s
    else match s.staging l with
      | (.error _, _) => s
      | (.ok es, t) =>
        let backs := (es.filter (·.back)).map fun x => (x.dst, x.src, x.len)
        t.setLaunch lid { l with st := .ready, order := t.cycle, backs := backs })

/-- STAGING_FAULT: an entry that breaks the rules, or a poisoned line (R416). -/
def execStagingFault (lid : Nat) (s : State) : Host.Outcome State Fault Refusal :=
  .next (let l := s.launch lid
    if l.st ≠ .staging then s
    else match s.staging l with
      | (.error e, t) =>
        (t.launchRecord lid { kind := 8, cause := e.cause, loc := e.entry, addr := e.addr }).failLaunch lid
      | (.ok _, _) => s)

/-! ### Fit, R410, R420 and R422 -/

/-- Pages and queue bytes in use beneath a node. -/
def State.pagesUnder (s : State) (p : Nat) : Nat :=
  s.groups.foldl (fun n e => if (s.rcbPath e.2.leaf 65).contains p then n + e.2.pages.length else n) 0
def State.qbytesUnder (s : State) (p : Nat) : Nat :=
  s.groups.foldl (fun n e => if (s.rcbPath e.2.leaf 65).contains p then n + e.2.qbytes else n) 0

/-- Every node of a leaf's path lets `n` more pages, or queue bytes, be used. -/
def State.pageBudget (s : State) (leaf n : Nat) : Bool :=
  (s.rcbPath leaf 65).all fun p => s.pagesUnder p + n ≤ fld (s.eff p 8 2) 15 0
def State.qbyteBudget (s : State) (leaf n : Nat) : Bool :=
  (s.rcbPath leaf 65).all fun p => s.qbytesUnder p + n ≤ fld (s.eff p 10 2) 63 32

/-- Every node of a leaf's path is enabled (R409). -/
def State.enabled (s : State) (leaf : Nat) : Bool := (s.rcbPath leaf 65).all fun p => bitAt (s.rcb p 1) 1

/-- Free pages of a die. -/
def State.freeOf (s : State) (die : Nat) : List Nat :=
  (List.range 18).map (die * 18 + ·) |>.filter fun p => (s.page p).isNone

/-- The dies by their number of free pages, most first, then by number. -/
def State.dieOrder (s : State) : List Nat :=
  let n (d : Nat) : Nat := (s.freeOf d).length
  let ins (d : Nat) (l : List Nat) : List Nat := l.takeWhile (fun e => n d ≤ n e) ++ d :: l.dropWhile (fun e => n d ≤ n e)
  (List.range 8).foldl (fun l d => ins d l) []

/-- The pages that a placement of `n` takes (R422). -/
def State.choosePages (s : State) (n : Nat) : Option (List Nat) :=
  let all := s.dieOrder.flatMap s.freeOf
  if all.length < n then none else some (all.take n)

/-- Bytes of a queue's backing (R287). -/
def queueBytes (d0 : Nat) : Nat := ((fld d0 43 36 + 1) * 16 + 16 + (if fld d0 63 62 = 1 then fld d0 23 16 * 64 else 0)) * 80

/-- dword 0 of the descriptor of a bound queue, as placement writes it (R288). -/
def descriptor0 (d0 : Nat) : Nat :=
  let d := d0 - (d0 &&& (0x1ffff * 2 ^ 44))
  if fld d 63 62 = 1 then d else putFld d 23 16 0

/-- The bindings of an image, with bq when the image names none (R286). -/
def Image.bound (m : Image) : List BindEnt :=
  if m.binds.any fun b => b.queue == 63 then m.binds
  else m.binds ++ [{ queue := 63, d0 := 2 * 2 ^ 62, d1 := 0, peer := 0 }]

/-- Queue bytes of a group of an image. -/
def Image.qbytes (m : Image) : Nat := m.bound.foldl (fun n b => n + queueBytes (descriptor0 b.d0)) 0

/-- Free bytes of the FIFO banks of a cluster, by bank. -/
def State.fifoFree (s : State) (c : Nat) : List (Nat × Nat) :=
  (List.range 32).filterMap fun b =>
    let x := Tab.get {} s.ctl (c * 32 + b)
    if x.mode = 2 ∧ !x.busy then
      let used := s.groups.foldl (fun n e =>
        if e.2.home = some c then n + ((e.2.fifo.filter fun y => y.1 == b).map (·.2)).foldl (· + ·) 0 else n) 0
      some (b, 2 ^ 17 - used)
    else none

/-- Take `n` bytes from FIFO banks, the lowest first. -/
def takeFifo (n : Nat) : List (Nat × Nat) → Option (List (Nat × Nat))
  | [] => if n = 0 then some [] else none
  | (b, f) :: l =>
    if n ≤ f then some [(b, n)] else (takeFifo (n - f) l).map fun r => (b, f) :: r

/-- Idle banks of a cluster. -/
def State.idleBanks (s : State) (c : Nat) : Nat :=
  ((List.range 128).filter fun i => (s.bank (c * 128 + i)).cont.isNone).length

/-- The home cluster of a new group: the fitting cluster with the most idle banks, the lowest number on a tie (R422). -/
def State.chooseHome (s : State) (qbytes : Nat) : Option (Nat × List (Nat × Nat)) :=
  (List.range 32).foldl (fun o c => match takeFifo qbytes (s.fifoFree c) with
    | none => o
    | some f => match o with
      | some (d, _) => if s.idleBanks d < s.idleBanks c then some (c, f) else o
      | none => some (c, f)) none

/-- A placement that a group could have now. -/
structure Fit where
  home : Nat
  fifo : List (Nat × Nat)
  pages : List Nat
  deriving DecidableEq, Repr

/-- The image of a launch: the one it holds, or the one that a first placement would read. -/
def State.imageOf (s : State) (l : Launch) : Except BadImage Image :=
  match l.image with
  | some m => .ok m
  | none => s.readImage l.image' l.t

/-- The number of the next group of a launch: one that waits to be restored, or the next new one (R419, R428). -/
def State.nextGroup (s : State) (lid : Nat) : Option Nat :=
  let l := s.launch lid
  match s.groups.find? fun e => e.2.lid == lid && e.2.restore && e.2.st == .undispatched with
  | some e => some e.2.idx
  | none => if (l.st = .ready ∨ l.st = .dispatching) ∧ l.placed < l.g then some l.placed else none

/-- What a group needs besides pages: its home and FIFO space; none if it does not fit otherwise. -/
def State.fitHome (s : State) (lid idx : Nat) (m : Image) : Option (Nat × List (Nat × Nat)) :=
  let l := s.launch lid
  let g := s.group (gidOf lid idx)
  if !s.slotRoom l.leaf then none
  else if g.restore then g.home.map fun h => (h, g.fifo)
  else if !s.enabled l.leaf || !s.qbyteBudget l.leaf m.qbytes then none
  else s.chooseHome m.qbytes

/-- The placement of a group, if it fits. -/
def State.fit (s : State) (lid idx : Nat) (m : Image) : Option Fit :=
  match s.fitHome lid idx m with
  | none => none
  | some (h, f) =>
    if !s.pageBudget (s.launch lid).leaf m.pages then none
    else (s.choosePages m.pages).map fun ps => { home := h, fifo := f, pages := ps }

/-- The launch's next group is short of pages only. -/
def State.pageShort (s : State) (lid : Nat) : Bool :=
  match s.nextGroup lid, s.imageOf (s.launch lid) with
  | some i, .ok m => (s.fitHome lid i m).isSome && (s.fit lid i m).isNone
  | _, _ => false

/-- Launch `a` comes before launch `b` in the choice of R420; of two that became READY in one cycle the one of lower LID does (R433). -/
def State.launchBefore (s : State) (a b : Nat) : Bool :=
  let p := s.prio (s.launch a).leaf
  let q := s.prio (s.launch b).leaf
  let x := (s.launch a).order
  let y := (s.launch b).order
  q < p || (p == q && (x < y || (x == y && a < b)))

/-- A launch's next group fits. -/
def State.launchFits (s : State) (lid : Nat) : Bool :=
  match s.nextGroup lid, s.imageOf (s.launch lid) with
  | some i, .ok m => (s.fit lid i m).isSome
  | _, _ => false

/-- A bank that runs a continuation of a group stalls on a pop, or on QWAIT, of an X2A queue (R424). -/
def State.stallsOnPop (s : State) (gid : Nat) : Bool :=
  (s.banksOf gid).any fun r =>
    let b := s.bank r
    match b.stall with
    | some x => (b.stalled.isSome || (match b.park with | some p => p.kind == 1 | none => false))
        && (x.op.pops || (match x.op with | .qwait .. => true | _ => false)) && (s.queue (queueKey gid x.q)).dir == 2
    | none => false

/-- A PARKED group is wanted (R424). -/
def State.wanted (s : State) (gid : Nat) : Bool :=
  (s.group gid).st == .parked && ((List.range 64).any (fun n =>
    let q := s.queue (queueKey gid n)
    q.dir == 1 && !q.beats.isEmpty) || s.stallsOnPop gid)

/-- A wanted parked group fits its pages again. -/
def State.unparkFit (s : State) (gid : Nat) : Option (List Nat) :=
  let g := s.group gid
  if s.pageBudget g.leaf g.npages then s.choosePages g.npages else none

/-- A launch has waited 1 ms with only pages short (R420). -/
def Launch.holdsBack (l : Launch) (time : Nat) : Bool := l.blocks || l.shortSince.any fun t => decide (t + 1000000 ≤ time)

/-- The wait of each launch with only pages short begins, or is over, as the state now is (R420). -/
def State.watchShort (s : State) : State :=
  (s.launches.map (·.1)).foldl (fun (t : State) n =>
    let l := t.launch n
    if s.pageShort n then t.setLaunch n { l with shortSince := some (l.shortSince.getD s.time) }
    else t.setLaunch n { l with shortSince := none, blocks := false }) s

/-- Nothing comes before the next group of a launch: no launch ahead of it fits, no launch of higher priority has waited 1 ms
for pages, and no wanted parked group of its priority or above fits (R420, R424). -/
def State.launchDue (s : State) (lid : Nat) : Bool :=
  let p := s.prio (s.launch lid).leaf
  s.launches.all (fun e => e.1 == lid ||
    !((s.launchBefore e.1 lid && s.launchFits e.1) || (e.2.holdsBack s.time && p < s.prio e.2.leaf && (s.nextGroup e.1).isSome)))
    && s.groups.all fun e => !(s.wanted e.1 && decide (p ≤ s.prio e.2.leaf) && (s.unparkFit e.1).isSome)

/-! ### Placement, R418, R422 and R423 -/

/-- The queues of a group open: descriptors, empty contents and the ends of chains (R288, R310, R418). -/
def State.bindQueues (s : State) (gid idx : Nat) (m : Image) : State :=
  m.bound.foldl (fun s b =>
    let d0 := descriptor0 b.d0
    let pkg := fld b.peer 11 0
    let id := (fld b.peer 43 12 + idx) % 2 ^ 32
    let chain := bitAt d0 61
    let consumes := b.dir == 1 && m.arcFrom (b.eport / 16) (96 + b.eport % 16)
    let q : Queue := { d0 := d0, d1 := b.d1 }
    let q := if !chain then q
      else if consumes then { q with cin := some { pkg := pkg, chain := id, heardAt := s.time } }
      else { q with cout := some { pkg := pkg, chain := id, beatAt := s.time } }
    (s.setQueue (queueKey gid b.queue) q).chainGrant (queueKey gid b.queue)) s

/-- A page as its image configures it. -/
def Image.page (m : Image) (gid rel : Nat) : Page :=
  let ws := m.words.filter fun e => e.page == rel
  ws.foldl (fun x e =>
    if e.unit < 8 then x.setStage e.unit e.stage { word := e.word }
    else if e.unit < 16 then
      x.setUnit (e.unit - 8) { word := e.word, table := if uMode e.word = 4 then m.content rel (e.unit - 8) else [] }
    else if e.unit = 16 then { x with ma := some { word := e.word } }
    else { x with checked := bitAt e.word 0 }) { gid := gid, rel := rel }

/-- The pages and arcs of a group are loaded (R418, R423). -/
def State.loadPages (s : State) (gid : Nat) (m : Image) (ps : List Nat) : State :=
  let s := (List.range ps.length).foldl (fun s i => s.setPage (ps.getD i 0) (m.page gid i)) s
  m.arcs.foldl (fun s a => s.setArc (arcKey (ps.getD a.toPage 0) a.toPort)
    { page := ps.getD a.fromPage 0, port := a.fromPort, slots := a.slots }) s

/-! ### Save images, R429 and R430 -/

/-- The header of page `i` of a group's save image: its first 24 bytes. -/
def State.saveHeader (s : State) (gid i : Nat) (x : Page) : Nat :=
  let g := s.group gid
  (s.launch g.lid).image' + i % 2 ^ 32 * 2 ^ 64 + (1 + bit01 x.checked * 2 + bit01 x.ma.isSome * 4) * 2 ^ 96
    + g.lid % 2 ^ 32 * 2 ^ 128 + g.idx % 2 ^ 32 * 2 ^ 160

/-- Fill `n` lines with bytes that belong to the part. -/
def State.fillLines (s : State) (a n : Nat) : State :=
  match n with
  | 0 => s
  | n + 1 =>
    let v := (List.range 64).foldl (fun v i => v + (Config.saveByte (s.fresh + i)).toNat * 256 ^ i) 0
    { (s.sysWrite a 64 v 2) with fresh := s.fresh + 64 }.fillLines (a + 64) n

/-- The contents of an arc, whose entry is (relative page × 128 + input port code, arc), in the save image of page `i` at `a`: its beats, 80
bytes each (R429; 12_queues R280). -/
def State.writeArc (s : State) (a i : Nat) (e : Nat × Arc) : State :=
  if e.1 / 128 ≠ i then s
  else
    let n := 80 * e.2.beats.length
    let v := e.2.beats.foldr (fun b v => b.bytes + v * 2 ^ 640) 0
    s.sysWrite (a + 0x140000 + e.1 % 128 * 0x1400) n v (n / 64 + 2)

/-- Write the save image of a graph: every section, with the beats of the arcs, then the header with VALID (R429, R430). -/
def State.writeSave (s : State) (gid slot i : Nat) (arcs : List (Nat × Arc)) : List Page → State
  | [] => s
  | x :: l =>
    let a := paLocal slot + i * 2 ^ 21
    let s := arcs.foldl (fun s e => s.writeArc a i e) (s.fillLines a (2 ^ 15))
    (s.sysWrite a 24 (s.saveHeader gid i x) 2).writeSave gid slot (i + 1) arcs l

/-- The graph of a group with page numbers relative. -/
def State.graphOf (s : State) (gid : Nat) : SavedGraph :=
  let g := s.group gid
  let rel (p : Nat) : Nat := (findIdx (· == p) g.pages).getD 0
  { pages := g.pages.map fun p => (s.page p).getD { gid := gid, rel := rel p }
    arcs := s.arcs.filterMap fun e => match e.2 with
      | some a => if g.pages.contains (e.1 / 128) then some (rel (e.1 / 128) * 128 + e.1 % 128, { a with page := rel a.page })
        else none
      | none => none }

/-- Packets on their way reach the arcs of a group. -/
def State.settleGroup (s : State) (gid : Nat) : State :=
  let g := s.group gid
  (s.net.map (·.arc)).foldl (fun s k => if g.pages.contains (k / 128) then s.deliverArc k true else s) s

/-- A graph is saved into the group's slot and its pages are released. -/
def State.saveGraph (s : State) (gid : Nat) : State :=
  let s := s.settleGroup gid
  let x := s.graphOf gid
  let s := match (s.group gid).save with
    | some a => s.writeSave gid a 0 x.arcs x.pages
    | none => s
  { s with saved := Tab.set none s.saved gid (some x) }.releasePages gid

/-- The first page of a group's save image whose header does not match (R430). -/
def State.saveMismatch (s : State) (gid : Nat) : Option Nat :=
  let g := s.group gid
  match g.save, Tab.get none s.saved gid with
  | some a, some x => (List.range x.pages.length).find? fun i =>
      let at' := paLocal a + i * 2 ^ 21
      s.anyPoison at' 24 2 || s.num at' 24 != s.saveHeader gid i (x.pages.getD i { gid := gid, rel := i })
  | _, _ => some 0

/-- A restored graph takes pages (R430); a header that does not match ends the group FAULTED. -/
def State.restoreGraph (s : State) (gid : Nat) (ps : List Nat) : State :=
  let g := s.group gid
  let s := match g.save with
    | some a => (List.range g.npages).foldl (fun (s : State) i => s.sysRead (paLocal a + i * 2 ^ 21) 24 1) s
    | none => s
  match s.saveMismatch gid with
  | some i =>
    let s := s.setGroup gid { g with st := .faulted, fault := some (i, 0), restore := false }
    let s := (s.banksOf gid).foldl (fun s r => s.setBank r ((s.bank r).statBit 19 true)) s
    s.domainRecord gid { kind := 0x0b, cause := 2, loc := i, addr := g.save.getD 0 }
  | none =>
    let x := (Tab.get none s.saved gid).getD { pages := [], arcs := [] }
    let s := (List.range ps.length).foldl (fun s i => match x.pages[i]? with
      | some y => s.setPage (ps.getD i 0) y
      | none => s) s
    let s := x.arcs.foldl (fun s e => s.setArc (ps.getD (e.1 / 128) 0 * 128 + e.1 % 128) { e.2 with page := ps.getD e.2.page 0 }) s
    let s := { s with saved := Tab.set none s.saved gid none }
    s.setGroup gid { g with st := .placing, pages := ps, save := none, moved := s.time }

/-- A new group is placed: its queues open and its pages are loaded. -/
def State.placeNew (s : State) (lid idx : Nat) (m : Image) (f : Fit) : State :=
  let l := s.launch lid
  let gid := gidOf lid idx
  let s := s.setGroup gid
    { st := .placing, lid := lid, idx := idx, leaf := l.leaf, home := some f.home, pages := f.pages, npages := m.pages
      qbytes := m.qbytes, recs := l.recs, carea := l.carea + idx * l.recs * 64, fifo := f.fifo, moved := s.time }
  let s := s.setLaunch lid { l with
    image := some m
    placed := idx + 1
    st := if idx + 1 = l.g then .running else .dispatching
    shortSince := none
    blocks := false }
  (s.bindQueues gid idx m).loadPages gid m f.pages

/-- The scheduler reads the image of a launch at its first placement: what is pending for its blocks is applied (10_updates R249). -/
def State.readsImage (s : State) (l : Launch) : State :=
  let a := paLocal l.image'
  if l.image.isSome then s
  else
    let s := s.sysRead a 64 1
    let len := recFld (s.num a 64) 16 8
    if inOneTier a len then s.sysRead a len (cdiv len 64 + 1) else s

/-- GROUP_PLACE: group `g` of a launch goes to home cluster `c`, its first page being `p`, when it is the one due and that is
the scheduler's choice; the image is read and may be refused (R418). -/
def execGroupPlace (lid g c p : Nat) (s : State) : Host.Outcome State Fault Refusal :=
  .next (let l := s.launch lid
    if s.nextGroup lid ≠ some g then s
    else
      let t := s.readsImage l
      match t.imageOf l with
      | .error e => (t.launchRecord lid { kind := 1, cause := e.cause, loc := e.page, addr := e.addr }).failLaunch lid
      | .ok m =>
        match t.fit lid g m with
        | none => s
        | some f =>
          if f.home ≠ c ∨ f.pages.head? ≠ some p ∨ !t.launchDue lid then s
          else if (t.group (gidOf lid g)).restore then t.restoreGraph (gidOf lid g) f.pages
          else t.placeNew lid g m f)

/-- A held continuation goes where it would have gone (R151, R425). -/
def State.unhold (s : State) (c : Nat) : State :=
  let k := s.cont c
  if k.st ≠ .held then s
  else match k.place with
    | .runq => s.enqueue c
    | .time t => if t ≤ s.time then s.enqueue c else s.setCont c { k with st := .waiting }
    | _ => s.setCont c { k with st := .waiting }

/-- The initial continuations of a group are written and queued (R423); a PC has bits 1:0 zero (03_encoding R59). -/
def State.firstConts (s : State) (gid : Nat) : State :=
  let g := s.group gid
  let l := s.launch g.lid
  let start := match l.image with | some m => m.start | none => []
  (List.range l.t).foldl (fun s i =>
    let pc := (if start.length = 1 then start.headD 0 else start.getD i 0) / 4 * 4
    let k : Cont :=
      { st := .ready, pc := BitVec.ofNat 64 pc, ub := l.ub
        g := [BitVec.ofNat 64 l.arg, BitVec.ofNat 64 g.idx, BitVec.ofNat 64 i, BitVec.ofNat 64 l.g, BitVec.ofNat 64 l.t, 0] }
    let c := contId gid i
    ((s.setCont c k).scrambleRecord c).enqueue c) s

/-- GROUP_CONFIG_ACK: every die has acknowledged; the group is RESIDENT. Of several held continuations of one run queue, that of the lower
record index enters first: R151 gives no order (assumption 79). -/
def execGroupConfigAck (lid g : Nat) (s : State) : Host.Outcome State Fault Refusal :=
  .next (let gid := gidOf lid g
    let x := s.group gid
    if x.st ≠ .placing then s
    else
      let s := s.setGroup gid { x with st := .resident, restore := false, placedOnce := true, moved := s.time }
      if x.placedOnce then (s.liveConts gid).foldl State.unhold s else s.firstConts gid)

/-- PAGE_WAIT_PRIORITY: a launch that has been short of pages only for 1 ms holds back those of lower priority (R420). The wait counts from
the moment at which only pages were short, which the start of every turn watches. -/
def execPageWaitPriority (lid : Nat) (s : State) : Host.Outcome State Fault Refusal :=
  .next (let l := s.launch lid
    if !s.pageShort lid then (if l.shortSince.isNone && !l.blocks then s else s.setLaunch lid { l with shortSince := none, blocks := false })
    else match l.shortSince with
      | none => s.setLaunch lid { l with shortSince := some s.time }
      | some t => if t + 1000000 ≤ s.time then s.setLaunch lid { l with blocks := true } else s)

/-! ### Idle graphs, parking and done groups, R18 and R424 -/

/-- A matrix array has nothing staged, no fire and no drain in progress. -/
def Matrix.idle (m : Matrix) : Bool :=
  m.staged.all List.isEmpty && m.marks.all Option.isNone && m.fire.isNone && m.items.isEmpty

/-- A scratch unit holds no beat and has no pass to emit. -/
def ScratchUnit.idle (u : ScratchUnit) : Bool :=
  u.out.isEmpty && u.core.passes == 0 && (!(uMode u.word == 1 || uMode u.word == 3) || u.core.beats.isEmpty)

/-- A page holds no beat. -/
def Page.idle (x : Page) : Bool :=
  x.stages.all (fun e => e.2.out.isEmpty && e.2.inreg.isNone) && x.units.all (fun e => e.2.idle) && x.drains.isEmpty
    && match x.ma with | some m => m.idle | none => true

/-- A group's graph is idle (R424). -/
def State.graphIdle (s : State) (gid : Nat) : Bool :=
  let g := s.group gid
  s.arcs.all (fun e => !g.pages.contains (e.1 / 128) || (match e.2 with | some a => a.beats.isEmpty | none => true))
    && s.net.all (fun x => !g.pages.contains (x.arc / 128))
    && g.pages.all (fun p => match s.page p with | some x => x.idle | none => true)
    && (List.range 63).all fun n =>
      let q := s.queue (queueKey gid n)
      q.dir != 1 || (q.replay.isEmpty && !q.opened)

/-- A RESIDENT group that has been idle for 20 µs. -/
def State.parkable (s : State) (gid : Nat) : Bool :=
  let g := s.group gid
  g.st == .resident && g.fault.isNone && g.moved + 20000 ≤ s.time && s.graphIdle gid

/-- The lowest free save slot of `n` pages in a leaf's pool (R422). -/
def State.saveSlot (s : State) (leaf n : Nat) : Option Nat :=
  let base := s.eff leaf 14 9
  let len := fld (s.eff leaf 14 10) 31 0
  let busy (a : Nat) : Bool := s.groups.any fun e => match e.2.save with
    | some b => overlap a (n * 2 ^ 21) b (e.2.npages * 2 ^ 21)
    | none => false
  let starts := (s.groups.filterMap fun e => e.2.save.map fun b => b + e.2.npages * 2 ^ 21)
  let ok (a : Nat) : Bool := base ≤ a && a + n * 2 ^ 21 ≤ base + len * 2 ^ 21 && a % 2 ^ 21 == 0
    && s.schedPlace a (n * 2 ^ 21) (2 ^ 21) && !busy a
  (base :: starts).foldl (fun o a => if ok a then (match o with | some b => some (Nat.min a b) | none => some a) else o) none

/-- Some group waits for pages (R421). -/
def State.pagesWanted (s : State) : Bool :=
  s.launches.any (fun e => s.pageShort e.1) || s.groups.any fun e => s.wanted e.1 && (s.unparkFit e.1).isNone

/-- GROUP_IDLE_PARK: of the parkable groups that have a free save slot the first, lowest priority first and then longest idle, when
another waits for pages (R421, R424). -/
def execGroupIdlePark (lid g : Nat) (s : State) : Host.Outcome State Fault Refusal :=
  .next (let gid := gidOf lid g
    let x := s.group gid
    let p := s.prio x.leaf
    let first := s.groups.all fun e => e.1 == gid || !s.parkable e.1 || (s.saveSlot e.2.leaf e.2.npages).isNone || p < s.prio e.2.leaf ||
      (p == s.prio e.2.leaf && x.moved ≤ e.2.moved)
    if !s.parkable gid || !first || !s.pagesWanted then s
    else match s.saveSlot x.leaf x.npages with
      | none => s
      | some a => s.setGroup gid { x with st := .parking, save := some a })

/-- No array of a group has a fire in progress (R359, R369). -/
def State.noFire (s : State) (gid : Nat) : Bool :=
  (s.group gid).pages.all fun p => match s.page p with
    | some x => (match x.ma with | some m => m.fire.isNone | none => true)
    | none => true

/-- GROUP_SAVE_COMPLETE: a PARKING group is PARKED; a PREEMPTING group whose continuations are off their slots is PREEMPTED. -/
def execGroupSaveComplete (lid g : Nat) (s : State) : Host.Outcome State Fault Refusal :=
  .next (let gid := gidOf lid g
    let x := s.group gid
    let save (st : GroupState) : State :=
      let t := if x.pages.isEmpty then s else s.saveGraph gid
      t.setGroup gid { t.group gid with st := st }
    if !s.noFire gid then s
    else if x.st = .parking then save .parked
    else if x.st = .preempting ∧ (s.banksOf gid).isEmpty then save .preempted
    else s)

/-- GROUP_UNPARK: a wanted parked group whose pages fit, and before which no wanted group of higher priority stands, is placed
again on pages of which `p` is the first; it keeps its home `c`. -/
def execGroupUnpark (lid g c p : Nat) (s : State) : Host.Outcome State Fault Refusal :=
  .next (let gid := gidOf lid g
    let x := s.group gid
    let q := s.prio x.leaf
    let due := s.groups.all (fun e => e.1 == gid || !(s.wanted e.1 && q < s.prio e.2.leaf && (s.unparkFit e.1).isSome))
      && s.launches.all fun e => !(q < s.prio e.2.leaf && (s.launchFits e.1 || (e.2.holdsBack s.time && (s.nextGroup e.1).isSome)))
    if !s.wanted gid || !due || x.home ≠ some c then s
    else match s.unparkFit gid with
      | none => s
      | some ps => if ps.head? ≠ some p then s else s.restoreGraph gid ps)

/-- Nothing of a queue is still to be delivered (01_machine R18): it is empty, or it is the producing end of a chain and every beat is
acknowledged, though the credit that tells of the last ones has not come (12_queues R310; assumption 31). -/
def Queue.spent (q : Queue) : Bool :=
  q.replay.isEmpty && (q.beats.isEmpty || match q.cout with
    | some c => c.acked == c.seq && (c.base + q.beats.length) % 2 ^ 32 == c.seq
    | none => false)

/-- GROUP_DONE: every condition of R18 holds; they can hold of a parked group too, whose graph is idle. The remote writes and update
batches of a continuation that ENDCONT ended are over, so that the launch's signal comes after them (R19). -/
def execGroupDone (lid g : Nat) (s : State) : Host.Outcome State Fault Refusal :=
  .next (let gid := gidOf lid g
    let x := s.group gid
    let empty := (List.range 64).all fun n => (s.queue (queueKey gid n)).spent
    let cmds := s.cmds.any fun e => match e.2 with | some c => c.gid == gid | none => false
    let sent := s.chans.any fun e => e.2.reserved == some (endedCont gid)
    if (x.st = .resident ∨ x.st = .parked) ∧ x.fault.isNone ∧ (s.liveConts gid).isEmpty ∧ !cmds ∧ !sent ∧ s.graphIdle gid ∧ empty then
      s.groupOver gid
    else s)

/-! ### LAUNCH_COMPLETE, R19 and R419 -/

/-- Copy back what the working set owes. -/
def State.copyBacks (s : State) : List (Nat × Nat × Nat) → State
  | [] => s
  | (a, b, n) :: l => (s.copyLines a b (n / 64) false).2.copyBacks l

/-- The successor blocks of a launch: the block that SUCC names, then those of the image; a block that cannot be read is
dropped with a record. -/
def State.successors (s : State) (lid : Nat) : State :=
  let l := s.launch lid
  let own := l.succ
  let ok := s.schedPlace own 128 128
  let s := if own ≠ 0 ∧ ok then s.sysRead (paLocal own) 128 3 else s
  let s := if own ≠ 0 ∧ (!ok ∨ s.anyPoison (paLocal own) 128 3) then
      s.launchRecord lid { kind := 1, cause := bit01 ok, loc := 0xffff, addr := own }
    else s
  let blk := if own ≠ 0 ∧ ok ∧ !s.anyPoison (paLocal own) 128 3 then [(own, s.num (paLocal own) 128)] else []
  let img := match l.image with | some m => m.succ | none => []
  s.setLaunch lid { l with succs := blk ++ img, backs := [] }

/-- LAUNCH_COMPLETE: back copies, then the signal, then the appends. -/
def execLaunchComplete (lid : Nat) (s : State) : Host.Outcome State Fault Refusal :=
  .next (let l := s.launch lid
    let all := (List.range l.g).all fun i => (s.group (gidOf lid i)).st == .done
    if l.st ≠ .running ∨ !all then s
    else
      let s := s.setLaunch lid { l with st := .completing }
      let s := s.copyBacks l.backs
      let s := if bitAt l.sig 8 then s.semSignal (s.windowSem l.leaf (fld l.sig 7 0)) (fld l.sig 63 32) else s
      let s := s.successors lid
      s.appendBlocks lid ((s.launch lid).succs.length + 1))

end Sys2Proof.Machine
end

