-- ==== Sys2Proof/Machine/Supervisor.lean ====
section
/-! DEFINITION. The supervisor's scheduler commands, pre-emption, eviction and restoring (17_work R411, R428, R430 to R433;
04_registers R101, R102; 06_ins_control R151, R156; 11_remote R277). -/
namespace Sys2Proof.Machine

/-! ### Commands, R432 -/

/-- A command code that the table of R432 assigns. -/
def scmdCode (v : Nat) : Bool := 1 ≤ v / 2 ^ 60 && v / 2 ^ 60 ≤ 9

/-- The command that service core `n` has started, if it has code `op`, ends: `k` gives the state after it and whether it
is refused, or the state in which it still runs. -/
def State.command (s : State) (n op : Nat) (k : State → Nat → Option Bool × State) : State :=
  match Tab.get none s.scmd n with
  | none => s
  | some v =>
    if v / 2 ^ 60 ≠ op then s
    else match k s v with
      | (none, t) => t
      | (some no, t) => { t with scmd := Tab.set none t.scmd n none, sstat := Tab.set 0 t.sstat n (bit01 no) }

/-- The RCB or record that a command names. -/
def cmdPa (v : Nat) : Nat := v % 2 ^ 48 * 64
/-- The channel that a command names. -/
def cmdChan (v : Nat) : Nat := fld v 59 48

/-- SYNC: the RCB is read again, and a usable leaf becomes known (R411); what is no leaf any longer is not known (R409). -/
def State.syncRcb (s : State) (pa : Nat) : Bool × State :=
  if !s.rcbPlace pa then (true, s)
  else
    let s := s.leafRead pa
    if !s.isLeaf pa then (false, { (s.readRcb pa).2 with leaves := s.leaves.filter (· != pa) })
    else match s.useLeaf pa with
      | (true, s) => (false, { s with leaves := if s.leaves.contains pa then s.leaves else pa :: s.leaves })
      | (false, s) => (true, s)

/-- SYNC (R432). -/
def execSync (n : Nat) (s : State) : Host.Outcome State Fault Refusal :=
  .next (s.command n 1 fun s v =>
    let (no, t) := s.syncRcb (cmdPa v)
    (some no, t))

/-! ### PREEMPT and RESUME, R428 -/

/-- The groups under a region. -/
def State.groupsUnder (s : State) (pa : Nat) : List Nat :=
  (s.groups.filter fun e => (s.rcbPath e.2.leaf 65).contains pa).map (·.1)

/-- A continuation that runs on no bank is held with its group (R151, R425). -/
def State.holdCont (s : State) (c : Nat) : State :=
  let k := s.cont c
  match k.st with
  | .ready => (s.unqueue c).setCont c { k with st := .held, place := .runq }
  | .waiting => s.setCont c { k with st := .held }
  | _ => s

/-- A group is marked PREEMPTING: its banks take STAT.PREEMPT and its other continuations are held. -/
def State.markGroup (s : State) (gid : Nat) (slot : Option Nat) : State :=
  let s := s.setGroup gid { s.group gid with st := .preempting, preemptAt := s.time, save := slot }
  let s := (s.banksOf gid).foldl (fun s r => s.setBank r { ((s.bank r).statBit 18 true) with missed := false }) s
  (s.liveConts gid).foldl State.holdCont s

/-- A group is pre-empted: a RESIDENT one needs a save slot (R430), a PARKED or PARKING one has it (R433). -/
def State.preemptGroup (s : State) (gid : Nat) : State :=
  let g := s.group gid
  match g.st with
  | .parked | .parking => s.markGroup gid g.save
  | .resident =>
    if g.npages = 0 then s.markGroup gid none
    else match s.saveSlot g.leaf g.npages with
      | some a => s.markGroup gid (some a)
      | none => s.domainRecord gid { kind := 0x0b, cause := 1 }
  | _ => s

/-- PREEMPT (R428). -/
def execPreempt (n : Nat) (s : State) : Host.Outcome State Fault Refusal :=
  .next (s.command n 2 fun s v =>
    if s.rcbPlace (cmdPa v) then (some false, (s.groupsUnder (cmdPa v)).foldl State.preemptGroup s) else (some true, s))

/-- A PREEMPTED group waits to be placed again. -/
def State.resumeGroup (s : State) (gid : Nat) : State :=
  let g := s.group gid
  if g.st = .preempted then s.setGroup gid { g with st := .undispatched, restore := true } else s

/-- RESUME (R428). -/
def execResume (n : Nat) (s : State) : Host.Outcome State Fault Refusal :=
  .next (s.command n 3 fun s v =>
    if s.rcbPlace (cmdPa v) then (some false, (s.groupsUnder (cmdPa v)).foldl State.resumeGroup s) else (some true, s))

/-- PREEMPT_DEADLINE: a bank of a PREEMPTING group still runs or is parked 20 µs after the request (R428, R26). -/
def execPreemptDeadline (r : Nat) (s : State) : Host.Outcome State Fault Refusal :=
  .next (let b := s.bank r
    match b.cont with
    | none => s
    | some c =>
      let g := s.group (contGroup c)
      if g.st == .preempting && g.preemptAt + 20000 ≤ s.time && !b.missed then
        (s.setBank r { b with missed := true }).domainRecord (contGroup c)
          { kind := 0x0a, cause := 0x10, loc := r, pc := b.pc.toNat }
      else s)

/-! ### EVICT, R101, R102, R182 and R277 -/

/-- The drain of an eviction is over: every local request of the bank is performed, every remote load has written its
register, and no instruction is under way. A record that an instruction was reading from another package is not waited for: the
instruction executes again. -/
def State.evictReady (s : State) (r : Nat) : Bool :=
  let b := s.bank r
  b.reqs.isEmpty && b.batches.isEmpty && b.todo.isEmpty && b.busy.isNone && b.blocked.isNone
    && b.entering.isNone && !s.pairs.any (fun p => p.who == r)
    && (s.opsOf r).all fun e => e.2.held.isSome || e.2.record || (e.2.serial.isSome && e.2.dsts.isEmpty)

/-- The marked registers of a bank. -/
def Bank.marked (b : Bank) : List (Reg × Mark) :=
  (b.gmark.filterMap fun e => e.2.map fun m => (Reg.g e.1, m)) ++ b.vmark.filterMap fun e => e.2.map fun m => (Reg.v e.1, m)

/-- A register as a record stores it: a marked one is zero (R182). -/
def Bank.keptG (b : Bank) (i : Nat) : Nat := if (b.mark (.g i)).isSome then 0 else (b.gpr i).toNat
def Bank.keptV (b : Bank) (i : Nat) : Nat := if (b.mark (.v i)).isSome then 0 else (b.vreg i).toNat

/-- `n` fields of `w` bytes as one number. -/
def packFields (w n : Nat) (f : Nat → Nat) : Nat := foldN n (fun i v => v + f i % 256 ^ w * 256 ^ (w * i)) 0

/-- RECKIND of a bank (R102). -/
def Bank.recKind (b : Bank) : Nat :=
  match b.park with
  | some p => p.kind
  | none => 3

/-- The 64 bytes of channel state (R277). -/
def State.chanRecord (s : State) (r : Nat) : Nat :=
  let n := (s.slotsOf r).length
  let f := match firstRemote (s.bank r).rfaults with
    | some x => x.einfo % 2 ^ 64 + x.eaddr % 2 ^ 64 * 2 ^ 64
    | none => 0
  s.rchan r % 2 ^ 32 + (bit01 (n != 0) + n % 32 * 2) * 2 ^ 32 + (s.chan r).next % 2 ^ 32 * 2 ^ 64 + s.ackt r % 2 ^ 32 * 2 ^ 96
    + f * 2 ^ 128

/-- The full thread record of a bank (R102). -/
def State.threadRecord (s : State) (r : Nat) : Nat :=
  let b := s.bank r
  packFields 8 32 b.keptG + packFields 64 16 b.keptV * 256 ^ 0x100
    + packFields 2 8 (fun i => (b.kreg i).toNat) * 256 ^ 0x500
    + packFields 8 8 (fun i =>
        [b.pc.toNat, (b.readStat r).toNat, b.epc.toNat, b.ecause.toNat, b.einfo.toNat, b.eaddr.toNat,
          b.ids.toNat, b.qtrapcfg.toNat].getD i 0) * 256 ^ 0x510
    + packFields 8 4 (fun i => (Tab.get 0 b.scratch i).toNat) * 256 ^ 0x550
    + s.chanRecord r * 256 ^ 0x570 + b.recKind * 256 ^ 0x5b0
    + packFields 8 3 (fun i => [b.ctxroot.toNat, b.ctxkey.toNat, b.xtab.toNat].getD i 0) * 256 ^ 0x5b8

/-- Record of a marked register that an eviction drops (R182, R413). -/
def State.evPoison (s : State) (r : Nat) (x : Reg × Mark) : State :=
  let (leaf, who) := match (s.bank r).cont with
    | some c => (s.contLeaf c, (s.group (contGroup c)).who)
    | none => (0, 0)
  s.faultqRecord { kind := 6, cause := 6, leaf := leaf, who := who, loc := r, addr := x.2.va.toNat, info := x.1.einfo }

/-- The bank of an evicted continuation is freed: its channel is reserved while a slot is not FREE (R277), and its engine
commands run on detached (R234). The stream faults, remote faults and queue events that it has not taken wait for its return, the
slots of the stream faults freed. A REFUSED answer that has not yet been delivered is lost: the restored bank executes the
instruction again (assumption 60). -/
def State.evictBank (s : State) (r c pa : Nat) : State :=
  let b := s.bank r
  let s := (s.opsOf r).foldl (fun s e => if e.2.record then s.setRop e.1 none else s) s
  let keep := !(s.slotsOf r).isEmpty
  let s := s.setChan r { s.chan r with reserved := if keep then some c else none, faults := if keep then b.rfaults else [] }
  let s := ((s.detach r).setBank r { threadReset with seq := b.seq }).preMove r (preCont c) false
  s.setCont c { s.cont c with
    st := .evicted
    bank := none
    full := some pa
    ub := b.ub
    rfaults := if keep then [] else b.rfaults
    sfaults := b.sfaults.map fun x => { x with slot := 8 }
    qevents := b.qevents
    again := b.again
    againP := b.againP }

/-- EVICT of a bank into the record at `pa`: refused, still draining, or done. -/
def State.evictTo (s : State) (r pa : Nat) : Option Bool × State :=
  let b := s.bank r
  match b.cont with
  | none => (some true, s)
  | some c =>
    if b.park.isNone && (s.group (contGroup c)).st != .preempting || !s.schedPlace pa 1536 64 then (some true, s)
    else
      let s := s.closeQuiet r fun _ => true
      let (packed, s) := s.closePacks r 65
      if !packed || !s.evictReady r then (none, s)
      else
        let s := (s.bank r).marked.foldl (fun s x => s.evPoison r x) s
        let s := s.sysWrite (paLocal pa) 1536 (s.threadRecord r) 25
        (some false, s.evictBank r c pa)

/-- EVICT (R101, R432). -/
def execEvict (n : Nat) (s : State) : Host.Outcome State Fault Refusal :=
  .next (s.command n 4 fun s v => s.evictTo (cmdChan v) (cmdPa v))

/-! ### RESTORE and ENDCONT, R101, R102 and R277 -/

/-- The continuation whose full record lies at `pa`. -/
def State.evictedAt (s : State) (pa : Nat) : Option Nat :=
  (s.conts.find? fun e => e.2.st == .evicted && e.2.full == some pa).map (·.1)

/-- A bank that a continuation may be restored into: it is empty, its channel is free or reserved to this continuation, and it
lies in the home cluster unless the continuation is unbound (R101, R432). -/
def State.takes (s : State) (r c : Nat) : Bool :=
  !isSvc r && (s.bank r).cont.isNone && (s.chanFree r || (s.chan r).reserved == some c)
    && ((s.cont c).ub || (s.group (contGroup c)).home == some (r / 128))

/-- The channel that is reserved to a continuation. -/
def State.reservedTo (s : State) (c : Nat) : Option Nat := (s.chans.find? fun e => e.2.reserved == some c).map (·.1)

/-- The HELD operations of a reserved channel move to another bank's (R277). -/
def State.moveOps (s : State) (from' to' : Nat) : State :=
  { s with rops := s.rops.map fun e => (e.1, e.2.map fun o =>
      if o.who = from' ∧ o.eng = none then { o with who := to', moved := true } else o) }

/-- Field `i` of `w` bytes of a record, from byte `at'` on. -/
def recWord (v at' w i : Nat) : Nat := v / 256 ^ (at' + w * i) % 256 ^ w

/-- The STAT that a record restores: BANK and GRAPH follow from the new place, and a remote fault found sets REMOTE (R91, R101,
R277). -/
def recStat (v r : Nat) (remote graph : Bool) : Nat :=
  let vrm := fld v 15 13
  ((v &&& 0x171f05) ||| bit01 remote * 2 ^ 17) + r % 2 * 2 + (if 5 < vrm then 0 else vrm) * 2 ^ 13 + bit01 graph * 2 ^ 19

/-- The bank that a full thread record describes, in the bank `r` of continuation `c`, with what waits for its return. -/
def recordBank (v r c : Nat) (graph : Bool) (faults : List RFault) (k : Cont) : Bank :=
  let dw (at' : Nat) : Word := BitVec.ofNat 64 (recWord v at' 8 0)
  let place := r % 128 / 2 + r / 128 % 32 * 2 ^ 11
  { g := foldN 31 (fun i t => Tab.set 0 t (i + 1) (BitVec.ofNat 64 (recWord v 0 8 (i + 1)))) []
    v := foldN 16 (fun i t => Tab.set 0 t i (BitVec.ofNat 512 (recWord v 0x100 64 i))) []
    k := foldN 7 (fun i t => Tab.set 0 t (i + 1) (BitVec.ofNat 16 (recWord v 0x500 2 (i + 1)))) []
    pc := BitVec.ofNat 64 (recWord v 0x510 8 0 / 4 * 4)
    stat := BitVec.ofNat 64 (recStat (recWord v 0x518 8 0) r (!faults.isEmpty) graph)
    epc := dw 0x520
    ecause := dw 0x528 &&& 0xff
    einfo := dw 0x530
    eaddr := dw 0x538
    ids := BitVec.ofNat 64 ((recWord v 0x540 8 0 &&& 0xffffffffff0007c0) + place)
    qtrapcfg := dw 0x548 &&& 0xff03
    scratch := foldN 4 (fun i t => Tab.set 0 t i (BitVec.ofNat 64 (recWord v 0x550 8 i))) []
    ctxroot := dw 0x5b8 &&& 0x3fffffffff0001
    ctxkey := dw 0x5c0 &&& 0xfff
    xtab := dw 0x5c8 &&& 0x3ffffffffff87f
    rfaults := faults
    sfaults := k.sfaults
    qevents := k.qevents
    again := k.again
    againP := k.againP
    cont := some c }

/-- A restored bank becomes the active one of its slot, or waits for the other to leave (R100). Such a bank is on no wait of its own:
were it evicted again, its record would have RECKIND 3 (assumption 61). -/
def State.bringIn (s : State) (r : Nat) : State :=
  let o := s.bank (otherBank r)
  let free := o.cont.isNone || (match o.park with | some p => p.drained | none => false)
  if free then s.activate r
  else s.setBank r { s.bank r with park := some { kind := 3, drained := true } }

/-- A continuation takes bank `r` from its record at `pa` (R101). -/
def State.restoreInto (s : State) (c r pa : Nat) : State :=
  let k := s.cont c
  let s := s.sysRead (paLocal pa) 1536 25
  let v := s.num (paLocal pa) 1536
  let (old, s) := match s.reservedTo c with
    | some q =>
      let f := (s.chan q).faults
      let s := if q = r then s else s.moveOps q r
      (f, s.setChan q { s.chan q with reserved := none, faults := [] })
    | none => ([], s)
  let s := if (s.chan r).reserved.isSome then s.freeChan r else s
  let b := recordBank v r c (s.group (contGroup c)).fault.isSome (k.rfaults ++ old) k
  let b := { b with seq := (s.bank r).seq }
  let s := ((s.setBank r b).preMove (preCont c) r false).holdTable (coreOf r) b.xtab.toNat
  (s.setCont c { k with
    st := .running
    bank := some r
    full := none
    rfaults := []
    sfaults := []
    qevents := []
    again := none
    againP := none }).bringIn r

/-- RESTORE of a continuation into bank `r`: refused, waiting for the reserved channel, or done. -/
def State.restoreTo (s : State) (pa : Nat) (pick : Nat → Option Nat) : Option Bool × State :=
  match s.evictedAt pa with
  | none => (some true, s)
  | some c =>
    match pick c with
    | none => (some true, s)
    | some r =>
      if !s.takes r c || !s.slotRoom (s.contLeaf c) || s.anyPoison (paLocal pa) 1536 25 then (some true, s)
      else
        let waits := match s.reservedTo c with
          | some q => q != r && (s.slotsOf q).any fun e => e.2.sent
          | none => false
        if waits then (none, s) else (some false, s.restoreInto c r pa)

/-- RESTORE (R101, R432). -/
def execRestore (n : Nat) (s : State) : Host.Outcome State Fault Refusal :=
  .next (s.command n 5 fun s v => s.restoreTo (cmdPa v) fun _ => some (cmdChan v))

/-- RESTOREANY: the free bank of lowest CHAN that may take the continuation (R432). -/
def execRestoreany (n : Nat) (s : State) : Host.Outcome State Fault Refusal :=
  .next (s.command n 9 fun s v => s.restoreTo (cmdPa v) fun c => (List.range 4096).find? fun r => s.takes r c)

/-- ENDCONT: an evicted continuation ends; its reserved channel is free once no slot is SENT (R277). R18 asks that every continuation of a
done group has executed EXIT; one that ENDCONT ended counts as ended too (assumption 75). -/
def execEndcont (n : Nat) (s : State) : Host.Outcome State Fault Refusal :=
  .next (s.command n 6 fun s v =>
    match s.evictedAt (cmdPa v) with
    | none => (some true, s)
    | some c =>
      let s := match s.reservedTo c with
        | some q => (s.setChan q { s.chan q with reserved := some (endedCont (contGroup c)), faults := [] }).chanSettle q
        | none => s
      (some false, s.endCont c))

/-! ### ENDGROUP and ANSWER -/

/-- ENDGROUP: a record of kind ENDED; a launch that is not yet DONE is FAULTED and its groups end, whatever the group's state (R419, R421,
R432). A group of no launch, or of one that is over, is REFUSED (assumption 36). -/
def execEndgroup (n : Nat) (s : State) : Host.Outcome State Fault Refusal :=
  .next (s.command n 7 fun s v =>
    let lid := v % 2 ^ 32
    let idx := fld v 55 32
    let l := s.launch lid
    let past := l.st == .done || l.st == .faulted
    if l.rcd = 0 ∨ past ∨ l.g ≤ idx then (some true, s)
    else
      let d := s.eff l.leaf 12 4
      let r : FaultRec := { kind := 0x0c, leaf := l.leaf, who := lid + idx * 2 ^ 32 }
      let s := if d = 0 then s.faultqRecord r else s.appendRecord d r
      (some false, s.failLaunch lid))

/-- ANSWER: a parked translation fault is answered, or refused with bit 0 (R100, R156). -/
def execAnswer (n : Nat) (s : State) : Host.Outcome State Fault Refusal :=
  .next (s.command n 8 fun s v =>
    let r := cmdChan v
    let b := s.bank r
    match b.park with
    | some p =>
      if p.kind = 0 ∧ p.answered = false then
        (some false, s.setBank r { b with park := some { p with answered := true, refused := bitAt v 0 } })
      else (some true, s)
    | none => (some true, s))

/-- SCMD_REFUSED: an unassigned code is refused; a store while BUSY is ignored (R432). -/
def execScmdRefused (n : Nat) (v : BitVec 64) (s : State) : Host.Outcome State Fault Refusal :=
  .next (match Tab.get none s.scmd n with
    | some w =>
      if scmdCode w then s else { s with scmd := Tab.set none s.scmd n none, sstat := Tab.set 0 s.sstat n 1 }
    | none => if scmdCode v.toNat || 4 ≤ n then s else { s with sstat := Tab.set 0 s.sstat n 1 })

end Sys2Proof.Machine
end

