-- ==== Sys2Proof/Machine/Package.lean ====
section
/-! DEFINITION. The package and its surroundings: host ports, fabric ports, reset, throttling and the security processor's answers
(18_outside R434 to R448; 07_memories R168; 11_remote R265, R266). -/
namespace Sys2Proof.Machine

/-! ### Host accesses, R436 and R437 -/

/-- The part answers the host. -/
def State.tell (s : State) (o : HostOut) : State := { s with hostOut := some o }

/-- HOST_CXL_MEM_READ: a read of the line of a tier address; the spill log reads all ones and a poisoned line returns poison. -/
def execHostCxlMemRead (a : BitVec 64) (s : State) : Host.Outcome State Fault Refusal :=
  .next (let d := a.toNat / 64 * 64
    if !s.hostUp || !isTier d then s
    else if s.inLog d then s.tell (.mem (BitVec.ofNat 512 (2 ^ 512 - 1)) false)
    else
      let (v, p, s) := s.readAt 0 d 64
      s.tell (.mem (BitVec.ofNat 512 v) p.isSome))

/-- The bytes of `old` with those of `v` where the byte enables are set. -/
def mergeBytes (old v be : Nat) : Nat :=
  foldN 64 (fun i w => w + (if bitAt be i then v / 256 ^ i % 256 else old / 256 ^ i % 256) * 256 ^ i) 0

/-- A write of the enabled bytes of a tier line by the host: the block is applied first; the key is the line's own if it is live
(R400); poison goes only with a write of the whole line (R181). -/
def State.hostWrite (s : State) (d v be : Nat) : State :=
  let s := s.applyAt d 64
  let l := d / 64
  let whole := be = 2 ^ 64 - 1
  let m := s.writtenLine l (if whole then 64 else 1) (some (s.sysTag l))
  let w := mergeBytes (s.num d 64) v be
  let s := (if whole then s else s.found l).makeDirty l
  { s with
    mem := memPut s.mem d 64 w
    lines := Tab.set {} s.lines l m
    wpoison := if whole then clearWords s.wpoison d 64 else s.wpoison
    pre := s.preMark .home l }.recache (s.cacheWrite .home d)

/-- HOST_CXL_MEM_WRITE: a write to the spill log is dropped (10_updates R246). -/
def execHostCxlMemWrite (a : BitVec 64) (v : BitVec 512) (be : BitVec 64) (s : State) : Host.Outcome State Fault Refusal :=
  .next (let d := a.toNat / 64 * 64
    if !s.hostUp || !isTier d || s.inLog d || be == 0 then s else s.hostWrite d v.toNat be.toNat)

/-- HOST_SNOOP: the host takes the data of a host-window line held in S8 or S9; a request for ownership also drops the line
(R168). -/
def execHostSnoop (a : BitVec 64) (own : Bool) (s : State) : Host.Outcome State Fault Refusal :=
  .next (let d := a.toNat / 64 * 64
    let l := d / 64
    if !s.hostUp || !isHost d then s
    else if !s.hostLines.contains l then s.tell (.snoop none)
    else
      let t := s.tell (.snoop (some (BitVec.ofNat 512 (s.num d 64), (s.poisonAt d 64).isSome)))
      if own then
        let t := { t with dirty := Tab.set none t.dirty l none, pre := t.preMark .home l }.recache (t.caches.drop (· == l))
        { t with
          hostLines := t.hostLines.filter (· != l)
          mem := memPut t.mem d 64 0
          lines := Tab.set {} t.lines l {}
          wpoison := clearWords t.wpoison d 64 }
      else t)

/-- HOST_BAR0_ACCESS: 8-byte accesses reach SIGNAL and VALUE of the semaphores; other sizes have no effect and read all ones
(R436). -/
def execHostBar0Access (wr : Bool) (a : BitVec 64) (n : Nat) (v : BitVec 64) (s : State) : Host.Outcome State Fault Refusal :=
  .next (let ones : HostOut := .bar (BitVec.ofNat 64 (2 ^ 64 - 1))
    if !s.hostUp || 0x10000 ≤ a.toNat then s
    else if n ≠ 8 ∨ a.toNat % 8 ≠ 0 then (if wr then s else s.tell ones)
    else match devReg (0x3f800200000 + a.toNat) with
      | some g =>
        if wr then s.devWrite g v.toNat (2 ^ 64 - 1)
        else
          let (w, s) := s.devRead g
          s.tell (.bar (BitVec.ofNat 64 w))
      | none => if wr then s else s.tell ones)

/-! ### Ports, R434, R435, R438, R439 and R448 -/

/-- HOST_PORT_UP: port `p` trains at width x16, x8 or x4. -/
def execHostPortUp (p w : Nat) (s : State) : Host.Outcome State Fault Refusal :=
  .next (if p < 2 ∧ (w = 4 ∨ w = 8 ∨ w = 16) ∧ s.bootFail = none then { s with hostPorts := Tab.set 0 s.hostPorts p w } else s)

/-- HOST_PORT_DOWN: the lines of the host window use the other port (R437). -/
def execHostPortDown (p : Nat) (s : State) : Host.Outcome State Fault Refusal :=
  .next { s with hostPorts := Tab.set 0 s.hostPorts p 0 }

/-- A message reaches this package: one beyond the age of R257 is discarded and counted when it is a request, and one for another
package is not for this one. -/
def State.accept (s : State) (p : Nat) (m : Msg) : State :=
  if m.dst ≠ s.pkg then s
  else
    let req := match m.body with | .request _ | .ack => true | _ => false
    if req && msgOld m then s.bump 2 p 3 1 else { s with inbox := s.inbox ++ [m] }

/-- FABRIC_FLIT_RECEIVE: a flit whose CRC fails is resent by the link; another is counted and its messages are dispatched (R438). -/
def execFabricFlitReceive (p : Nat) (ok : Bool) (ms : List Msg) (s : State) : Host.Outcome State Fault Refusal :=
  .next (if 36 ≤ p ∨ bitAt (Tab.get 0 s.ports p) 0 = false then s
    else if ok then ms.foldl (fun s m => s.accept p m) (s.bump 2 p 1 1)
    else s.bump 2 p 2 1)

/-- FABRIC_PORT_UP: UP and LANES are set, and LOCK with the first port that trains (R434, R461). -/
def execFabricPortUp (p lanes : Nat) (s : State) : Host.Outcome State Fault Refusal :=
  .next (if p < 36 ∧ 1 ≤ lanes ∧ lanes ≤ 4 ∧ s.bootFail = none then
      { s with ports := Tab.set 0 s.ports p (1 + lanes * 16), pkgLock := true }
    else s)

/-- What the hash of R439 selects a port by. -/
def msgHash (m : Msg) : Nat :=
  match m.body with
  | .request b => (bodyLines b).headD 0
  | .ack => m.ackt
  | .reply _ => m.op
  | .chainBeat .. | .chainAck .. | .chainReplay .. | .chainAlive | .chainFault => m.chain

/-- FABRIC_PORT_DOWN: what was queued on it moves to another usable port (R448). -/
def execFabricPortDown (p : Nat) (s : State) : Host.Outcome State Fault Refusal :=
  .next (if bitAt (Tab.get 0 s.ports p) 0 = false then s
    else
      let moved := s.outbox.filter fun (e : Nat × Msg) => e.1 == p
      let s := { s with ports := Tab.set 0 s.ports p 0, outbox := s.outbox.filter fun (e : Nat × Msg) => e.1 != p }
      moved.foldl (fun s (e : Nat × Msg) => s.sendMsg e.2 (msgHash e.2)) s)

/-! ### Reads over I3C, R443 and R445 -/

/-- What the board controller reads over I3C: a package register or an island register at a local address, without effect on the state
(R445; assumption 80). -/
def State.i3cRead (s : State) (a : Nat) : Option Nat :=
  (if isDevice a then devReg a else none).bind fun g => match g with
    | .pkgid | .incs | .plimit | .pstat | .scrubctl | .portstat _ | .island _ => some (s.devRead g).1
    | _ => none

/-- An event counter read over I3C by class, instance and event (R445). -/
def State.i3cCount (s : State) (cls inst ev : Nat) : Option Nat := if cls = 0 then none else s.perfRead cls inst ev

/-- The failure code that a package held in reset gives over I3C (R443). -/
def State.i3cFail (s : State) : Option Nat := s.bootFail

/-! ### Reset, R443, R446, R265 and R266 -/

/-- The next owner incarnation: 1 follows 65,535 (R265). -/
def nextOinc (n : Nat) : Nat := if 65535 ≤ n then 1 else n + 1

/-- What a package reset leaves (R446): the state after step 5 with the next incarnations and the package number of the straps. The
turns and counts of the model itself go on. -/
def State.rebooted (s : State) : State :=
  { State.reset with
    turns := s.turns
    cur := s.cur
    late := s.late
    choice := s.choice
    fresh := s.fresh
    cycle := s.cycle
    peerRegions := s.peerRegions
    pkg := s.strapPkg
    strapPkg := s.strapPkg
    rinc := (s.rinc + 1) % 256
    oinc := nextOinc s.oinc }

/-- A package that its firmware did not pass is held in reset: no service core starts, and the failure code is the security
processor's (R443). -/
def State.heldInReset (s : State) : State :=
  let t := s.rebooted
  let t := { t with rinc := s.rinc, oinc := s.oinc, bootFail := some (Config.freeWord s.fresh).toNat, fresh := s.fresh + 1 }
  (List.range 4).foldl (fun t n => t.setBank (4096 + n) { svcReset with stopped := true }) t

/-- PACKAGE_RESET: the firmware verifies, or the package stays held in reset. The signature and the digest are taken over an image whose
layout the spec does not give: what they come to is the event's (assumption 42). -/
def execPackageReset (ok : Bool) (s : State) : Host.Outcome State Fault Refusal :=
  .next (if ok then s.rebooted else s.heldInReset)

/-! ### Power, R441 -/

/-- THROTTLE_CHANGE: THROT and NOW of PSTAT; no value and no order changes. -/
def execThrottleChange (on : Bool) (now : Nat) (s : State) : Host.Outcome State Fault Refusal :=
  .next { s with throttled := on, power := now % 4096 }

/-! ### SPDM, R444 -/

/-- An SPDM response: its bytes are the security processor's (assumption 17). -/
def State.spdm (s : State) (code : Nat) (req : List Byte) : State :=
  { s with hostOut := some (.spdm (Config.spdmBody code req s.fresh)), fresh := s.fresh + 1 }

/-- SPDM_GET_VERSION. -/
def execSpdmGetVersion (req : List Byte) (s : State) : Host.Outcome State Fault Refusal := .next (s.spdm 0x84 req)
/-- SPDM_GET_CAPABILITIES. -/
def execSpdmGetCapabilities (req : List Byte) (s : State) : Host.Outcome State Fault Refusal := .next (s.spdm 0xe1 req)
/-- SPDM_NEGOTIATE_ALGORITHMS. -/
def execSpdmNegotiateAlgorithms (req : List Byte) (s : State) : Host.Outcome State Fault Refusal := .next (s.spdm 0xe3 req)
/-- SPDM_GET_DIGESTS. -/
def execSpdmGetDigests (req : List Byte) (s : State) : Host.Outcome State Fault Refusal := .next (s.spdm 0x81 req)
/-- SPDM_GET_CERTIFICATE. -/
def execSpdmGetCertificate (req : List Byte) (s : State) : Host.Outcome State Fault Refusal := .next (s.spdm 0x82 req)
/-- SPDM_CHALLENGE. -/
def execSpdmChallenge (req : List Byte) (s : State) : Host.Outcome State Fault Refusal := .next (s.spdm 0x83 req)
/-- SPDM_GET_MEASUREMENTS. -/
def execSpdmGetMeasurements (req : List Byte) (s : State) : Host.Outcome State Fault Refusal := .next (s.spdm 0xe0 req)

end Sys2Proof.Machine
end

