-- ==== Sys2Proof/Machine/Dispatch.lean ====
section
/-! DEFINITION. The meaning of every instruction and event: one arm for each constructor of Instr. -/
namespace Sys2Proof.Machine

/-- Execute an instruction, or let an event take place. -/
def exec (i : Instr) (s : State) : Host.Outcome State Fault Refusal :=
  match i with
  | .add d a b => Sys2Proof.Machine.execAdd d a b s
  | .sub d a b => Sys2Proof.Machine.execSub d a b s
  | .mul d a b => Sys2Proof.Machine.execMul d a b s
  | .mulh d a b => Sys2Proof.Machine.execMulh d a b s
  | .mulhu d a b => Sys2Proof.Machine.execMulhu d a b s
  | .div d a b => Sys2Proof.Machine.execDiv d a b s
  | .divu d a b => Sys2Proof.Machine.execDivu d a b s
  | .rem d a b => Sys2Proof.Machine.execRem d a b s
  | .remu d a b => Sys2Proof.Machine.execRemu d a b s
  | .and d a b => Sys2Proof.Machine.execAnd d a b s
  | .or d a b => Sys2Proof.Machine.execOr d a b s
  | .xor d a b => Sys2Proof.Machine.execXor d a b s
  | .andn d a b => Sys2Proof.Machine.execAndn d a b s
  | .orn d a b => Sys2Proof.Machine.execOrn d a b s
  | .shl d a b => Sys2Proof.Machine.execShl d a b s
  | .shr d a b => Sys2Proof.Machine.execShr d a b s
  | .sra d a b => Sys2Proof.Machine.execSra d a b s
  | .ror d a b => Sys2Proof.Machine.execRor d a b s
  | .min d a b => Sys2Proof.Machine.execMin d a b s
  | .max d a b => Sys2Proof.Machine.execMax d a b s
  | .minu d a b => Sys2Proof.Machine.execMinu d a b s
  | .maxu d a b => Sys2Proof.Machine.execMaxu d a b s
  | .slt d a b => Sys2Proof.Machine.execSlt d a b s
  | .sltu d a b => Sys2Proof.Machine.execSltu d a b s
  | .seq d a b => Sys2Proof.Machine.execSeq d a b s
  | .sne d a b => Sys2Proof.Machine.execSne d a b s
  | .sel d a b => Sys2Proof.Machine.execSel d a b s
  | .clz d a w => Sys2Proof.Machine.execClz d a w s
  | .ctz d a w => Sys2Proof.Machine.execCtz d a w s
  | .popc d a w => Sys2Proof.Machine.execPopc d a w s
  | .brev d a w => Sys2Proof.Machine.execBrev d a w s
  | .bswap d a w => Sys2Proof.Machine.execBswap d a w s
  | .addw d a b => Sys2Proof.Machine.execAddw d a b s
  | .subw d a b => Sys2Proof.Machine.execSubw d a b s
  | .mulw d a b => Sys2Proof.Machine.execMulw d a b s
  | .lea d a b h => Sys2Proof.Machine.execLea d a b h s
  | .clamp d a b => Sys2Proof.Machine.execClamp d a b s
  | .idx2 d a b => Sys2Proof.Machine.execIdx2 d a b s
  | .addi d a imm => Sys2Proof.Machine.execAddi d a imm s
  | .andi d a imm => Sys2Proof.Machine.execAndi d a imm s
  | .ori d a imm => Sys2Proof.Machine.execOri d a imm s
  | .xori d a imm => Sys2Proof.Machine.execXori d a imm s
  | .slti d a imm => Sys2Proof.Machine.execSlti d a imm s
  | .sltiu d a imm => Sys2Proof.Machine.execSltiu d a imm s
  | .shli d a n => Sys2Proof.Machine.execShli d a n s
  | .shri d a n => Sys2Proof.Machine.execShri d a n s
  | .srai d a n => Sys2Proof.Machine.execSrai d a n s
  | .li d imm => Sys2Proof.Machine.execLi d imm s
  | .lui d imm => Sys2Proof.Machine.execLui d imm s
  | .movk d h imm => Sys2Proof.Machine.execMovk d h imm s
  | .movkW d h lit => Sys2Proof.Machine.execMovkW d h lit s
  | .ext d a l p => Sys2Proof.Machine.execExt d a l p s
  | .extS d a l p => Sys2Proof.Machine.execExtS d a l p s
  | .ins d a l p => Sys2Proof.Machine.execIns d a l p s
  | .vadd d a b k e => Sys2Proof.Machine.execVadd d a b k e s
  | .vsub d a b k e => Sys2Proof.Machine.execVsub d a b k e s
  | .vmul d a b k e => Sys2Proof.Machine.execVmul d a b k e s
  | .vmulh d a b k e => Sys2Proof.Machine.execVmulh d a b k e s
  | .vmin d a b k e => Sys2Proof.Machine.execVmin d a b k e s
  | .vmax d a b k e => Sys2Proof.Machine.execVmax d a b k e s
  | .vand d a b k e => Sys2Proof.Machine.execVand d a b k e s
  | .vor d a b k e => Sys2Proof.Machine.execVor d a b k e s
  | .vxor d a b k e => Sys2Proof.Machine.execVxor d a b k e s
  | .vshl d a b k e => Sys2Proof.Machine.execVshl d a b k e s
  | .vshr d a b k e => Sys2Proof.Machine.execVshr d a b k e s
  | .vsra d a b k e => Sys2Proof.Machine.execVsra d a b k e s
  | .vcmpEq d a b k e => Sys2Proof.Machine.execVcmpEq d a b k e s
  | .vcmpNe d a b k e => Sys2Proof.Machine.execVcmpNe d a b k e s
  | .vcmpLt d a b k e => Sys2Proof.Machine.execVcmpLt d a b k e s
  | .vcmpLe d a b k e => Sys2Proof.Machine.execVcmpLe d a b k e s
  | .vcmpLtu d a b k e => Sys2Proof.Machine.execVcmpLtu d a b k e s
  | .vcmpLeu d a b k e => Sys2Proof.Machine.execVcmpLeu d a b k e s
  | .vsel d a b k e => Sys2Proof.Machine.execVsel d a b k e s
  | .vmovv d a k e => Sys2Proof.Machine.execVmovv d a k e s
  | .viota d k e => Sys2Proof.Machine.execViota d k e s
  | .vperm d a b e => Sys2Proof.Machine.execVperm d a b e s
  | .vcompress d a k e => Sys2Proof.Machine.execVcompress d a k e s
  | .vredAdd d a k e => Sys2Proof.Machine.execVredAdd d a k e s
  | .vredMin d a k e => Sys2Proof.Machine.execVredMin d a k e s
  | .vredMax d a k e => Sys2Proof.Machine.execVredMax d a k e s
  | .vredMinu d a k e => Sys2Proof.Machine.execVredMinu d a k e s
  | .vredMaxu d a k e => Sys2Proof.Machine.execVredMaxu d a k e s
  | .vredAnd d a k e => Sys2Proof.Machine.execVredAnd d a k e s
  | .vredOr d a k e => Sys2Proof.Machine.execVredOr d a k e s
  | .vredXor d a k e => Sys2Proof.Machine.execVredXor d a k e s
  | .vredFadd d a k => Sys2Proof.Machine.execVredFadd d a k s
  | .vredFmin d a k => Sys2Proof.Machine.execVredFmin d a k s
  | .vredFmax d a k => Sys2Proof.Machine.execVredFmax d a k s
  | .vscanAdd d a k e => Sys2Proof.Machine.execVscanAdd d a k e s
  | .vscanMin d a k e => Sys2Proof.Machine.execVscanMin d a k e s
  | .vscanMax d a k e => Sys2Proof.Machine.execVscanMax d a k e s
  | .vscanMinu d a k e => Sys2Proof.Machine.execVscanMinu d a k e s
  | .vscanMaxu d a k e => Sys2Proof.Machine.execVscanMaxu d a k e s
  | .vscanAnd d a k e => Sys2Proof.Machine.execVscanAnd d a k e s
  | .vscanOr d a k e => Sys2Proof.Machine.execVscanOr d a k e s
  | .vscanXor d a k e => Sys2Proof.Machine.execVscanXor d a k e s
  | .vscanFadd d a k => Sys2Proof.Machine.execVscanFadd d a k s
  | .vscanFmin d a k => Sys2Proof.Machine.execVscanFmin d a k s
  | .vscanFmax d a k => Sys2Proof.Machine.execVscanFmax d a k s
  | .vfadd d a b k e => Sys2Proof.Machine.execVfadd d a b k e s
  | .vfmul d a b k e => Sys2Proof.Machine.execVfmul d a b k e s
  | .vfma d a b k e => Sys2Proof.Machine.execVfma d a b k e s
  | .vfmin d a b k e => Sys2Proof.Machine.execVfmin d a b k e s
  | .vfmax d a b k e => Sys2Proof.Machine.execVfmax d a b k e s
  | .vcvt d a y k r t => Sys2Proof.Machine.execVcvt d a y k r t s
  | .kand d a b => Sys2Proof.Machine.execKand d a b s
  | .kor d a b => Sys2Proof.Machine.execKor d a b s
  | .knot d a => Sys2Proof.Machine.execKnot d a s
  | .kmov d a => Sys2Proof.Machine.execKmov d a s
  | .vbcast d a w => Sys2Proof.Machine.execVbcast d a w s
  | .vmovg d a l w => Sys2Proof.Machine.execVmovg d a l w s
  | .kmovKg d a => Sys2Proof.Machine.execKmovKg d a s
  | .kmovGk d a => Sys2Proof.Machine.execKmovGk d a s
  | .beq a b o => Sys2Proof.Machine.execBeq a b o s
  | .bne a b o => Sys2Proof.Machine.execBne a b o s
  | .blt a b o => Sys2Proof.Machine.execBlt a b o s
  | .bge a b o => Sys2Proof.Machine.execBge a b o s
  | .bltu a b o => Sys2Proof.Machine.execBltu a b o s
  | .bgeu a b o => Sys2Proof.Machine.execBgeu a b o s
  | .bqb a o => Sys2Proof.Machine.execBqb a o s
  | .j o => Sys2Proof.Machine.execJ o s
  | .jal o => Sys2Proof.Machine.execJal o s
  | .nop => Sys2Proof.Machine.execNop s
  | .jr a => Sys2Proof.Machine.execJr a s
  | .jalr d a => Sys2Proof.Machine.execJalr d a s
  | .susp => Sys2Proof.Machine.execSusp s
  | .spawn a u => Sys2Proof.Machine.execSpawn a u s
  | .exit => Sys2Proof.Machine.execExit s
  | .wakeat a => Sys2Proof.Machine.execWakeat a s
  | .trap imm => Sys2Proof.Machine.execTrap imm s
  | .sysc imm => Sys2Proof.Machine.execSysc imm s
  | .eret => Sys2Proof.Machine.execEret s
  | .csrr d imm => Sys2Proof.Machine.execCsrr d imm s
  | .csrw a imm => Sys2Proof.Machine.execCsrw a imm s
  | .csrx d a imm => Sys2Proof.Machine.execCsrx d a imm s
  | .ld t b y x o c f => Sys2Proof.Machine.execLd t b y x o c f s
  | .st t b y o c f => Sys2Proof.Machine.execSt t b y o c f s
  | .ldrc t b y x n f => Sys2Proof.Machine.execLdrc t b y x n f s
  | .pref l b f => Sys2Proof.Machine.execPref l b f s
  | .discard b f => Sys2Proof.Machine.execDiscard b f s
  | .fence o c => Sys2Proof.Machine.execFence o c s
  | .cas t b z o c y => Sys2Proof.Machine.execCas t b z o c y s
  | .swap t b z o c y => Sys2Proof.Machine.execSwap t b z o c y s
  | .fadd t b z o c y => Sys2Proof.Machine.execFadd t b z o c y s
  | .upd t b z f => Sys2Proof.Machine.execUpd t b z f s
  | .uflush b f => Sys2Proof.Machine.execUflush b f s
  | .ldv t b o c f => Sys2Proof.Machine.execLdv t b o c f s
  | .stv t b o c f => Sys2Proof.Machine.execStv t b o c f s
  | .ldgv d a k e h b => Sys2Proof.Machine.execLdgv d a k e h b s
  | .stsv d a k e h b => Sys2Proof.Machine.execStsv d a k e h b s
  | .vupd d a k e h b => Sys2Proof.Machine.execVupd d a k e h b s
  | .cpy d y b c => Sys2Proof.Machine.execCpy d y b c s
  | .mcast d y b c => Sys2Proof.Machine.execMcast d y b c s
  | .strm d y b c => Sys2Proof.Machine.execStrm d y b c s
  | .gath d y b c => Sys2Proof.Machine.execGath d y b c s
  | .waitp d => Sys2Proof.Machine.execWaitp d s
  | .rqry d a => Sys2Proof.Machine.execRqry d a s
  | .vpush r q k y p => Sys2Proof.Machine.execVpush r q k y p s
  | .spush r q w p => Sys2Proof.Machine.execSpush r q w p s
  | .mpush r q c => Sys2Proof.Machine.execMpush r q c s
  | .qflush q => Sys2Proof.Machine.execQflush q s
  | .vpop r q k m d => Sys2Proof.Machine.execVpop r q k m d s
  | .spop r q => Sys2Proof.Machine.execSpop r q s
  | .qstat r q x y => Sys2Proof.Machine.execQstat r q x y s
  | .qwait r q m => Sys2Proof.Machine.execQwait r q m s
  | .semw a b => Sys2Proof.Machine.execSemw a b s
  | .sems a b => Sys2Proof.Machine.execSems a b s
  | .semr d a => Sys2Proof.Machine.execSemr d a s
  | .bari a b k => Sys2Proof.Machine.execBari a b k s
  | .bara a b => Sys2Proof.Machine.execBara a b s
  | .barw a => Sys2Proof.Machine.execBarw a s
  | .rdtime d => Sys2Proof.Machine.execRdtime d s
  | .rdperf d a => Sys2Proof.Machine.execRdperf d a s
  | .tinvAll => Sys2Proof.Machine.execTinvAll s
  | .tinvCtx a => Sys2Proof.Machine.execTinvCtx a s
  | .tinvPage a b => Sys2Proof.Machine.execTinvPage a b s
  | .extw a b => Sys2Proof.Machine.execExtw a b s
  | .urtw a b => Sys2Proof.Machine.execUrtw a b s
  | .keyopCreate d a => Sys2Proof.Machine.execKeyopCreate d a s
  | .keyopRotate d a => Sys2Proof.Machine.execKeyopRotate d a s
  | .keyopDestroy d a => Sys2Proof.Machine.execKeyopDestroy d a s
  | .keyopQuery d a => Sys2Proof.Machine.execKeyopQuery d a s
  | .launch a => Sys2Proof.Machine.execLaunch a s
  | .xr f d a m lit => Sys2Proof.Machine.execXr f d a m lit s
  | .xi f d a lit => Sys2Proof.Machine.execXi f d a lit s
  | .xm f t b y x o c lit => Sys2Proof.Machine.execXm f t b y x o c lit s
  | .xq q lit => Sys2Proof.Machine.execXq q lit s
  | .illegalInstruction r => Sys2Proof.Machine.execIllegalInstruction r s
  | .fetchFault r => Sys2Proof.Machine.execFetchFault r s
  | .pendingExceptionEntry r => Sys2Proof.Machine.execPendingExceptionEntry r s
  | .qparkThreshold r => Sys2Proof.Machine.execQparkThreshold r s
  | .rparkThreshold r => Sys2Proof.Machine.execRparkThreshold r s
  | .parkDrainComplete r => Sys2Proof.Machine.execParkDrainComplete r s
  | .bankReturn r => Sys2Proof.Machine.execBankReturn r s
  | .memoryRequestComplete q => Sys2Proof.Machine.execMemoryRequestComplete q s
  | .suspensionWriteback r => Sys2Proof.Machine.execSuspensionWriteback r s
  | .wakeTimeReached c => Sys2Proof.Machine.execWakeTimeReached c s
  | .continuationDispatch r => Sys2Proof.Machine.execContinuationDispatch r s
  | .bankControlWrite c b v => Sys2Proof.Machine.execBankControlWrite c b v s
  | .bankModeChangeDone c b => Sys2Proof.Machine.execBankModeChangeDone c b s
  | .updatePairAccept n => Sys2Proof.Machine.execUpdatePairAccept n s
  | .regionStatusClear imm v => Sys2Proof.Machine.execRegionStatusClear imm v s
  | .batchTimerClose r n => Sys2Proof.Machine.execBatchTimerClose r n s
  | .streamBeatPush c => Sys2Proof.Machine.execStreamBeatPush c s
  | .engineComplete c => Sys2Proof.Machine.execEngineComplete c s
  | .engineFault c => Sys2Proof.Machine.execEngineFault c s
  | .promiseMissed r => Sys2Proof.Machine.execPromiseMissed r s
  | .barwTimeout w => Sys2Proof.Machine.execBarwTimeout w s
  | .semaphoreSignalWrite n v => Sys2Proof.Machine.execSemaphoreSignalWrite n v s
  | .semaphoreValueWrite n v => Sys2Proof.Machine.execSemaphoreValueWrite n v s
  | .ownerSerialRequest m => Sys2Proof.Machine.execOwnerSerialRequest m s
  | .ownerAckMessage m => Sys2Proof.Machine.execOwnerAckMessage m s
  | .ownerRqry m => Sys2Proof.Machine.execOwnerRqry m s
  | .ownerReadRequest m => Sys2Proof.Machine.execOwnerReadRequest m s
  | .remoteReply m => Sys2Proof.Machine.execRemoteReply m s
  | .busyResend o => Sys2Proof.Machine.execBusyResend o s
  | .retransmitTimer o => Sys2Proof.Machine.execRetransmitTimer o s
  | .retransmitExhausted o => Sys2Proof.Machine.execRetransmitExhausted o s
  | .ackMessageSend r => Sys2Proof.Machine.execAckMessageSend r s
  | .floorExpire n => Sys2Proof.Machine.execFloorExpire n s
  | .queueStallEnd r => Sys2Proof.Machine.execQueueStallEnd r s
  | .chainBeatReceive m => Sys2Proof.Machine.execChainBeatReceive m s
  | .chainAckReceive m => Sys2Proof.Machine.execChainAckReceive m s
  | .chainRetransmit q => Sys2Proof.Machine.execChainRetransmit q s
  | .chainRetransmitExhausted q => Sys2Proof.Machine.execChainRetransmitExhausted q s
  | .chainKeepalive q => Sys2Proof.Machine.execChainKeepalive q s
  | .chainConsumerTimeout q => Sys2Proof.Machine.execChainConsumerTimeout q s
  | .chainFaultNotice m => Sys2Proof.Machine.execChainFaultNotice m s
  | .stageFire p u n => Sys2Proof.Machine.execStageFire p u n s
  | .scratchUnitCycle p u => Sys2Proof.Machine.execScratchUnitCycle p u s
  | .ochreTokenStep d => Sys2Proof.Machine.execOchreTokenStep d s
  | .matrixFireStart p => Sys2Proof.Machine.execMatrixFireStart p s
  | .matrixFireEnd p => Sys2Proof.Machine.execMatrixFireEnd p s
  | .matrixMarkerStep p => Sys2Proof.Machine.execMatrixMarkerStep p s
  | .matrixDrainRow p b => Sys2Proof.Machine.execMatrixDrainRow p b s
  | .matrixUncorrectableError p => Sys2Proof.Machine.execMatrixUncorrectableError p s
  | .patrolStep => Sys2Proof.Machine.execPatrolStep s
  | .formatRangeWrite n v => Sys2Proof.Machine.execFormatRangeWrite n v s
  | .formatRangeHeldWrite n imm v => Sys2Proof.Machine.execFormatRangeHeldWrite n imm v s
  | .launchTake leaf => Sys2Proof.Machine.execLaunchTake leaf s
  | .launchWaitMet lid => Sys2Proof.Machine.execLaunchWaitMet lid s
  | .stagingComplete lid => Sys2Proof.Machine.execStagingComplete lid s
  | .groupPlace lid g c p => Sys2Proof.Machine.execGroupPlace lid g c p s
  | .groupConfigAck lid g => Sys2Proof.Machine.execGroupConfigAck lid g s
  | .groupDone lid g => Sys2Proof.Machine.execGroupDone lid g s
  | .launchComplete lid => Sys2Proof.Machine.execLaunchComplete lid s
  | .pageWaitPriority lid => Sys2Proof.Machine.execPageWaitPriority lid s
  | .groupIdlePark lid g => Sys2Proof.Machine.execGroupIdlePark lid g s
  | .groupSaveComplete lid g => Sys2Proof.Machine.execGroupSaveComplete lid g s
  | .groupUnpark lid g c p => Sys2Proof.Machine.execGroupUnpark lid g c p s
  | .preemptDeadline r => Sys2Proof.Machine.execPreemptDeadline r s
  | .sync n => Sys2Proof.Machine.execSync n s
  | .preempt n => Sys2Proof.Machine.execPreempt n s
  | .resume n => Sys2Proof.Machine.execResume n s
  | .evict n => Sys2Proof.Machine.execEvict n s
  | .restore n => Sys2Proof.Machine.execRestore n s
  | .restoreany n => Sys2Proof.Machine.execRestoreany n s
  | .endcont n => Sys2Proof.Machine.execEndcont n s
  | .endgroup n => Sys2Proof.Machine.execEndgroup n s
  | .answer n => Sys2Proof.Machine.execAnswer n s
  | .scmdRefused n v => Sys2Proof.Machine.execScmdRefused n v s
  | .hostCxlMemRead a => Sys2Proof.Machine.execHostCxlMemRead a s
  | .hostCxlMemWrite a v be => Sys2Proof.Machine.execHostCxlMemWrite a v be s
  | .hostSnoop a own => Sys2Proof.Machine.execHostSnoop a own s
  | .hostBar0Access wr a n v => Sys2Proof.Machine.execHostBar0Access wr a n v s
  | .hostPortUp p w => Sys2Proof.Machine.execHostPortUp p w s
  | .hostPortDown p => Sys2Proof.Machine.execHostPortDown p s
  | .fabricFlitReceive p ok ms => Sys2Proof.Machine.execFabricFlitReceive p ok ms s
  | .fabricPortUp p lanes => Sys2Proof.Machine.execFabricPortUp p lanes s
  | .fabricPortDown p => Sys2Proof.Machine.execFabricPortDown p s
  | .routingTableWrite p v => Sys2Proof.Machine.execRoutingTableWrite p v s
  | .packageReset ok => Sys2Proof.Machine.execPackageReset ok s
  | .pkgidWrite v => Sys2Proof.Machine.execPkgidWrite v s
  | .plimitWrite v => Sys2Proof.Machine.execPlimitWrite v s
  | .scrubctlWrite v => Sys2Proof.Machine.execScrubctlWrite v s
  | .sbootWrite n v => Sys2Proof.Machine.execSbootWrite n v s
  | .strapWrite n v => Sys2Proof.Machine.execStrapWrite n v s
  | .throttleChange on now => Sys2Proof.Machine.execThrottleChange on now s
  | .spdmGetVersion req => Sys2Proof.Machine.execSpdmGetVersion req s
  | .spdmGetCapabilities req => Sys2Proof.Machine.execSpdmGetCapabilities req s
  | .spdmNegotiateAlgorithms req => Sys2Proof.Machine.execSpdmNegotiateAlgorithms req s
  | .spdmGetDigests req => Sys2Proof.Machine.execSpdmGetDigests req s
  | .spdmGetCertificate req => Sys2Proof.Machine.execSpdmGetCertificate req s
  | .spdmChallenge req => Sys2Proof.Machine.execSpdmChallenge req s
  | .spdmGetMeasurements req => Sys2Proof.Machine.execSpdmGetMeasurements req s
  | .deviceRegisterWrite a v => Sys2Proof.Machine.execDeviceRegisterWrite a v s
  | .stagingFault lid => Sys2Proof.Machine.execStagingFault lid s

end Sys2Proof.Machine
end

