-- ==== Sys2Proof/Machine/Turn.lean ====
section
/-! DEFINITION. How a turn begins and what the requester of a turn executes (assumption 1; 06_ins_control R153). -/
namespace Sys2Proof.Machine

/-- Lines named by a turn reach their tiers (R168). -/
def State.writeBacks (s : State) (l : List Nat) : State := l.foldl State.writeBack s

/-- Memory cells named by a turn fail (R175, R180). -/
def State.failAll (s : State) (l : List (Nat × Nat)) : State := l.foldl (fun s x => s.fail x.1 x.2) s

/-- Cycles pass for the active banks that run a continuation, and for the service cores (15_counters R383). -/
def State.tickActive (s : State) (n : Nat) : State :=
  let add (b : Bank) : Bank := { b with perf := Tab.set 0 b.perf 0 ((Tab.get 0 b.perf 0 + n) % 2 ^ 64) }
  if n = 0 then s
  else
    let s := { s with banks := s.banks.map fun e =>
      (e.1, if e.2.cont.isSome && s.activeBank (slotOf e.1) == e.1 then add e.2 else e.2) }
    (List.range 4).foldl (fun s i => s.setBank (4096 + i) (add (s.bank (4096 + i)))) s

/-- The time that messages spend in the queues of their ports counts as age (11_remote R257), up to the 65,535 µs that AGE holds
(18_outside R438). -/
def State.ageOutbox (s : State) (ns : Nat) : State :=
  if ns = 0 then s
  else { s with outbox := s.outbox.map fun (e : Nat × Msg) => (e.1, { e.2 with age := Nat.min (e.2.age + ns) 65535000 }) }

/-- Threads read lines ahead of their instructions, as a turn says (08_ordering R195). -/
def State.readEarly (s : State) (l : List (Nat × Nat)) : State := l.foldl (fun s x => s.readAhead x.1 x.2) s

/-- Packets of the page network that are not on the escape lane pass a link to another switch, as a turn says (13_fabric R349). -/
def State.hopAll (s : State) (l : List (Nat × Nat)) : State :=
  let go (net : List Packet) (h : Nat × Nat) : List Packet :=
    modNth (fun x => if x.lane || x.arrived || !linked x.page h.2 then x else x.pass h.2 s.cycle) net h.1
  { s with net := l.foldl go s.net }

/-- `n` more flits leave a port: they are counted, and take the next link sequence numbers (18_outside R438). -/
def State.flitsOut (s : State) (p n : Nat) : State :=
  { (s.bump 2 p 0 n) with lseq := Tab.set 0 s.lseq p ((Tab.get 0 s.lseq p + n) % 2 ^ 32) }

/-- Messages leave in order. `last` is the flit that the one before left in: its port, its ROUTE and its slots used. A message of the same
port and ROUTE joins it while its slots do not pass twelve; another opens a flit, and one of more than twelve slots goes on in the next
(18_outside R438). -/
def State.flitMsgs (last : Nat × Nat × Nat) : List (Nat × Msg) → State → State
  | [], s => s
  | (p, m) :: l, s =>
    let k := m.slots (Config.flitSlots s.fresh)
    let s := { s with fresh := s.fresh + 1 }
    if last.1 = p ∧ last.2.1 = m.route ∧ last.2.2 + k ≤ 12 then State.flitMsgs (p, m.route, last.2.2 + k) l s
    else State.flitMsgs (p, m.route, k - (cdiv k 12 - 1) * 12) l (s.flitsOut p (cdiv k 12))

/-- The oldest `n` messages leave through their ports (18_outside R438). -/
def State.sendFlits (s : State) (n : Nat) : State :=
  State.flitMsgs (36, 0, 0) (s.outbox.take n) { s with outbox := s.outbox.drop n }

/-- The timers of BARW waiters run out as TIME passes them: each keeps what its object then holds (15_counters R380), once what is pending
for its block is applied (10_updates R249). -/
def State.barTimers (s : State) (time : Nat) : State :=
  let due (w : BarWaiter) : Bool := w.seen.isNone && decide (w.expiry < time)
  let keys := (s.bars.filter fun e => e.2.any due).map (·.1)
  let s := keys.foldl (fun s k => s.applyAt k 16) s
  { s with bars := s.bars.map fun e => (e.1, e.2.map fun w => if due w then { w with seen := some (s.num e.1 16) } else w) }

/-- A turn begins: its requester and its choices, the time that passes (none within one cycle, so that TIME is one value for every
agent of a cycle, 15_counters R382), what launches wait for (17_work R420), and what the caches and the memory cells did meanwhile. -/
def State.beginTurn (s : State) (t : Turn) (rest : List Turn) : State :=
  let s := s.watchShort.barTimers (if t.cycles = 0 then s.time else (s.time + t.ns) % 2 ^ 64)
  let s :=
    { s with
      hostWb := []
      turns := rest
      cur := t.who
      late := t.late
      choice := t.choice
      cycle := s.cycle + t.cycles
      time := if t.cycles = 0 then s.time else (s.time + t.ns) % 2 ^ 64 }
  let s := { ((s.tickStalls t.cycles).tickActive t.cycles) with peerRegions := t.peers.getD s.peerRegions }
  let s := s.ageOutbox (if t.cycles = 0 then 0 else t.ns)
  ((((s.sendFlits t.sent).hopAll t.hops).writeBacks t.wb).failAll t.bad).readEarly t.early

/-- What the requester whose turn it is executes: the instruction at its PC, or the event that stands in its place;
none when it issues nothing. The state is the one after the fetch. -/
def State.instrOf (s : State) : Option Instr × State :=
  match s.select s.cur with
  | (.run i, t) => (some i, t)
  | (.idle, _) => (none, s)
  | (.entering, _) => (some (.pendingExceptionEntry s.cur), s)
  | (.pending _, _) => (some (.pendingExceptionEntry s.cur), s)
  | (.fault _, _) => (some (.fetchFault s.cur), s)
  | (.illegal _, _) => (some (.illegalInstruction s.cur), s)

/-- Physical address of a byte that a requester would fetch, when its translation lets it. -/
def State.fetchPa (s : State) (r va : Nat) : Option (Nat × Nat) :=
  match (s.translateWith (fun s c perm pa key _ => s.fetchCheck c perm pa key) (s.ctxOf r) { x := true } va).1 with
  | .ok pa key _ => some (paLocal pa, key)
  | _ => none

/-- One aligned word written where a requester fetches it, as a program loader writes it: the whole line is written
under the key of its mapping, so that it reads without poison. -/
def State.placeWord (s : State) (r va v : Nat) : State :=
  match s.fetchPa r va with
  | none => s
  | some (pa, key) =>
    let l := pa / 64 * 64
    let m := memPut s.mem pa 4 v
    { s with mem := m }.rawWrite l 64 (memGet m l 64) (if isTier pa then some (s.tagOf key) else none)

end Sys2Proof.Machine
end

