-- ==== Sys2Proof/Machine/Step.lean ====
section
/-! DEFINITION. One step of the machine: the turn that is due, or, when no turn is listed, an instruction of the
requester that acted last (assumption 1). -/
namespace Sys2Proof.Machine

/-- The requester whose turn it is executes. -/
def issueStep (s : State) : Host.Outcome State Fault Refusal :=
  match s.instrOf with
  | (none, t) => .next t
  | (some i, t) => exec i t

/-- One step. An act that names a fetched instruction as an event does nothing. -/
def step (s : State) : Host.Outcome State Fault Refusal :=
  match s.turns with
  | [] => issueStep s
  | t :: rest =>
    match t.act with
    | .issue => issueStep (s.beginTurn t rest)
    | .event i => if i.isEvent then exec i (s.beginTurn t rest) else .next (s.beginTurn t rest)

/-- The state with a word of opcode_table.json, and zeros above its bits up to eight bytes, at the program counter of
the requester whose turn it is, and no other turn before it. -/
def State.withFetchWord (s : State) (nbits w : Nat) : State :=
  let v := w % 2 ^ nbits
  let pc := (s.bank s.cur).pc
  ({ s with turns := [] }.placeWord s.cur pc.toNat (v % 2 ^ 32)).placeWord s.cur (pc + 4).toNat (v / 2 ^ 32 % 2 ^ 32)

end Sys2Proof.Machine
end

