-- ==== Sys2Proof/Safety.lean ====
section
/-! DEFINITION. What counts as a safe run, and the terms that statements about one instruction use: when an instruction
executes, and what it leaves as it was. -/
namespace Sys2Proof

/-- A run of `n` steps that meets no fault and no refusal. -/
def runsFor : Nat → Machine.State → Bool
  | 0, _ => true
  | n + 1, s =>
    match Machine.step s with
    | .next t => runsFor n t
    | .fault _ => false
    | .refused _ => false

end Sys2Proof

namespace Sys2Proof.Machine

/-- An instruction that reads and writes these registers executes: none of them awaits an older load (05_ins_compute R106), and
none that it reads carries a poison mark (07_memories R182). -/
def State.ready (s : State) (reads writes : List Reg) : Bool :=
  (reads ++ writes).all (fun x => !s.awaits x) && reads.all fun x => (s.b.mark x).isNone

/-- A bank without its registers, their marks, PC, STAT, its counters and the clocks of a waiting instruction. -/
def Bank.rest (b : Bank) : Bank :=
  { b with
    g := []
    gmark := []
    v := []
    vmark := []
    k := []
    pc := 0
    stat := 0
    perf := []
    stalled := none
    waited := none
    again := none
    againP := none }

/-- Nothing but the bank that acts changed: every other bank, every other field of the machine, and the byte that every address
of memory reads as. What threads have read ahead (State.pre, the model's own, assumption 7) is left out: an instruction may forget some of it. -/
structure SameOutside (s t : State) : Prop where
  banks : ∀ r, r ≠ s.cur → t.bank r = s.bank r
  fields : { t with banks := s.banks, svcs := s.svcs, pre := s.pre } = s
  memory : ∀ a, t.byte a = s.byte a

/-- Besides PC, STAT and the counters of the bank that acts, only the registers listed may have changed: every other general,
vector and mask register keeps its value and its mark, and so does all the rest of the machine. -/
structure Kept (s t : State) (g v k : List Nat) : Prop where
  gpr : ∀ i, i ∉ g → t.b.gpr i = s.b.gpr i
  gmark : ∀ i, i ∉ g → t.b.mark (.g i) = s.b.mark (.g i)
  vreg : ∀ i, i ∉ v → t.b.vreg i = s.b.vreg i
  vmark : ∀ i, i ∉ v → t.b.mark (.v i) = s.b.mark (.v i)
  kreg : ∀ i, i ∉ k → t.b.kreg i = s.b.kreg i
  rest : t.b.rest = s.b.rest
  outside : SameOutside s t

/-- The instruction completes: general register d holds `w` without a mark (g0 reads zero), STAT is as it was, PC has moved on by `n` bytes,
and nothing else changed. -/
def SetsG (i : Instr) (s : State) (d : BitVec 5) (w : Word) (n : Nat) : Prop :=
  ∃ t, exec i s = .next t ∧ t.b.gpr d.toNat = (if d = 0 then 0 else w) ∧ t.b.mark (.g d.toNat) = none ∧
    t.b.stat = s.b.stat ∧ t.b.pc = s.b.pc + BitVec.ofNat 64 n ∧ Kept s t [d.toNat] [] []

/-- As SetsG for an instruction that keeps part of general register d, whose mark then stays (07_memories R182). -/
def SetsPartG (i : Instr) (s : State) (d : BitVec 5) (w : Word) (n : Nat) : Prop :=
  ∃ t, exec i s = .next t ∧ t.b.gpr d.toNat = (if d = 0 then 0 else w) ∧
    t.b.mark (.g d.toNat) = s.b.mark (.g d.toNat) ∧
    t.b.stat = s.b.stat ∧ t.b.pc = s.b.pc + BitVec.ofNat 64 n ∧ Kept s t [d.toNat] [] []

/-- The mask that a mask field names selects every lane of the view of etype e (05_ins_compute R121, R122). -/
def State.full (s : State) (k : BitVec 3) (e : Nat) : Bool := allLanes e (s.b.kreg k.toNat)

/-- The instruction completes: vector register d holds `w`, whose mark is gone when the write is whole (07_memories R182), the
flags `fl` are merged into STAT.FLAGS, PC has moved on by 4, and nothing else changed. -/
def SetsV (i : Instr) (s : State) (d : BitVec 4) (w : VWord) (whole : Bool) (fl : Nat) : Prop :=
  ∃ t, exec i s = .next t ∧ t.b.vreg d.toNat = w ∧
    t.b.mark (.v d.toNat) = (if whole then none else s.b.mark (.v d.toNat)) ∧
    t.b.stat = s.b.stat ||| BitVec.ofNat 64 (fl % 32 * 256) ∧ t.b.pc = s.b.pc + 4 ∧ Kept s t [] [d.toNat] []

/-- The instruction completes with value f j in element j of vector register d wherever the mask k selects its lane, the other
elements kept (05_ins_compute R121, R122). -/
def SetsElems (i : Instr) (s : State) (d : BitVec 4) (k : BitVec 3) (e : Nat) (f : Nat → Nat) (fl : Nat) : Prop :=
  ∃ w, SetsV i s d w (s.full k e) fl ∧ ∀ j, j < 512 / etWidth e →
    elem w (etWidth e) j =
      if (s.b.kreg k.toNat).getLsbD (j * etWidth e / laneW e) then f j else elem (s.b.vreg d.toNat) (etWidth e) j

/-- The instruction completes with f j in every lane j of vector register d at the lane view of etype e, raising no flag. -/
def SetsLanes (i : Instr) (s : State) (d : BitVec 4) (e : Nat) (f : Nat → Nat) : Prop :=
  ∃ w, SetsV i s d w true 0 ∧ ∀ j, j < 512 / laneW e → elem w (laneW e) j = f j

/-- The instruction completes: mask register d holds `w` (k0 reads all ones), the flags `fl` are merged into STAT.FLAGS, PC has
moved on by 4, and nothing else changed. -/
def SetsK (i : Instr) (s : State) (d : BitVec 3) (w : BitVec 16) (fl : Nat) : Prop :=
  ∃ t, exec i s = .next t ∧ t.b.kreg d.toNat = (if d = 0 then 0xffff else w) ∧
    t.b.stat = s.b.stat ||| BitVec.ofNat 64 (fl % 32 * 256) ∧ t.b.pc = s.b.pc + 4 ∧ Kept s t [] [] [d.toNat]

/-- Flags of the elements that a mask selects, together. -/
def flagsOf (n : Nat) (on : Nat → Bool) (f : Nat → Nat) : Nat :=
  (List.range n).foldl (fun t j => if on j then t ||| f j else t) 0

/-- The instruction completes: PC is `pc`, STAT is as it was, and nothing else changed. -/
def Jumps (i : Instr) (s : State) (pc : Word) : Prop :=
  ∃ t, exec i s = .next t ∧ t.b.pc = pc ∧ t.b.stat = s.b.stat ∧ Kept s t [] [] []

/-- An exception of the acting requester is entered at once: it is a thread bank in user mode or a service core, and its older
loads have written their registers (06_ins_control R154, R155). -/
def State.enters (s : State) : Bool := (isSvc s.cur || !s.b.priv) && s.loadsDone s.cur

/-- The acting requester of s has taken an exception in t (06_ins_control R152, R154): the exception registers are set, MODE is 1, PC is
the trap entry address, and every other register of the bank, its context and the rest of the machine are as they were. -/
def Entered (s t : State) (cause einfo eaddr : Nat) (epc : Word) : Prop :=
  t.b.epc = epc ∧ t.b.ecause = BitVec.ofNat 64 cause ∧ t.b.einfo = BitVec.ofNat 64 einfo ∧
    t.b.eaddr = BitVec.ofNat 64 eaddr ∧ t.b.stat = s.b.stat ||| 1 ∧ t.b.pc = s.trapEntry s.cur ∧
    t.b.g = s.b.g ∧ t.b.gmark = s.b.gmark ∧ t.b.v = s.b.v ∧ t.b.vmark = s.b.vmark ∧ t.b.k = s.b.k ∧ t.b.ids = s.b.ids ∧
    t.b.scratch = s.b.scratch ∧ t.b.ctxroot = s.b.ctxroot ∧ t.b.ctxkey = s.b.ctxkey ∧ t.b.xtab = s.b.xtab ∧
    t.b.qtrapcfg = s.b.qtrapcfg ∧ t.b.cont = s.b.cont ∧ t.b.perf = s.b.perf ∧ SameOutside s t

/-- The instruction takes an exception. -/
def Enters (i : Instr) (s : State) (cause einfo eaddr : Nat) (epc : Word) : Prop :=
  ∃ t, exec i s = .next t ∧ Entered s t cause einfo eaddr epc

/-- Nothing of the acting requester is outstanding, and its slot and core have room for a request (09_ins_memory R211). -/
def State.clear (s : State) : Bool :=
  s.b.reqs.isEmpty && s.b.batches.isEmpty && (s.opsOf s.cur).isEmpty && !s.pairs.any (fun p => p.who == s.cur) && s.room

/-- Nothing but the bank that acts, the lines that caches hold and their read counts (07_memories R169, R183) and what threads have
read ahead changed. -/
structure SameBeside (s t : State) : Prop where
  banks : ∀ r, r ≠ s.cur → t.bank r = s.bank r
  fields : { t with banks := s.banks, svcs := s.svcs, caches := s.caches, pre := s.pre } = s

/-- Of the bank that acts, besides PC and the counters, only the registers listed may have changed. -/
structure KeptBank (s t : State) (g v : List Nat) : Prop where
  gpr : ∀ i, i ∉ g → t.b.gpr i = s.b.gpr i
  gmark : ∀ i, i ∉ g → t.b.mark (.g i) = s.b.mark (.g i)
  vreg : ∀ i, i ∉ v → t.b.vreg i = s.b.vreg i
  vmark : ∀ i, i ∉ v → t.b.mark (.v i) = s.b.mark (.v i)
  kreg : ∀ i, t.b.kreg i = s.b.kreg i
  stat : t.b.stat = s.b.stat
  rest : t.b.rest = s.b.rest

/-- As Kept, caches aside. -/
structure KeptM (s t : State) (g v : List Nat) : Prop extends KeptBank s t g v where
  outside : SameBeside s t

/-- Reads of the lines listed lie between s and t: what caches hold may have changed, and with it the dirty lines that left them for
their tier or for the host, as may an error that a read found and its count (07_memories R168, R169, R180). No byte of memory has
changed, and no line but those that left or that had such an error. -/
structure AfterReads (lines : List Nat) (s t : State) : Prop where
  fields : { t with caches := s.caches, lines := s.lines, events := s.events, dirty := s.dirty, wpoison := s.wpoison,
                    hostLines := s.hostLines, hostWb := s.hostWb } = s
  line : ∀ l, (l ∈ lines → s.lineErr l = 0) → Tab.get none s.dirty l = none → t.line l = s.line l

/-- The acting thread bank stops at its instruction, as an exception that it meets in privileged mode makes it (06_ins_control R155): its
registers and its exception registers are as they were, and where FAULTQ names no queue nothing else of the machine changes. -/
def Stops (i : Instr) (s : State) : Prop :=
  ∃ t, exec i s = .next t ∧ t.b.stopped = true ∧ t.b.epc = s.b.epc ∧ t.b.ecause = s.b.ecause ∧ t.b.einfo = s.b.einfo ∧
    t.b.eaddr = s.b.eaddr ∧ t.b.pc = s.b.pc ∧ t.b.stat = s.b.stat ∧ t.b.g = s.b.g ∧ t.b.v = s.b.v ∧ t.b.k = s.b.k ∧
    (bitAt s.faultq 0 = false → SameOutside s t)

/-- A suspension point of the acting thread bank, whose continuation is c, has nothing to wait for and meets no exception
(06_ins_control R143, steps 1 to 3). -/
def State.atSuspension (s : State) (c : Nat) : Bool :=
  !isSvc s.cur && s.b.cont == some c && s.b.packs.isEmpty && s.b.batches.isEmpty && s.suspReady s.cur &&
    s.b.pending.isNone && s.b.sfaults.isEmpty && (List.range 6).all (fun i => (s.b.mark (.g (i + 1))).isNone) &&
    (s.cont c).st == .running

/-- The same, and the group of c is not held (R151). -/
def State.suspends (s : State) (c : Nat) : Bool := s.atSuspension c && !(s.group (contGroup c)).holds

/-- No update waits in a bin or in a log to be applied (10_updates R249), so that a read of memory leaves it as it is. -/
abbrev State.settled (s : State) : Prop := s.bins = [] ∧ s.logs = []

/-- An address lies in the record of a continuation. -/
abbrev State.inRecord (s : State) (c a : Nat) : Prop :=
  paLocal ((s.group (contGroup c)).carea + contIdx c * 64) ≤ a ∧
    a < paLocal ((s.group (contGroup c)).carea + contIdx c * 64) + 64

/-- The continuation c was written back at a suspension point and its bank was freed (06_ins_control R143, steps 4 and 6; R150). -/
structure WrittenBack (s t : State) (c : Nat) : Prop where
  pc : (t.cont c).pc = if s.b.priv then s.b.epc &&& ~~~3 else s.b.pc + 4
  g : (t.cont c).g = (List.range 6).map fun i => s.b.gpr (i + 1)
  flags : (t.cont c).flags = s.b.flags
  vrm : (t.cont c).vrm = s.b.vrm
  ub : (t.cont c).ub = s.b.ub
  bank : (t.cont c).bank = none
  freed : t.bank s.cur = { threadReset with seq := s.b.seq }
  others : ∀ r, r ≠ s.cur → t.bank r = s.bank r

/-- The run queue of a continuation of the group of c: its home cluster's, or with UB set the unbound one (06_ins_control R145). -/
def State.runQueue (s : State) (c : Nat) (ub : Bool) : Nat := if ub then 32 else (s.group (contGroup c)).home.getD 0

/-- The run queue that the continuation c of the acting bank joins. -/
def State.ownQueue (s : State) (c : Nat) : Nat := s.runQueue c s.b.ub

/-- The continuation c is ready at the tail of its run queue (06_ins_control R145; 17_work R426). -/
def Queued (s t : State) (c : Nat) : Prop :=
  (t.cont c).st = .ready ∧
    Tab.get [] t.runqs (s.ownQueue c) = Tab.get [] s.runqs (s.ownQueue c) ++ [c]

/-- The physical address is one of this package whose bytes a read returns as memory holds them: a tier outside every update region,
or cluster scratch. -/
def State.plain (s : State) (pa : Nat) : Bool :=
  let a := paLocal pa
  s.own pa && (isScratch a || (isTier a && (s.regionAt (a / 4096 * 4096)).isNone))

/-- The record of `n` bytes at va, at the physical address pa, is there: `w` is what a read of this package returns, unpoisoned, or what
the read of another package has returned to the waiting instruction (09_ins_memory R225; 17_work R417). `u` is the state after the
translation and `v` the one after the read. -/
def State.gotRecord (s u v : State) (va pa n w : Nat) : Prop :=
  (u.own pa = true ∧ u.readWide (clusterOf s.cur) pa n (some (coreOf s.cur)) = (w, none, v)) ∨
    (u.own pa = false ∧ (∃ op, s.b.record = some { va := va, op := op, data := some (w, none) }) ∧ v = u)

/-- The request of a remote operation `o`, operation `id` of the machine, is in the queue of a port (11_remote R257), when a usable
port leads to its package. -/
def State.requested (s t : State) (id : Nat) (o : RemOp) : Prop :=
  s.usablePorts o.pkg ≠ [] →
    ∃ p ∈ s.usablePorts o.pkg, ∃ m : Msg, (p, m) ∈ t.outbox ∧ m.dst = o.pkg ∧ m.op = id ∧ m.serial = o.serial ∧
      m.oinc = o.oinc ∧ m.body = .request o.body

/-- A memory instruction completes as a remote operation `o` (11_remote R256): the next operation of the machine, which names the
owner incarnation that is known, the time, the traffic class and the context KEY, is added to those outstanding, its request is sent, and PC has moved
on by `n`. -/
def SendsRemote (i : Instr) (s u : State) (o : RemOp) (n : Nat) : Prop :=
  let o' : RemOp :=
    { o with
      oinc := Tab.get 0 s.oincs o.pkg
      sentAt := s.time
      born := s.nextCmd
      tc := s.tcOf s.cur
      ctx := [s.b.ctxkey.toNat % 4096] }
  ∃ t, exec i s = .next t ∧ t.rop s.nextOp = some o' ∧ s.requested t s.nextOp o' ∧
    t.nextOp = s.nextOp + 1 ∧ (∀ j, j ≠ s.nextOp → t.rop j = s.rop j) ∧ (∀ y, t.byte y = u.byte y) ∧
    (∀ j, t.b.gpr j = s.b.gpr j) ∧ (∀ j, t.b.vreg j = s.b.vreg j) ∧ t.b.pc = s.b.pc + BitVec.ofNat 64 n

/-- Memory of t is that of w with the `n` low bytes of `v` stored from key k on, lowest address first (01_machine R6). -/
def Stored (w t : State) (k n v : Nat) : Prop :=
  (∀ j, j < n → t.byte (k + j) = BitVec.ofNat 8 (v / 256 ^ j)) ∧ ∀ y, y < k ∨ k + n ≤ y → t.byte y = w.byte y

/-- The instruction moves PC on by `n` and changes no register. -/
def KeepsRegs (s t : State) (n : Nat) : Prop :=
  t.b.g = s.b.g ∧ t.b.gmark = s.b.gmark ∧ t.b.v = s.b.v ∧ t.b.vmark = s.b.vmark ∧ t.b.k = s.b.k ∧ t.b.stat = s.b.stat ∧
    t.b.pc = s.b.pc + BitVec.ofNat 64 n ∧ ∀ r, r ≠ s.cur → t.bank r = s.bank r

/-- A queue instruction of the acting bank that needs direction `dir` of queue `n` passes its checks (12_queues R290): the queue is bound
that way and no graph fault stands; no crossing of OCCTH waits to be charged (R304), no stream of the bank runs into the queue
(09_ins_memory R231), and its slot and core have room for a request (R211). -/
def State.queueFree (s : State) (n dir : Nat) : Bool :=
  s.queueOpen n dir && !s.b.graph && !(s.queue (s.qk n)).occCross && !s.streams n && s.room

/-- The partial beat of the acting bank for a queue, or an empty one (12_queues R293). -/
def State.partialBeat (s : State) (n : Nat) : Packer := (s.b.packer n).getD { q := n, n := 0, beat := emptyBeat }

/-- No register listed changed, PC has moved on by `n`, and no other bank and no byte of memory changed. -/
structure Steady (s t : State) (n : Nat) (g v k : List Nat) : Prop where
  gpr : ∀ i, i ∉ g → t.b.gpr i = s.b.gpr i
  vreg : ∀ i, i ∉ v → t.b.vreg i = s.b.vreg i
  kreg : ∀ i, i ∉ k → t.b.kreg i = s.b.kreg i
  stat : t.b.stat = s.b.stat
  pc : t.b.pc = s.b.pc + BitVec.ofNat 64 n
  banks : ∀ r, r ≠ s.cur → t.bank r = s.bank r
  memory : ∀ a, t.byte a = s.byte a

/-- The acting requester is no waiter of a semaphore or of a barrier object, as no requester that executes is. -/
abbrev State.unlisted (s : State) : Prop :=
  s.cur < 4096 ∨ (∀ e ∈ s.sems, ∀ w ∈ e.2.waiters, w.who ≠ .svc (s.cur - 4096)) ∧
    ∀ e ∈ s.bars, ∀ w ∈ e.2, w.who ≠ .svc (s.cur - 4096)

/-- From s to v the arcs listed in `out` give up their head beat, and the beat `b` enters those listed in `into`: their slots, or the page
network where the turn holds that back or has earlier beats of the arc in it (13_fabric R315, R349). Every other arc keeps its beats. -/
def ArcsMove (s v : State) (out into : List Nat) (b : Beat) : Prop :=
  ∀ i a, s.arc i = some a →
    let l := if i ∈ out then a.beats.drop 1 else a.beats
    if i ∈ into then
      if i / 128 = a.page ∨ (s.late = false ∧ s.inNet i = []) then (v.arc i).map (·.beats) = some (l ++ [b])
      else (v.arc i).map (·.beats) = some l ∧
        ({ arc := i, beat := b, page := a.page, since := s.cycle } : Packet) ∈ v.net.drop s.net.length
    else (v.arc i).map (·.beats) = some l

/-- The arcs out of the ports OUT0 to OUT3 that an output beat of stream g takes from a stage of unit u whose word is w (13_fabric R318,
R334). -/
def State.routeArcs (s : State) (p u w g : Nat) : List Nat :=
  ((routesOf w g).filter (· != 0)).filterMap fun k => (s.arcOut p (8 * u + 2 + k)).map (·.1)

/-- The arcs into the ports IN0 and IN1 of unit u, and where no array feeds it its third port, that a stage whose word is w takes beats
from, for the sources that `take` names (13_fabric R317). -/
def Page.takenArcs (x : Page) (p u w : Nat) (take : List Bool) : List Nat :=
  (List.range 3).filterMap fun i =>
    if take.getD i false then
      match cSrc w i with
      | 2 => some (arcKey p (8 * u))
      | 3 => some (arcKey p (8 * u + 1))
      | 4 => if x.ma.isSome then none else some (arcKey p (8 * u + 2))
      | _ => none
    else none

/-- A waiter of s is woken in t: a continuation is ready, or held with its group (06_ins_control R151), and a service core goes on. -/
def Woken (s t : State) (w : Who) : Prop :=
  match w with
  | .cont c => (t.cont c).st = (if (s.group (contGroup c)).holds then .held else .ready) ∧ (t.cont c).place = .runq
  | .svc m => (t.bank (4096 + m)).susp = none

/-- Semaphore n of t has the count v and keeps the waiters of s whose threshold it does not meet; the others are woken (15_counters
R373), and no other semaphore changed. -/
def Signalled (s t : State) (n v : Nat) : Prop :=
  t.sem n = { count := v, waiters := (s.sem n).waiters.filter fun w => decide (v < w.thr) } ∧
    (∀ w ∈ (s.sem n).waiters, w.thr ≤ v → Woken s t w.who) ∧ (∀ m, m ≠ n → t.sem m = s.sem m) ∧ ∀ y, t.byte y = s.byte y

end Sys2Proof.Machine
end

