-- ==== Sys2Proof/Certificates/Slice0/Obligations.lean ====
section
/-! DEFINITION. The statements for the provers: what the AE90's instructions and events do, from the numbered rules of spec/. A
statement about an instruction names the state in which it executes with `State.ready` and the parts it leaves alone with
`Kept`. -/

open Sys2Proof Sys2Proof.Machine

/-! ### Integer instructions -/

/-- R109: the nine arithmetic instructions, with the corners of R31 and R32. R110: logic and shifts; a shift amount of 64 or more leaves
0, or copies of bit 63 for SRA. -/
def Obligations.IntegerArithmeticAndLogic : Prop :=
  (∀ (s : State) (d a b : BitVec 5), s.ready [.g a.toNat, .g b.toNat] [.g d.toNat] = true →
    let x := s.b.gpr a.toNat
    let y := s.b.gpr b.toNat
    SetsG (.add d a b) s d (BitVec.ofNat 64 (x.toNat + y.toNat)) 4 ∧
    SetsG (.sub d a b) s d (BitVec.ofInt 64 ((x.toNat : Int) - y.toNat)) 4 ∧
    SetsG (.mul d a b) s d (BitVec.ofNat 64 (x.toNat * y.toNat)) 4 ∧
    SetsG (.mulh d a b) s d (BitVec.ofInt 64 (x.toInt * y.toInt / 2 ^ 64)) 4 ∧
    SetsG (.mulhu d a b) s d (BitVec.ofNat 64 (x.toNat * y.toNat / 2 ^ 64)) 4 ∧
    SetsG (.div d a b) s d (if y = 0 then 0 else BitVec.ofInt 64 (x.toInt.tdiv y.toInt)) 4 ∧
    SetsG (.divu d a b) s d (if y = 0 then 0 else BitVec.ofNat 64 (x.toNat / y.toNat)) 4 ∧
    SetsG (.rem d a b) s d (if y = 0 then x else BitVec.ofInt 64 (x.toInt.tmod y.toInt)) 4 ∧
    SetsG (.remu d a b) s d (if y = 0 then x else BitVec.ofNat 64 (x.toNat % y.toNat)) 4) ∧
  (∀ (s : State) (d a b : BitVec 5), s.ready [.g a.toNat, .g b.toNat] [.g d.toNat] = true →
    let x := s.b.gpr a.toNat
    let y := s.b.gpr b.toNat
    let n := (y.setWidth 8).toNat
    SetsG (.and d a b) s d (x &&& y) 4 ∧
    SetsG (.or d a b) s d (x ||| y) 4 ∧
    SetsG (.xor d a b) s d (x ^^^ y) 4 ∧
    SetsG (.andn d a b) s d (x &&& ~~~y) 4 ∧
    SetsG (.orn d a b) s d (x ||| ~~~y) 4 ∧
    SetsG (.shl d a b) s d (if n < 64 then BitVec.ofNat 64 (x.toNat * 2 ^ n) else 0) 4 ∧
    SetsG (.shr d a b) s d (if n < 64 then BitVec.ofNat 64 (x.toNat / 2 ^ n) else 0) 4 ∧
    SetsG (.sra d a b) s d
      (if n < 64 then BitVec.ofInt 64 (x.toInt / 2 ^ n) else if x.msb then BitVec.allOnes 64 else 0) 4 ∧
    SetsG (.ror d a b) s d
      (BitVec.ofNat 64 (x.toNat / 2 ^ (n % 64) + x.toNat % 2 ^ (n % 64) * 2 ^ (64 - n % 64))) 4)

/-- R111, R112: minima, maxima, comparisons, SEL and CLAMP. R114 to R116: 32-bit arithmetic, LEA and the bounded index. -/
def Obligations.CompareSelectAndIndex : Prop :=
  (∀ (s : State) (d a b : BitVec 5), s.ready [.g a.toNat, .g b.toNat] [.g d.toNat] = true →
    let z := s.b.gpr d.toNat
    let x := s.b.gpr a.toNat
    let y := s.b.gpr b.toNat
    let truth (p : Bool) : Word := if p then 1 else 0
    SetsG (.min d a b) s d (if x.toInt ≤ y.toInt then x else y) 4 ∧
    SetsG (.max d a b) s d (if x.toInt ≥ y.toInt then x else y) 4 ∧
    SetsG (.minu d a b) s d (BitVec.ofNat 64 (Nat.min x.toNat y.toNat)) 4 ∧
    SetsG (.maxu d a b) s d (BitVec.ofNat 64 (Nat.max x.toNat y.toNat)) 4 ∧
    SetsG (.slt d a b) s d (truth (decide (x.toInt < y.toInt))) 4 ∧
    SetsG (.sltu d a b) s d (truth (decide (x.toNat < y.toNat))) 4 ∧
    SetsG (.seq d a b) s d (truth (decide (x = y))) 4 ∧
    SetsG (.sne d a b) s d (truth (decide (x ≠ y))) 4 ∧
    (s.b.mark (.g d.toNat) = none →
      SetsG (.sel d a b) s d (if z ≠ 0 then x else y) 4 ∧
      SetsG (.clamp d a b) s d (BitVec.ofInt 64 (min (max z.toInt x.toInt) y.toInt)) 4)) ∧
  (∀ (s : State) (d a b : BitVec 5) (h : BitVec 3), s.ready [.g a.toNat, .g b.toNat] [.g d.toNat] = true →
    let x := s.b.gpr a.toNat
    let y := s.b.gpr b.toNat
    let i := x.toNat % 2 ^ 32
    let j := x.toNat / 2 ^ 32
    let ld := y.toNat % 2 ^ 32
    let rows := y.toNat / 2 ^ 32
    SetsG (.addw d a b) s d ((BitVec.ofNat 32 (x.toNat + y.toNat)).signExtend 64) 4 ∧
    SetsG (.subw d a b) s d ((BitVec.ofInt 32 ((x.toNat : Int) - y.toNat)).signExtend 64) 4 ∧
    SetsG (.mulw d a b) s d ((BitVec.ofNat 32 (x.toNat * y.toNat)).signExtend 64) 4 ∧
    SetsG (.lea d a b h) s d (BitVec.ofNat 64 (x.toNat + y.toNat * 2 ^ h.toNat)) 4 ∧
    SetsG (.idx2 d a b) s d
      (if j ≥ ld ∨ (rows ≠ 0 ∧ i ≥ rows) then BitVec.allOnes 64 else BitVec.ofNat 64 (i * ld + j)) 4)

/-- R113: what CLZ, CTZ, POPC, BREV and BSWAP write, said bit by bit. -/
def Obligations.BitCounting : Prop :=
  ∀ (s : State) (d a : BitVec 5) (m : BitVec 3), s.ready [.g a.toNat] [.g d.toNat] = true → m.toNat < 4 →
    let w := 64 / 2 ^ m.toNat
    let x := (s.b.gpr a.toNat).toNat % 2 ^ w
    (∃ n, SetsG (.clz d a m) s d (BitVec.ofNat 64 n) 4 ∧ n ≤ w ∧ (∀ i, w - n ≤ i → i < w → x.testBit i = false) ∧
      (n < w → x.testBit (w - 1 - n) = true)) ∧
    (∃ n, SetsG (.ctz d a m) s d (BitVec.ofNat 64 n) 4 ∧ n ≤ w ∧ (∀ i, i < n → x.testBit i = false) ∧
      (n < w → x.testBit n = true)) ∧
    SetsG (.popc d a m) s d (BitVec.ofNat 64 ((List.range w).countP x.testBit)) 4 ∧
    (∃ n, SetsG (.brev d a m) s d (BitVec.ofNat 64 n) 4 ∧ n < 2 ^ w ∧
      ∀ i, i < w → n.testBit i = x.testBit (w - 1 - i)) ∧
    (m.toNat < 3 → ∃ n, SetsG (.bswap d a m) s d (BitVec.ofNat 64 n) 4 ∧ n < 2 ^ w ∧
      ∀ i, i < w / 8 → n / 256 ^ i % 256 = x / 256 ^ (w / 8 - 1 - i) % 256)

/-- R117 to R120: the immediate instructions, MOVK and the bit fields; an INS of the whole register clears its poison mark (R182). R74,
R108, R119: an XR form writes what its three-register form writes from a general register that holds the sign-extended literal, and PC moves
on by 8; the XI forms compute on the 32-bit literal. -/
def Obligations.ImmediateAndLiteralForms : Prop :=
  (∀ (s : State) (d a : BitVec 5), s.ready [.g a.toNat] [.g d.toNat] = true →
    let x := s.b.gpr a.toNat
    let z := s.b.gpr d.toNat
    (∀ i : BitVec 16,
      SetsG (.addi d a i) s d (x + i.signExtend 64) 4 ∧
      SetsG (.andi d a i) s d (x &&& i.setWidth 64) 4 ∧
      SetsG (.ori d a i) s d (x ||| i.setWidth 64) 4 ∧
      SetsG (.xori d a i) s d (x ^^^ i.setWidth 64) 4 ∧
      SetsG (.slti d a i) s d (if x.toInt < i.toInt then 1 else 0) 4 ∧
      SetsG (.sltiu d a i) s d (if x.toNat < (i.signExtend 64).toNat then 1 else 0) 4 ∧
      SetsG (.li d i) s d (i.signExtend 64) 4 ∧
      SetsG (.lui d i) s d ((i ++ 0#16).signExtend 64) 4) ∧
    (∀ n : BitVec 8,
      SetsG (.shli d a n) s d (if n.toNat < 64 then x <<< n.toNat else 0) 4 ∧
      SetsG (.shri d a n) s d (if n.toNat < 64 then x >>> n.toNat else 0) 4 ∧
      SetsG (.srai d a n) s d (x.sshiftRight (min n.toNat 63)) 4) ∧
    (∀ (h : BitVec 2) (i : BitVec 16), ∃ w, SetsPartG (.movk d h i) s d w 4 ∧
      ∀ j, j < 64 → w.getLsbD j =
        if 16 * h.toNat ≤ j ∧ j < 16 * h.toNat + 16 then i.getLsbD (j - 16 * h.toNat) else z.getLsbD j) ∧
    (∀ (h : BitVec 1) (i : BitVec 32), ∃ w, SetsPartG (.movkW d h i) s d w 8 ∧
      ∀ j, j < 64 → w.getLsbD j =
        if 32 * h.toNat ≤ j ∧ j < 32 * h.toNat + 32 then i.getLsbD (j - 32 * h.toNat) else z.getLsbD j) ∧
    (∀ l p : BitVec 6, l.toNat + 1 + p.toNat ≤ 64 →
      (∃ w, SetsG (.ext d a l p) s d w 4 ∧
        ∀ j, j < 64 → w.getLsbD j = if j ≤ l.toNat then x.getLsbD (p.toNat + j) else false) ∧
      (∃ w, SetsG (.extS d a l p) s d w 4 ∧
        ∀ j, j < 64 → w.getLsbD j = x.getLsbD (p.toNat + min j l.toNat)) ∧
      (∃ w, (if p = 0 ∧ l = 63 then SetsG (.ins d a l p) s d w 4 else SetsPartG (.ins d a l p) s d w 4) ∧
        ∀ j, j < 64 → w.getLsbD j =
          if p.toNat ≤ j ∧ j ≤ p.toNat + l.toNat then x.getLsbD (j - p.toNat) else z.getLsbD j))) ∧
  (∀ (s : State) (d a : BitVec 5) (lit : BitVec 32), s.ready [.g a.toNat] [.g d.toNat] = true →
    let x := s.b.gpr a.toNat
    (∀ (f : AluOp) (m : BitVec 3), f = .lea ∨ m = 0 → (f = .sel ∨ f = .clamp → s.b.mark (.g d.toNat) = none) →
      ∃ w, SetsG (.xr f d a m lit) s d w 8 ∧
        ∀ b : BitVec 5, b ≠ 0 → b ≠ a → b ≠ d → s.ready [.g b.toNat] [] = true →
          SetsG (aluInstr f d a b m) (s.setBank s.cur (s.b.setGpr b.toNat (lit.signExtend 64))) d w 4) ∧
    SetsG (.xi .addi d a lit) s d (x + lit.signExtend 64) 8 ∧
    SetsG (.xi .andi d a lit) s d (x &&& lit.setWidth 64) 8 ∧
    SetsG (.xi .ori d a lit) s d (x ||| lit.setWidth 64) 8 ∧
    SetsG (.xi .xori d a lit) s d (x ^^^ lit.setWidth 64) 8 ∧
    SetsG (.xi .slti d a lit) s d (if x.toInt < lit.toInt then 1 else 0) 8 ∧
    SetsG (.xi .sltiu d a lit) s d (if x.toNat < (lit.signExtend 64).toNat then 1 else 0) 8 ∧
    SetsG (.xi .li d a lit) s d (lit.signExtend 64) 8 ∧
    SetsG (.xi .lui d a lit) s d (BitVec.ofNat 64 (lit.toNat * 2 ^ 32)) 8)
/-! ### Vector and mask instructions -/

/-- R123: the integer element-wise instructions, element by element, under a mask. -/
def Obligations.VectorIntegerElements : Prop :=
  ∀ (s : State) (d a b : BitVec 4) (k e : BitVec 3), e.toNat < 4 →
    s.ready [.v a.toNat, .v b.toNat] [.v d.toNat] = true →
    let w := etWidth e.toNat
    let x := elem (s.b.vreg a.toNat) w
    let y := elem (s.b.vreg b.toNat) w
    let sh := fun j => y j % 256
    SetsElems (.vadd d a b k e) s d k e.toNat (fun j => (x j + y j) % 2 ^ w) 0 ∧
    SetsElems (.vsub d a b k e) s d k e.toNat (fun j => ux w ((x j : Int) - y j)) 0 ∧
    SetsElems (.vmul d a b k e) s d k e.toNat (fun j => x j * y j % 2 ^ w) 0 ∧
    SetsElems (.vmulh d a b k e) s d k e.toNat (fun j => ux w (sx w (x j) * sx w (y j) / 2 ^ w)) 0 ∧
    SetsElems (.vmin d a b k e) s d k e.toNat (fun j => ux w (min (sx w (x j)) (sx w (y j)))) 0 ∧
    SetsElems (.vmax d a b k e) s d k e.toNat (fun j => ux w (max (sx w (x j)) (sx w (y j)))) 0 ∧
    SetsElems (.vand d a b k e) s d k e.toNat (fun j => x j &&& y j) 0 ∧
    SetsElems (.vor d a b k e) s d k e.toNat (fun j => x j ||| y j) 0 ∧
    SetsElems (.vxor d a b k e) s d k e.toNat (fun j => x j ^^^ y j) 0 ∧
    SetsElems (.vshl d a b k e) s d k e.toNat (fun j => if sh j < w then x j * 2 ^ sh j % 2 ^ w else 0) 0 ∧
    SetsElems (.vshr d a b k e) s d k e.toNat (fun j => if sh j < w then x j / 2 ^ sh j else 0) 0 ∧
    SetsElems (.vsra d a b k e) s d k e.toNat (fun j => ux w (sx w (x j) / 2 ^ min (sh j) w)) 0

/-- R124, R50, R51: the floating-point element-wise instructions round the exact result once under STAT.VRM, and the flags of
the active elements are merged into STAT.FLAGS (R122). -/
def Obligations.VectorFloatElements : Prop :=
  ∀ (s : State) (d a b : BitVec 4) (k e : BitVec 3), 4 ≤ e.toNat → e.toNat < 7 →
    s.ready [.v a.toNat, .v b.toNat] [.v d.toNat] = true →
    let f := fmtOf e.toNat
    let w := etWidth e.toNat
    let rm := rmOf s.b.vrm
    let x := elem (s.b.vreg a.toNat) w
    let y := elem (s.b.vreg b.toNat) w
    let z := elem (s.b.vreg d.toNat) w
    let on := fun j => (s.b.kreg k.toNat).getLsbD (j * w / 32)
    let does (i : Instr) (r : Nat → Nat × Nat) : Prop :=
      SetsElems i s d k e.toNat (fun j => (r j).1 % 2 ^ w) (flagsOf (512 / w) on fun j => (r j).2)
    does (.vfadd d a b k e) (fun j => f.add rm (f.decode (x j)) (f.decode (y j))) ∧
    does (.vfmul d a b k e) (fun j => f.mul rm (f.decode (x j)) (f.decode (y j))) ∧
    (s.b.mark (.v d.toNat) = none → does (.vfma d a b k e) (fun j => f.fma rm (f.decode (x j)) (f.decode (y j)) (f.decode (z j)))) ∧
    does (.vfmin d a b k e) (fun j => f.minmax false (x j) (y j)) ∧
    does (.vfmax d a b k e) (fun j => f.minmax true (x j) (y j))

/-- R125: a compare writes bit i of kd for every lane i of the view, 0 in the inactive lanes and above the lanes of the view. -/
def Obligations.VectorCompares : Prop :=
  ∀ (s : State) (d : BitVec 3) (a b : BitVec 4) (k e : BitVec 3), e.toNat = 2 ∨ e.toNat = 3 ∨ e.toNat = 4 →
    s.ready [.v a.toNat, .v b.toNat] [] = true →
    let w := etWidth e.toNat
    let x := elem (s.b.vreg a.toNat) w
    let y := elem (s.b.vreg b.toNat) w
    let on := (s.b.kreg k.toNat).getLsbD
    let does (i : Instr) (p : Nat → Bool) (fl : Nat → Nat) : Prop :=
      ∃ m : BitVec 16, SetsK i s d m (flagsOf (512 / w) on fl) ∧
        ∀ j, j < 16 → m.getLsbD j = (decide (j < 512 / w) && on j && p j)
    let fx := fun j => f32.decode (x j)
    let fy := fun j => f32.decode (y j)
    let nan := fun j => (fx j).isNan || (fy j).isNan
    let sig := fun j => if (fx j).isSig || (fy j).isSig then nv else 0
    (e.toNat ≠ 4 →
      does (.vcmpEq d a b k e) (fun j => decide (x j = y j)) (fun _ => 0) ∧
      does (.vcmpNe d a b k e) (fun j => decide (x j ≠ y j)) (fun _ => 0) ∧
      does (.vcmpLt d a b k e) (fun j => decide (sx w (x j) < sx w (y j))) (fun _ => 0) ∧
      does (.vcmpLe d a b k e) (fun j => decide (sx w (x j) ≤ sx w (y j))) (fun _ => 0) ∧
      does (.vcmpLtu d a b k (e.extractLsb' 0 1)) (fun j => decide (x j < y j)) (fun _ => 0) ∧
      does (.vcmpLeu d a b k (e.extractLsb' 0 1)) (fun j => decide (x j ≤ y j)) (fun _ => 0)) ∧
    (e.toNat = 4 →
      does (.vcmpEq d a b k e) (fun j => !nan j && (fx j).eqNum (fy j)) sig ∧
      does (.vcmpNe d a b k e) (fun j => nan j || !(fx j).eqNum (fy j)) sig ∧
      does (.vcmpLt d a b k e) (fun j => !nan j && (fx j).ltNum (fy j)) (fun j => if nan j then nv else 0) ∧
      does (.vcmpLe d a b k e) (fun j => !nan j && ((fx j).ltNum (fy j) || (fx j).eqNum (fy j)))
        (fun j => if nan j then nv else 0))

/-- R126 to R129: VSEL, VMOVV, VIOTA, VPERM and VCOMPRESS move lanes and raise no flag. R134, R135: the mask instructions and the moves
between general, vector and mask registers. -/
def Obligations.LaneAndMaskMoves : Prop :=
  (∀ (s : State) (d a b : BitVec 4) (k e : BitVec 3) (e1 : BitVec 1), e.toNat < 7 →
    let w := laneW e.toNat
    let n := 512 / w
    let w1 := laneW (2 + e1.toNat)
    let on := (s.b.kreg k.toNat).getLsbD
    let x := elem (s.b.vreg a.toNat) w
    let y := elem (s.b.vreg b.toNat) w
    let active := ((List.range n).filter on).map x
    (s.ready [.v a.toNat, .v b.toNat] [.v d.toNat] = true →
      SetsLanes (.vsel d a b k e) s d e.toNat (fun j => if on j then x j else y j) ∧
      SetsLanes (.vperm d a b e) s d e.toNat (fun j => if y j < n then x (y j) else 0)) ∧
    (s.ready [.v a.toNat] [.v d.toNat] = true →
      (∃ v, SetsV (.vmovv d a k e) s d v (s.full k e.toNat) 0 ∧
        ∀ j, j < n → elem v w j = if on j then x j else elem (s.b.vreg d.toNat) w j) ∧
      SetsLanes (.vcompress d a k e) s d e.toNat (fun j => active.getD j 0)) ∧
    (s.ready [] [.v d.toNat] = true →
      ∃ v, SetsV (.viota d k e1) s d v (s.full k (2 + e1.toNat)) 0 ∧
        ∀ j, j < 512 / w1 → elem v w1 j = if on j then (List.range j).countP on else elem (s.b.vreg d.toNat) w1 j)) ∧
  (∀ (s : State),
    (∀ d a b : BitVec 3, s.ready [] [] = true →
      SetsK (.kand d a b) s d (s.b.kreg a.toNat &&& s.b.kreg b.toNat) 0 ∧
      SetsK (.kor d a b) s d (s.b.kreg a.toNat ||| s.b.kreg b.toNat) 0 ∧
      SetsK (.knot d a) s d (~~~s.b.kreg a.toNat) 0 ∧
      SetsK (.kmov d a) s d (s.b.kreg a.toNat) 0) ∧
    (∀ (d : BitVec 4) (a : BitVec 5), s.ready [.g a.toNat] [.v d.toNat] = true →
      SetsLanes (.vbcast d a 0) s d 2 (fun _ => (s.b.gpr a.toNat).toNat % 2 ^ 32) ∧
      SetsLanes (.vbcast d a 1) s d 3 (fun _ => (s.b.gpr a.toNat).toNat)) ∧
    (∀ (d : BitVec 5) (a l : BitVec 4), s.ready [.v a.toNat] [.g d.toNat] = true →
      SetsG (.vmovg d a l 0) s d (((s.b.vreg a.toNat).extractLsb' (32 * l.toNat) 32).setWidth 64) 4 ∧
      (l.toNat < 8 → SetsG (.vmovg d a l 1) s d ((s.b.vreg a.toNat).extractLsb' (64 * l.toNat) 64) 4)) ∧
    (∀ (d : BitVec 3) (a : BitVec 5), s.ready [.g a.toNat] [] = true →
      SetsK (.kmovKg d a) s d ((s.b.gpr a.toNat).setWidth 16) 0) ∧
    (∀ (d : BitVec 5) (a : BitVec 3), s.ready [] [.g d.toNat] = true →
      SetsG (.kmovGk d a) s d ((s.b.kreg a.toNat).setWidth 64) 4))

/-- R131 with R57: an integer VRED folds the active lanes into lane 0 from the value that stands for no active lane, and zeroes every
other lane; a floating-point one takes the pairwise tree, and its flags are merged. R132: VSCAN puts into each active lane the
combination, in order, of the active lanes up to it. -/
def Obligations.VectorReductionsAndScans : Prop :=
  (∀ (s : State) (d a : BitVec 4) (k : BitVec 3) (e : BitVec 1), s.ready [.v a.toNat] [.v d.toNat] = true →
    let w := laneW (2 + e.toNat)
    let on := (s.b.kreg k.toNat).getLsbD
    let active := ((List.range (512 / w)).filter on).map (elem (s.b.vreg a.toNat) w)
    let lanes := (List.range 16).map fun j => if on j then some (elem (s.b.vreg a.toNat) 32 j) else none
    let int (i : Instr) (op : Nat → Nat → Nat) (z : Nat) : Prop := SetsV i s d (BitVec.ofNat 512 (active.foldl op z)) true 0
    let fp (i : Instr) (op : RedOp) (z : Nat) : Prop :=
      let r := redTree op 32 (rmOf s.b.vrm) lanes
      SetsV i s d (BitVec.ofNat 512 (r.1.getD z)) true r.2
    int (.vredAdd d a k e) (fun x y => (x + y) % 2 ^ w) 0 ∧
    int (.vredMin d a k e) (fun x y => if sx w x ≤ sx w y then x else y) (2 ^ (w - 1) - 1) ∧
    int (.vredMax d a k e) (fun x y => if sx w x ≥ sx w y then x else y) (2 ^ (w - 1)) ∧
    int (.vredMinu d a k e) Nat.min (2 ^ w - 1) ∧
    int (.vredMaxu d a k e) Nat.max 0 ∧
    int (.vredAnd d a k e) (· &&& ·) (2 ^ w - 1) ∧
    int (.vredOr d a k e) (· ||| ·) 0 ∧
    int (.vredXor d a k e) (· ^^^ ·) 0 ∧
    fp (.vredFadd d a k) .fadd 0 ∧
    fp (.vredFmin d a k) .fmin 0x7fc00000 ∧
    fp (.vredFmax d a k) .fmax 0x7fc00000) ∧
  (∀ (s : State) (d a : BitVec 4) (k : BitVec 3) (e : BitVec 1), s.ready [.v a.toNat] [.v d.toNat] = true →
    let on := (s.b.kreg k.toNat).getLsbD
    let does (i : Instr) (ty : Nat) (op : Nat → Nat → Nat) (fl : Nat) : Prop :=
      let w := laneW ty
      let x := elem (s.b.vreg a.toNat) w
      ∃ v, SetsV i s d v (s.full k ty) fl ∧ ∀ j, j < 512 / w →
        elem v w j = if on j then
            (match ((List.range (j + 1)).filter on).map x with
            | [] => 0
            | y :: l => l.foldl op y)
          else elem (s.b.vreg d.toNat) w j
    let w := laneW (2 + e.toNat)
    let fp (op : RedOp) : Nat × Nat → Nat := fun p => (redOp op 32 (rmOf s.b.vrm) p.1 p.2).1
    let ff (op : RedOp) : Nat :=
      (scanList op 32 (rmOf s.b.vrm) none
        ((List.range 16).map fun j => if on j then some (elem (s.b.vreg a.toNat) 32 j) else none)).2
    does (.vscanAdd d a k e) (2 + e.toNat) (fun x y => (x + y) % 2 ^ w) 0 ∧
    does (.vscanMin d a k e) (2 + e.toNat) (fun x y => if sx w x ≤ sx w y then x else y) 0 ∧
    does (.vscanMax d a k e) (2 + e.toNat) (fun x y => if sx w x ≥ sx w y then x else y) 0 ∧
    does (.vscanMinu d a k e) (2 + e.toNat) Nat.min 0 ∧
    does (.vscanMaxu d a k e) (2 + e.toNat) Nat.max 0 ∧
    does (.vscanAnd d a k e) (2 + e.toNat) (· &&& ·) 0 ∧
    does (.vscanOr d a k e) (2 + e.toNat) (· ||| ·) 0 ∧
    does (.vscanXor d a k e) (2 + e.toNat) (· ^^^ ·) 0 ∧
    does (.vscanFadd d a k) 4 (fun x y => fp .fadd (x, y)) (ff .fadd) ∧
    does (.vscanFmin d a k) 4 (fun x y => fp .fmin (x, y)) (ff .fmin) ∧
    does (.vscanFmax d a k) 4 (fun x y => fp .fmax (x, y)) (ff .fmax))

/-- R133: VCVT converts the first 512 / max(sw, dw) elements in the active lanes of the destination's view, zeroes the elements
above them, keeps the inactive lanes, and merges the flags of the elements it converted. -/
def Obligations.VectorConversion : Prop :=
  ∀ (s : State) (d a src : BitVec 4) (k r : BitVec 3) (dst : BitVec 4), cvtType src = true → cvtType dst = true →
    r.toNat < 6 → s.ready [.v a.toNat] [.v d.toNat] = true →
    let sw := typeWidth src.toNat
    let dw := typeWidth dst.toNat
    let n := 512 / max sw dw
    let on := fun j => (s.b.kreg k.toNat).getLsbD (j * dw / laneW dst.toNat)
    let c := fun j => convertT src.toNat dst.toNat (rmOf r.toNat) false (elem (s.b.vreg a.toNat) sw j)
    ∃ v, SetsV (.vcvt d a src k r dst) s d v (s.full k dst.toNat) (flagsOf n on fun j => (c j).2) ∧
      ∀ j, j < 512 / dw → elem v dw j =
        if on j then (if j < n then (c j).1 % 2 ^ dw else 0) else elem (s.b.vreg d.toNat) dw j

/-! ### Control -/

/-- R136, R137: a branch goes to PC + sext(off16) × 4 when its comparison of the whole registers holds, and to PC + 4 otherwise. R139,
R140: jumps, with lr or g[d] set to PC + 4 after g[a] is read; a register target with bit 1 or 0 set takes exception 0x02 with EADDR the
target, and nothing is written. -/
def Obligations.BranchesAndJumps : Prop :=
  (∀ (s : State) (a b : BitVec 5) (o : BitVec 16), s.ready [.g a.toNat, .g b.toNat] [] = true →
    let x := s.b.gpr a.toNat
    let y := s.b.gpr b.toNat
    let go (c : Bool) : Word := if c then s.b.pc + BitVec.ofInt 64 (o.toInt * 4) else s.b.pc + 4
    Jumps (.beq a b o) s (go (decide (x = y))) ∧
    Jumps (.bne a b o) s (go (decide (x ≠ y))) ∧
    Jumps (.blt a b o) s (go (decide (x.toInt < y.toInt))) ∧
    Jumps (.bge a b o) s (go (decide (y.toInt ≤ x.toInt))) ∧
    Jumps (.bltu a b o) s (go (decide (x.toNat < y.toNat))) ∧
    Jumps (.bgeu a b o) s (go (decide (y.toNat ≤ x.toNat)))) ∧
  (∀ (s : State) (d a : BitVec 5) (o : BitVec 26),
    let rel := s.b.pc + BitVec.ofInt 64 (o.toInt * 4)
    let x := s.b.gpr a.toNat
    let links (i : Instr) (r : Nat) (pc : Word) : Prop :=
      ∃ t, exec i s = .next t ∧ t.b.pc = pc ∧ t.b.gpr r = (if r = 0 then 0 else s.b.pc + 4) ∧ t.b.mark (.g r) = none ∧
        t.b.stat = s.b.stat ∧ Kept s t [r] [] []
    Jumps .nop s (s.b.pc + 4) ∧
    Jumps (.j o) s rel ∧
    (s.ready [] [.g 31] = true → links (.jal o) 31 rel) ∧
    (s.ready [.g a.toNat] [] = true → x.toNat % 4 = 0 → Jumps (.jr a) s x) ∧
    (s.ready [.g a.toNat] [.g d.toNat] = true → x.toNat % 4 = 0 → links (.jalr d a) d.toNat x) ∧
    (s.ready [.g a.toNat] [.g d.toNat] = true → x.toNat % 4 ≠ 0 → s.enters = true →
      Enters (.jr a) s 2 0 x.toNat s.b.pc ∧ Enters (.jalr d a) s 2 0 x.toNat s.b.pc))

/-- R157, R154: TRAP and SYSC enter the handler with EPC the next instruction and EINFO the code. R155: in privileged mode on a thread
slot they are not entered: the bank stops at the instruction, with its registers and its exception registers as they were; where FAULTQ
names no queue nothing else changes. -/
def Obligations.TrapsAndPrivilege : Prop :=
  ∀ (s : State) (i : BitVec 8),
    (s.enters = true →
      Enters (.trap i) s 0x0e i.toNat 0 (s.b.pc + 4) ∧ Enters (.sysc i) s 0x0f i.toNat 0 (s.b.pc + 4)) ∧
    (s.cur < 4096 → s.b.priv = true → Stops (.trap i) s ∧ Stops (.sysc i) s)

/-- R158: ERET sets PC to EPC with bits 1:0 zero and, on a thread slot, MODE to 0; in user mode it takes exception 0x01, PRIV. -/
def Obligations.ReturnFromException : Prop :=
  ∀ s : State,
    (s.b.priv = true → ∃ t, exec .eret s = .next t ∧ t.b.pc = s.b.epc &&& ~~~3 ∧
      t.b.stat = (if s.cur < 4096 then s.b.stat &&& ~~~1 else s.b.stat) ∧ Kept s t [] [] []) ∧
    (s.b.priv = false → s.enters = true → Enters .eret s 1 4 0 s.b.pc)

/-- R106, R182: an instruction that reads or writes an awaited register waits, with nothing but its own clock changed; one that
reads a marked register takes exception 0x06 with the register, the REASON and the load's address. Said of ADD. Of two marked sources the
one of the lower operand field is reported, and KIND in EINFO is 0: both are the model's reading (assumptions 14 and 46). -/
def Obligations.AwaitedAndMarked : Prop :=
  ∀ (s : State) (d a b : BitVec 5),
    ((s.awaits (.g d.toNat) || s.awaits (.g a.toNat) || s.awaits (.g b.toNat)) = true →
      ∃ t, exec (.add d a b) s = .next t ∧ { t.b with waited := s.b.waited } = s.b ∧ SameOutside s t) ∧
    ((s.awaits (.g d.toNat) || s.awaits (.g a.toNat) || s.awaits (.g b.toNat)) = false → s.enters = true →
      (∀ m, s.b.mark (.g a.toNat) = some m →
        Enters (.add d a b) s 6 (a.toNat * 2 ^ 12 + m.reason * 2 ^ 9) m.va.toNat s.b.pc) ∧
      (∀ m, s.b.mark (.g a.toNat) = none → s.b.mark (.g b.toNat) = some m →
        Enters (.add d a b) s 6 (b.toNat * 2 ^ 12 + m.reason * 2 ^ 9) m.va.toNat s.b.pc))

/-! ### Control registers -/

/-- R92, R159: CSRR and CSRX return the control register. In user mode the privileged registers, and a write of EPC to EADDR, take
exception 0x01 with PRIV; an unassigned index takes FIELD. R92, R159: what a control register reads after CSRW or CSRX wrote `v` to it,
by its map; every other control register reads as before, and the general, vector and mask registers and the other banks are as they were;
so is memory where no update is pending (a write of XTAB reads the table, which applies what is pending for it). -/
def Obligations.ControlRegisters : Prop :=
  (∀ (s : State) (d a : BitVec 5) (i : BitVec 8),
    let user (w : Bool) : Bool := decide (i.toNat < 0x40) && !(w && 1 ≤ i.toNat && i.toNat ≤ 4)
    (csrAssigned i = true → (s.b.priv || user false) = true → s.ready [] [.g d.toNat] = true →
      SetsG (.csrr d i) s d (s.csrRead i.toNat) 4) ∧
    (csrAssigned i = true → (s.b.priv || user true) = true → s.ready [.g a.toNat] [.g d.toNat] = true →
      ∃ t, exec (.csrx d a i) s = .next t ∧ t.b.gpr d.toNat = (if d = 0 then 0 else s.csrRead i.toNat) ∧
        t.b.pc = s.b.pc + 4) ∧
    (csrAssigned i = true → s.b.priv = false → user false = false → s.enters = true → Enters (.csrr d i) s 1 4 0 s.b.pc) ∧
    (csrAssigned i = true → s.b.priv = false → user true = false → s.enters = true →
      Enters (.csrw a i) s 1 4 0 s.b.pc ∧ Enters (.csrx d a i) s 1 4 0 s.b.pc) ∧
    (csrAssigned i = false → s.enters = true →
      Enters (.csrr d i) s 1 2 0 s.b.pc ∧ Enters (.csrw a i) s 1 2 0 s.b.pc ∧ Enters (.csrx d a i) s 1 2 0 s.b.pc)) ∧
  (∀ (s : State) (d a : BitVec 5) (i : BitVec 8), csrAssigned i = true → (s.b.priv || csrUser i.toNat true) = true →
    s.ready [.g a.toNat] [.g d.toNat] = true →
    let v := s.b.gpr a.toNat
    let old := s.csrRead i.toNat
    let new : Word :=
      if i = 0x00 then
        (old &&& ~~~0xff00) ||| (v &&& 0x1f00) ||| (if (v >>> 13 &&& 7).toNat < 6 then v &&& 0xe000 else old &&& 0xe000)
      else if i = 0x02 then v &&& 0xff
      else if i = 0x05 ∨ i = 0x45 then old
      else if i = 0x06 then v &&& 0xff03
      else if i = 0x40 then v &&& 0x3fffffffff0001
      else if i = 0x41 then v &&& 0xfff
      else if i = 0x42 then v &&& 0x3ffffffffff87f
      else if i = 0x43 then v &&& 0x3fffffffffff81
      else if i = 0x44 then v &&& 0x3fffffffffffc1
      else v
    let wrote (t : State) : Prop :=
      t.csrRead i.toNat = new ∧ (∀ j, j ≠ i.toNat → t.csrRead j = s.csrRead j) ∧ t.b.pc = s.b.pc + 4 ∧
        (∀ n, t.b.vreg n = s.b.vreg n) ∧ (∀ n, t.b.kreg n = s.b.kreg n) ∧ (∀ r, r ≠ s.cur → t.bank r = s.bank r) ∧
        (s.settled → ∀ x, t.byte x = s.byte x)
    (∃ t, exec (.csrw a i) s = .next t ∧ wrote t ∧ ∀ n, t.b.gpr n = s.b.gpr n) ∧
    (∃ t, exec (.csrx d a i) s = .next t ∧ wrote t ∧ t.b.gpr d.toNat = (if d = 0 then 0 else old) ∧
      ∀ n, n ≠ d.toNat → t.b.gpr n = s.b.gpr n))

/-! ### Suspension points -/

/-- R143, R145 to R148: at a suspension point with nothing to wait for, SUSP, WAKEAT and SPAWN write the continuation back, place it and
free the bank, and EXIT frees the record and the bank. SPAWN makes its child in a free record, the lowest-numbered (assumption 59), and
places the child first and then the parent, each at the tail of its run queue; one that finds no free record leaves its continuation
waiting in its group. R151: a continuation of a held group is held, with what it waits for, and joins no run queue. The
bytes of a live record are undefined (R144); the rest of memory is as it was where no update is pending. R149: SUSP, SPAWN, EXIT and WAKEAT
on a service core take exception 0x01 with FUNC; a SPAWN in privileged mode on a thread slot meets PRIV, and so the slot stops (R155). -/
def Obligations.SuspensionPoints : Prop :=
  (∀ (s : State) (a : BitVec 5) (u : BitVec 1) (c : Nat), s.suspends c = true →
    let x := s.b.gpr a.toNat
    let gr := s.group (contGroup c)
    let quiet (t : State) : Prop := s.settled → ∀ y, ¬ s.inRecord c y → t.byte y = s.byte y
    (∃ t, exec .susp s = .next t ∧ WrittenBack s t c ∧ Queued s t c ∧ quiet t) ∧
    (s.ready [.g a.toNat] [] = true →
      ∃ t, exec (.wakeat a) s = .next t ∧ WrittenBack s t c ∧ quiet t ∧
        (x.toNat ≤ s.time → Queued s t c) ∧
        (s.time < x.toNat → (t.cont c).st = .waiting ∧ (t.cont c).place = .time x.toNat ∧ t.runqs = s.runqs)) ∧
    (∃ t, exec .exit s = .next t ∧ t.bank s.cur = { threadReset with seq := s.b.seq } ∧
      (∀ r, r ≠ s.cur → t.bank r = s.bank r) ∧ (gr.spawnq = [] → t.cont c = {} ∧ t.runqs = s.runqs ∧ quiet t)) ∧
    (s.ready [.g a.toNat] [] = true → s.b.priv = false → x.toNat % 4 = 0 → gr.recs ≤ 2 ^ 16 →
      (∀ i, s.freeRecord (contGroup c) = some i →
        let e := contId (contGroup c) i
        ∃ t, exec (.spawn a u) s = .next t ∧ WrittenBack s t c ∧ (t.cont c).st = .ready ∧
          t.cont e = { st := .ready, pc := x, vrm := s.b.vrm, ub := u == 1,
                       g := (List.range 6).map fun i => s.b.gpr (i + 1) } ∧
          (∀ q, Tab.get [] t.runqs q = Tab.get [] s.runqs q ++ (if q = s.runQueue c (u == 1) then [e] else []) ++
            if q = s.ownQueue c then [c] else []) ∧
          (s.settled → ∀ y, ¬ s.inRecord c y → ¬ s.inRecord e y → t.byte y = s.byte y)) ∧
      (s.freeRecord (contGroup c) = none →
        (∃ d ∈ s.liveConts (contGroup c), d ≠ c ∧ (s.cont d).st ≠ .spawnWait) →
        ∃ t, exec (.spawn a u) s = .next t ∧ WrittenBack s t c ∧
          (t.cont c).st = .spawnWait ∧ (t.cont c).place = .spawn x (u == 1) ∧ t.runqs = s.runqs ∧
            (t.group (contGroup c)).spawnq = gr.spawnq ++ [c] ∧ quiet t)) ∧
    (s.ready [.g a.toNat] [] = true → s.b.priv = false → x.toNat % 4 ≠ 0 → s.enters = true →
      Enters (.spawn a u) s 2 0 x.toNat s.b.pc)) ∧
  (∀ (s : State) (a : BitVec 5) (u : BitVec 1) (c : Nat), s.atSuspension c = true → (s.group (contGroup c)).holds = true →
    let x := s.b.gpr a.toNat
    let gr := s.group (contGroup c)
    let held (t : State) (k : Nat) (p : Place) : Prop := (t.cont k).st = .held ∧ (t.cont k).place = p ∧ t.runqs = s.runqs
    (∃ t, exec .susp s = .next t ∧ WrittenBack s t c ∧ held t c .runq) ∧
    (s.ready [.g a.toNat] [] = true →
      (∃ t, exec (.wakeat a) s = .next t ∧ WrittenBack s t c ∧
        held t c (if x.toNat ≤ s.time then .runq else .time x.toNat)) ∧
      ∀ i, s.b.priv = false → x.toNat % 4 = 0 → gr.recs ≤ 2 ^ 16 → s.freeRecord (contGroup c) = some i →
        ∃ t, exec (.spawn a u) s = .next t ∧ WrittenBack s t c ∧ held t c .runq ∧ held t (contId (contGroup c) i) .runq)) ∧
  (∀ (s : State) (a : BitVec 5) (u : BitVec 1), s.cur < 4096 → s.b.priv = true → Stops (.spawn a u) s) ∧
  (∀ (s : State) (a : BitVec 5) (u : BitVec 1), isSvc s.cur = true → s.loadsDone s.cur = true →
    Enters .susp s 1 1 0 s.b.pc ∧ Enters (.spawn a u) s 1 1 0 s.b.pc ∧ Enters .exit s 1 1 0 s.b.pc ∧
      Enters (.wakeat a) s 1 1 0 s.b.pc)

/-- R373, R150, R371: with nothing outstanding, SEMW places its continuation when the count meets the threshold and otherwise appends it
to the waiter list; a service core goes on or stops; an index outside the window takes exception 0x04. R380, R150: BARW on an object that
is not armed completes at once; on an armed one it joins the waiter list with the phase and the timer of the object. `v` is the state
after the walk and the read. -/
def Obligations.SemaphoreAndBarrierWaits : Prop :=
  (∀ (s : State) (a b : BitVec 5) (c n : Nat), s.clear = true → s.ready [.g a.toNat, .g b.toNat] [] = true →
    let thr := (s.b.gpr b.toNat).toNat % 2 ^ 32
    let q := s.sem n
    (s.semIndex (s.b.gpr a.toNat) = some n → s.suspends c = true →
      ∃ t, exec (.semw a b) s = .next t ∧ WrittenBack s t c ∧
        (s.settled → ∀ y, ¬ s.inRecord c y → t.byte y = s.byte y) ∧
        (thr ≤ q.count → Queued s t c ∧ t.sem n = q) ∧
        (q.count < thr → (t.cont c).st = .waiting ∧ t.runqs = s.runqs ∧
          t.sem n = { q with waiters := q.waiters ++ [{ who := .cont c, thr := thr }] })) ∧
    (s.semIndex (s.b.gpr a.toNat) = some n → isSvc s.cur = true →
      ∃ t, exec (.semw a b) s = .next t ∧ t.b.g = s.b.g ∧ (∀ y, t.byte y = s.byte y) ∧
        (thr ≤ q.count → t.b.pc = s.b.pc + 4 ∧ t.sem n = q) ∧
        (q.count < thr → t.b.pc = s.b.pc ∧ t.b.susp = some (.semw n thr) ∧
          t.sem n = { q with waiters := q.waiters ++ [{ who := .svc (s.cur - 4096), thr := thr }] })) ∧
    (s.semIndex (s.b.gpr a.toNat) = none → s.enters = true →
      Enters (.semw a b) s 4 0 (s.b.gpr a.toNat).toNat s.b.pc)) ∧
  (∀ (s u v : State) (a : BitVec 5) (c pa key kind w : Nat), s.clear = true → s.ready [.g a.toNat] [] = true →
    let x := (s.b.gpr a.toNat).toNat
    let cl := clusterOf s.cur
    let k := cellKey cl (paLocal pa)
    s.access (.bar false) x 16 0 = (.ok pa key kind, u) → u.readAt cl pa 16 (some (coreOf s.cur)) = (w, none, v) →
    (s.suspends c = true → v.settled →
      ∃ t, exec (.barw a) s = .next t ∧ WrittenBack s t c ∧ (∀ y, ¬ s.inRecord c y → t.byte y = v.byte y) ∧
        let o := barOf (t.num k 16)
        (o.armed = false → Queued s t c) ∧
        (o.armed = true → (t.cont c).st = .waiting ∧ t.runqs = s.runqs ∧ ∃ y, Tab.get [] t.bars k = Tab.get [] s.bars k ++ [y] ∧
          y.who = .cont c ∧ y.phase = o.phase ∧ y.va = x ∧
            y.expiry = s.time + (if o.tmo = 0 then 10000 else o.tmo) * 1000)) ∧
    (isSvc s.cur = true →
      let o := barOf w
      ∃ t, exec (.barw a) s = .next t ∧ t.b.g = s.b.g ∧ (∀ y, t.byte y = v.byte y) ∧
        (o.armed = false → t.b.pc = s.b.pc + 4 ∧ t.bars = s.bars) ∧
        (o.armed = true → t.b.pc = s.b.pc ∧ t.b.susp = some (.barw x pa) ∧ (∀ m, m ≠ k → Tab.get [] t.bars m = Tab.get [] s.bars m) ∧
          ∃ y, Tab.get [] t.bars k = Tab.get [] s.bars k ++ [y] ∧ y.who = .svc (s.cur - 4096) ∧ y.phase = o.phase ∧ y.va = x ∧
            y.epc = s.b.pc ∧ y.expiry = s.time + (if o.tmo = 0 then 10000 else o.tmo) * 1000)))

/-! ### Memory instructions -/

/-- R6, R181, R182: a read of plain memory returns its bytes, the lowest address in the lowest bits, with the poison found there; what
caches hold and with it what leaves them may change, and an error that the read finds is recorded and counted, but nothing else does. An
access whose address an extent translates changes nothing by being checked (R388, R394). -/
def Obligations.PlainReads : Prop :=
  ∀ (s : State) (cl pa n : Nat), s.plain pa = true → 0 < n → paLocal pa % 64 + n ≤ 64 →
    let k := cellKey cl (paLocal pa)
    (∀ core cnt, ∃ t, s.readAt cl pa n core cnt = (s.num k n, s.poisonAt k n, t) ∧ AfterReads [k / 64] s t) ∧
    s.num k n < 256 ^ n ∧
    (∀ i, i < n → BitVec.ofNat 8 (s.num k n / 256 ^ i) = s.byte (k + i)) ∧
    ∀ (c : Cls) (va lane e : Nat) (l : List Nat), va < 2 ^ 55 → (s.ctxOf s.cur).exts = some l → findExt l va = some e →
      (s.access c va n lane).2 = s

/-- R208, R212, R214, R217, R74: LD, LDRC, LDV and their XM forms complete, and write what a read of the addressed bytes returns, extended
as they say, with the mark of poisoned data; a load that the turn puts off awaits its register; a remote one sends a read. A load for which
the turn may take what its thread has read ahead (08_ordering R195) completes; what it returns then is not said here. That a turn may put
an access off, or take what was read ahead, is the model's form of the orders that chapter 8 allows (assumptions 1 and 7). -/
def Obligations.Loads : Prop :=
  ∀ (s : State) (d b : BitVec 5) (v : BitVec 4) (z : BitVec 2) (x o : BitVec 1) (c o2 : BitVec 2) (m : BitVec 4)
    (f : BitVec 9) (lit : BitVec 32), s.clear = true → s.ready [.g b.toNat] [] = true →
    let n := 2 ^ z.toNat
    let base := s.b.gpr b.toNat
    let off (k : Nat) : Word := base + BitVec.ofInt 64 (f.toInt * k)
    let far : Word := base + lit.signExtend 64
    let val (r : Nat) : Word :=
      if x = 1 then BitVec.ofInt 64 (BitVec.ofNat (8 * n) r).toInt else BitVec.ofNat 64 (r % 2 ^ (8 * n))
    let loads (i : Instr) (va : Word) (len n : Nat) (cls : Cls) (dst : Dst) (acq : Bool) (cnt : Option Nat)
        (got : State → Nat → Option Nat → State → Prop) : Prop :=
      ∀ (u : State) (pa key kind : Nat), s.access cls va.toNat n 0 = (.ok pa key kind, u) →
        let scope := if acq then s.scopeAt c pa else 0
        let cnt' := if kind = 0 then cnt else none
        (u.own pa = true → ∀ (r : Nat) (p : Option Nat) (w : State),
          u.readAt (clusterOf s.cur) pa n (some (coreOf s.cur)) cnt' = (r, p, w) →
            ∃ t, exec i s = .next t ∧ t.b.pc = s.b.pc + BitVec.ofNat 64 len ∧
              (scope ≠ 0 ∨ s.late = false ∧ bitAt s.choice 3 = false → got w r p t) ∧
              (scope = 0 → s.late = true →
                t.b.reqs = [{ dst := some dst, va := va, pa := pa, size := n, data := 0, key := key,
                              cluster := clusterOf s.cur, epoch := s.b.epoch, hard := s.b.hard, cnt := cnt', tc := s.tcOf s.cur,
                              ctx := s.b.ctxkey.toNat % 4096, ver := (s.tagOf key).ver }] ∧
                ∀ y, t.byte y = u.byte y)) ∧
        (u.own pa = false → SendsRemote i s u
          { who := s.cur, kind := cls.kind, pkg := paPkg pa, va := va.toNat, lines := [paLocal pa / 64], dsts := [dst],
            body := .read (paLocal pa) n, acq := acq && c == 2 } len)
    let gotG (va : Word) (w : State) (r : Nat) (p : Option Nat) (t : State) : Prop :=
      t.b.gpr d.toNat = (if d = 0 then 0 else val r) ∧
        t.b.mark (.g d.toNat) = (if d = 0 then none else p.map fun q => { reason := q, va := va }) ∧ KeptM w t [d.toNat] []
    let gotV (va : Word) (w : State) (r : Nat) (p : Option Nat) (t : State) : Prop :=
      t.b.vreg v.toNat = BitVec.ofNat 512 r ∧
        t.b.mark (.v v.toNat) = (p.map fun q => { reason := q, va := va }) ∧ KeptM w t [] [v.toNat]
    (s.ready [] [.g d.toNat] = true →
      loads (.ld d b z x o c f) (off n) 4 n .ld (.g d.toNat n (x == 1)) (o == 1) none (gotG (off n)) ∧
      loads (.xm .ld d b z x o2 c lit) far 8 n .ld (.g d.toNat n (x == 1)) (o2 == 1) none (gotG far) ∧
      loads (.ldrc d b z x m f) (off n) 4 n .ldrc (.g d.toNat n (x == 1)) false (some (m.toNat + 1)) (gotG (off n)) ∧
      loads (.xm .ldrc d b z x o2 c lit) far 8 n .ldrc (.g d.toNat n (x == 1)) false (some ((o2 ++ c).toNat + 1)) (gotG far)) ∧
    (s.ready [] [.v v.toNat] = true →
      loads (.ldv v b o c f) (off 64) 4 64 .ldv (.v v.toNat) (o == 1) none (gotV (off 64)) ∧
      loads (.xm .ldv (v.setWidth 5) b z x o2 c lit) far 8 64 .ldv (.v v.toNat) (o2 == 1) none (gotV far))

/-- R213, R214, R208, R74: ST, STV and their XM forms store the low bytes of the register at the address and nothing else; a store that
the turn puts off waits in the store buffer; one to device space gives its register the bytes (R170); a remote one sends a serial-class
write (R256, R261). That a turn may put a store off is the model's form of the orders that chapter 8 allows (assumptions 1 and 7). -/
def Obligations.Stores : Prop :=
  ∀ (s : State) (r b : BitVec 5) (v : BitVec 4) (z : BitVec 2) (x o : BitVec 1) (c o2 : BitVec 2)
    (f : BitVec 9) (lit : BitVec 32), s.clear = true → s.ready [.g b.toNat] [] = true →
    let n := 2 ^ z.toNat
    let base := s.b.gpr b.toNat
    let off (k : Nat) : Word := base + BitVec.ofInt 64 (f.toInt * k)
    let far : Word := base + lit.signExtend 64
    let stores (i : Instr) (va : Word) (len n : Nat) (cls : Cls) (val : Nat) (rel : Bool) : Prop :=
      ∀ (u : State) (pa key kind : Nat), s.access cls va.toNat n 0 = (.ok pa key kind, u) →
        let a := paLocal pa
        let cl := clusterOf s.cur
        (u.own pa = true → s.late = false → isDevice a = false →
          ∃ t, exec i s = .next t ∧ KeepsRegs s t len ∧ Stored ((u.hostFill (a / 64)).applyAt a n) t (cellKey cl a) n val) ∧
        (u.own pa = true → s.late = false → isDevice a = true →
          let w := u.writeAt cl pa n (val % 2 ^ (8 * n)) key (.core (coreOf s.cur))
          ∃ t, exec i s = .next t ∧ t.b.pc = w.b.pc + BitVec.ofNat 64 len ∧ t.b.g = w.b.g ∧ t.b.v = w.b.v ∧
            (∀ q, q ≠ s.cur → t.bank q = w.bank q) ∧ { t with banks := w.banks, svcs := w.svcs, pre := w.pre } = w) ∧
        (u.own pa = true → s.late = true →
          ∃ t, exec i s = .next t ∧ KeepsRegs s t len ∧ (∀ y, t.byte y = u.byte y) ∧
            t.b.reqs = [{ dst := none, va := va, pa := pa, size := n, data := val % 2 ^ (8 * n), key := key,
                          cluster := cl, rel := rel, epoch := s.b.epoch, hard := s.b.hard, tc := s.tcOf s.cur,
                          ctx := s.b.ctxkey.toNat % 4096, ver := (s.tagOf key).ver }]) ∧
        (u.own pa = false → SendsRemote i s u
          { who := s.cur, serial := some (s.chan s.cur).next, kind := cls.kind, pkg := paPkg pa, va := va.toNat,
            lines := [a / 64], body := .write a n (val % 2 ^ (8 * n)) key cls.kind, rel := rel && c == 2 } len)
    (s.ready [.g r.toNat] [] = true →
      let w := (s.b.gpr r.toNat).toNat
      stores (.st r b z o c f) (off n) 4 n .st w (o == 1) ∧
      stores (.xm .st r b z x o2 c lit) far 8 n .st w (o2 == 2)) ∧
    (s.ready [.v v.toNat] [] = true →
      let w := (s.b.vreg v.toNat).toNat
      stores (.stv v b o c f) (off 64) 4 64 .stv w (o == 1) ∧
      stores (.xm .stv (v.setWidth 5) b z x o2 c lit) far 8 64 .stv w (o2 == 2))

/-- R209, R179: the first failing check of an access decides: a misaligned LD, ST, LDV or STV takes exception 0x02 with KIND and the address,
before anything is read or written. -/
def Obligations.MisalignedAccess : Prop :=
  ∀ (s : State) (r b : BitVec 5) (v : BitVec 4) (z : BitVec 2) (x o : BitVec 1) (c : BitVec 2) (f : BitVec 9),
    s.clear = true → s.enters = true →
    let off (k : Nat) : Word := s.b.gpr b.toNat + BitVec.ofInt 64 (f.toInt * k)
    let n := 2 ^ z.toNat
    (s.ready [.g b.toNat] [.g r.toNat] = true → (off n).toNat % n ≠ 0 →
      Enters (.ld r b z x o c f) s 2 0 (off n).toNat s.b.pc) ∧
    (s.ready [.g r.toNat, .g b.toNat] [] = true → (off n).toNat % n ≠ 0 →
      Enters (.st r b z o c f) s 2 2 (off n).toNat s.b.pc) ∧
    (s.ready [.g b.toNat] [.v v.toNat] = true → (off 64).toNat % 64 ≠ 0 →
      Enters (.ldv v b o c f) s 2 4 (off 64).toNat s.b.pc) ∧
    (s.ready [.v v.toNat, .g b.toNat] [] = true → (off 64).toNat % 64 ≠ 0 →
      Enters (.stv v b o c f) s 2 4 (off 64).toNat s.b.pc)

/-- R220: CAS, SWAP and FADD read the word, write it as they say unless it is poisoned, and return the old value; at another package
they send one serial-class operation (R256, R261). -/
def Obligations.ReadModifyWrites : Prop :=
  ∀ (s : State) (d b r : BitVec 5) (z : BitVec 1) (o c : BitVec 2), s.clear = true →
    s.ready [.g r.toNat, .g b.toNat] [.g d.toNat] = true →
    let n := if z = 0 then 4 else 8
    let va := (s.b.gpr b.toNat).toNat
    let x := (s.b.gpr d.toNat).toNat % 2 ^ (8 * n)
    let y := (s.b.gpr r.toNat).toNat % 2 ^ (8 * n)
    let does (i : Instr) (new : Nat → Option Nat) (body : Nat → Nat → RemBody) : Prop :=
      ∀ (u : State) (pa key kind : Nat), s.access .rmw va n 0 = (.ok pa key kind, u) →
        let a := paLocal pa
        (u.own pa = true → ∀ (old : Nat) (p : Option Nat) (w : State),
          u.readAt (clusterOf s.cur) pa n (some (coreOf s.cur)) = (old, p, w) →
          ∃ t, exec i s = .next t ∧ t.b.gpr d.toNat = (if d = 0 then 0 else BitVec.ofNat 64 (old % 2 ^ (8 * n))) ∧
            t.b.mark (.g d.toNat) = (if d = 0 then none else p.map fun q => { reason := q, va := BitVec.ofNat 64 va }) ∧
            (∀ j, j ≠ d.toNat → t.b.gpr j = s.b.gpr j) ∧ t.b.stat = s.b.stat ∧ t.b.pc = s.b.pc + 4 ∧
            match p, new old with
            | none, some m => Stored ((w.hostFill (a / 64)).applyAt a n) t (cellKey (clusterOf s.cur) a) n m
            | _, _ => ∀ k, t.byte k = w.byte k) ∧
        (u.own pa = false → SendsRemote i s u
          { who := s.cur, serial := some (s.chan s.cur).next, kind := 5, pkg := paPkg pa, va := va, lines := [a / 64],
            dsts := [.g d.toNat n false], body := body a key, acq := (o == 1 || o == 3) && c == 2,
            rel := (o == 2 || o == 3) && c == 2 } 4)
    (s.b.mark (.g d.toNat) = none →
      does (.cas d b z o c r) (fun old => if old = x then some y else none) (fun a key => .cas a n x y key)) ∧
    does (.swap d b z o c r) (fun _ => some y) (fun a key => .swap a n y key) ∧
    does (.fadd d b z o c r) (fun old => some ((old + y) % 2 ^ (8 * n))) (fun a key => .fadd a n y key)

/-- R215, R216: LDGV reads each active lane at g[B] + index × 2^h and STSV writes each in ascending order, once every lane has passed its
checks; where lanes of STSV name the same bytes the higher lane prevails. Said of lanes in plain memory with no error, and of a turn that
performs accesses at once and takes nothing that was read ahead. `u` is the state after the checks. -/
def Obligations.IndexedAccesses : Prop :=
  ∀ (s u : State) (d a : BitVec 4) (k : BitVec 3) (e : BitVec 1) (h : BitVec 3) (b : BitVec 5) (l : List LaneOp),
    s.clear = true → s.late = false → bitAt s.choice 3 = false → s.ready [.v a.toNat, .g b.toNat] [] = true →
    s.b.busy = none → s.b.todo = [] →
    let w := if e = 0 then 4 else 8
    let n := 64 / w
    let on := fun i => (s.b.kreg k.toNat).getLsbD i
    let va := fun i => (s.b.gpr b.toNat + BitVec.ofNat 64 (elem (s.b.vreg a.toNat) (8 * w) i * 2 ^ h.toNat)).toNat
    let x := s.b.vreg d.toNat
    let key := fun y : LaneOp => cellKey (clusterOf s.cur) (paLocal y.pa)
    (∀ y ∈ l, u.plain y.pa = true) →
    (s.ready [] [.v d.toNat] = true →
      s.checkLanes .ldgv w va (fun _ => 0) ((List.range n).filter on) [] = (.ok l, u) →
      (∀ y ∈ l, u.poisonAt (key y) w = none ∧ (u.line (key y / 64)).err = 0) →
      ∃ t, exec (.ldgv d a k e h b) s = .next t ∧ t.b.pc = s.b.pc + 4 ∧ KeptBank u t [] [d.toNat] ∧
        (∀ r, r ≠ s.cur → t.bank r = u.bank r) ∧
        AfterReads (l.map fun y => key y / 64) u { t with banks := u.banks, svcs := u.svcs, pre := u.pre } ∧
        l.map (·.lane) = (List.range n).filter on ∧
        (∀ y ∈ l, elem (t.b.vreg d.toNat) (8 * w) y.lane = u.num (key y) w) ∧
        (∀ i, i < n → on i = false → elem (t.b.vreg d.toNat) (8 * w) i = elem x (8 * w) i)) ∧
    (s.ready [.v d.toNat] [] = true →
      s.checkLanes .stsv w va (elem x (8 * w)) ((List.range n).filter on) [] = (.ok l, u) →
      let v := u.markLanes .stsv w l
      ∃ t, exec (.stsv d a k e h b) s = .next t ∧ KeepsRegs s t 4 ∧
        (∀ y ∈ l, (∀ z ∈ l, y.lane < z.lane → key z + w ≤ key y ∨ key y + w ≤ key z) →
          ∀ j, j < w → t.byte (key y + j) = BitVec.ofNat 8 (elem x (8 * w) y.lane / 256 ^ j)) ∧
        ∀ m, (∀ y ∈ l, m < key y ∨ key y + w ≤ m) → t.byte m = v.byte m)

/-- R218, R219, R184, R196: PREF changes no register and no value, but what caches hold and what its walk writes; after DISCARD the line
holds what it held or what its backing memory held; a FENCE with nothing outstanding changes PC only. Memory is said of a state in which
no update is pending. -/
def Obligations.CacheAndFence : Prop :=
  ∀ (s : State) (b : BitVec 5) (l x : BitVec 1) (z o o2 c : BitVec 2) (t5 : BitVec 5) (f : BitVec 9) (lit : BitVec 32),
    s.clear = true → s.ready [.g b.toNat] [] = true →
    let fetches (i : Instr) (va : Word) (n : Nat) : Prop :=
      let u := (s.access .ld va.toNat 1 0).2
      ∃ t, exec i s = .next t ∧ KeepsRegs s t n ∧
        ({ t with banks := s.banks, svcs := s.svcs } = s ∨
          AfterReads [] u { t with banks := u.banks, svcs := u.svcs })
    let drops (i : Instr) (va : Word) (n : Nat) : Prop :=
      ∀ (u : State) (pa key kind : Nat), s.access .discard va.toNat 64 0 = (.ok pa key kind, u) → u.settled →
        ∃ t, exec i s = .next t ∧ KeepsRegs s t n ∧
          (∀ y, y / 64 ≠ cellKey (clusterOf s.cur) (paLocal pa) / 64 → t.byte y = u.byte y) ∧
          ((∀ y, t.byte y = u.byte y) ∨
            ∃ g, Tab.get none u.dirty (paLocal pa / 64) = some g ∧
              Stored u t (paLocal pa / 64 * 64) 64 g.bytes.toNat)
    fetches (.pref l b f) (s.b.gpr b.toNat + BitVec.ofInt 64 (f.toInt * 64)) 4 ∧
    fetches (.xm .pref t5 b z x o2 c lit) (s.b.gpr b.toNat + lit.signExtend 64) 8 ∧
    drops (.discard b f) (s.b.gpr b.toNat + BitVec.ofInt 64 (f.toInt * 64)) 4 ∧
    drops (.xm .discard t5 b z x o2 c lit) (s.b.gpr b.toNat + lit.signExtend 64) 8 ∧
    ∃ t, exec (.fence o c) s = .next t ∧ KeepsRegs s t 4 ∧ { t with banks := s.banks, svcs := s.svcs, pre := s.pre } = s

/-! ### Updates -/

/-- R240, R241: UPD and VUPD give their pairs to the Mordant of the block, VUPD one lane after another, and change no register but PC; the
pairs of a UPD to another package join a batch (R254). Said of a turn that performs accesses at once, and of VUPD with every lane in this
package. -/
def Obligations.Updates : Prop :=
  ∀ (s u : State) (r b : BitVec 5) (z : BitVec 1) (f : BitVec 9) (pa key kind : Nat) (x : BitVec 1) (o2 c z2 : BitVec 2)
    (lit : BitVec 32) (d a : BitVec 4) (k e h : BitVec 3) (l : List LaneOp),
    s.clear = true → s.late = false → s.ready [.g b.toNat] [] = true →
    let val := (s.b.gpr r.toNat).toNat
    let upd (i : Instr) (va : Word) (n len : Nat) : Prop :=
      s.access .upd va.toNat n 0 = (.ok pa key kind, u) →
        let keys := updKeys ((u.regionEtype pa).getD 2) (paLocal pa) val
        (u.own pa = true → ∃ t, exec i s = .next t ∧ KeepsRegs s t len ∧
          let v := u.acceptPair { who := s.cur, keys := keys }
          { t with banks := v.banks, svcs := v.svcs, pre := v.pre } = v) ∧
        (u.own pa = false → ∃ t, exec i s = .next t ∧ KeepsRegs s t len ∧ (∀ y, t.byte y = u.byte y) ∧
          ∃ y, t.b.batches = [y] ∧ y.pkg = paPkg pa ∧ y.closed = false ∧ y.pairs = keys)
    (s.ready [.g r.toNat] [] = true →
      upd (.upd r b z f) (s.b.gpr b.toNat + BitVec.ofInt 64 (f.toInt * (if z = 0 then 4 else 8)))
        (if z = 0 then 4 else 8) 4 ∧
      upd (.xm .upd r b z2 x o2 c lit) (s.b.gpr b.toNat + lit.signExtend 64) (2 ^ z2.toNat) 8) ∧
    (let w := if e = 3 then 8 else 4
     let va := fun i => (s.b.gpr b.toNat + BitVec.ofNat 64 (elem (s.b.vreg a.toNat) (8 * w) i * 2 ^ h.toNat)).toNat
     s.ready [.v d.toNat, .v a.toNat] [] = true → s.b.busy = none →
      s.checkLanes (.vupd e.toNat) w va (elem (s.b.vreg d.toNat) (8 * w))
        ((List.range (64 / w)).filter fun i => (s.b.kreg k.toNat).getLsbD i) [] = (.ok l, u) →
      (∀ y ∈ l, u.own y.pa = true) →
      ∃ t, exec (.vupd d a k e h b) s = .next t ∧ KeepsRegs s t 4 ∧
        let v := l.foldl (fun q (y : LaneOp) =>
          q.acceptPair { who := s.cur, keys := updKeys e.toNat (paLocal y.pa) y.data }) (u.markLanes (.vupd e.toNat) w l)
        { t with banks := v.banks, svcs := v.svcs, pre := v.pre } = v)

/-- R242, R249, R250: UFLUSH applies the block of its address, and leaves nothing of it to be applied; no register changes. R238, R243 to
R245, R248: updates with the values vs to one element, accepted one after another, leave memory as it is until the block is applied, and
then the element holds its old value combined with all of them by the operator of its region: for FADD the exact sum rounded once. Said of
an element with nothing else pending in its block, and for FADD of sums that ACC can hold. -/
def Obligations.UpdateApplies : Prop :=
  (∀ (s u : State) (b t5 : BitVec 5) (f : BitVec 9) (x : BitVec 1) (z o2 c : BitVec 2) (lit : BitVec 32) (pa key kind : Nat),
    s.clear = true → s.ready [.g b.toNat] [] = true →
    let flushes (i : Instr) (va : Word) (len : Nat) : Prop :=
      s.access .uflush va.toNat 1 0 = (.ok pa key kind, u) → u.own pa = true → isTier (paLocal pa) = true →
        let blk := paLocal pa / 4096
        ∃ t, exec i s = .next t ∧ KeepsRegs s t len ∧ t.applyBlock blk = t ∧
          let v := u.applyBlock blk
          { t with banks := v.banks, svcs := v.svcs } = v
    flushes (.uflush b f) (s.b.gpr b.toNat + BitVec.ofInt 64 (f.toInt * 64)) 4 ∧
    flushes (.xm .uflush t5 b z x o2 c lit) (s.b.gpr b.toNat + lit.signExtend 64) 8) ∧
  (∀ (s : State) (i pa : Nat) (vs : List Nat), s.regionAt pa = some i → vs ≠ [] →
    let r := s.region i
    let w := updWidth r.etype
    let sl := homeSlice pa
    updRow r.op r.etype = true → pa % (w / 8) = 0 →
    (∀ b ∈ s.binsOf sl, b.block ≠ pa / 4096) → (s.binsOf sl).length < 4096 → (∀ x ∈ Tab.get [] s.logs i, x.2.pa / 4096 ≠ pa / 4096) →
    s.poisonAt pa (w / 8) = none →
    let old := s.num pa (w / 8)
    let all := old :: vs.map (· % 2 ^ w)
    let t := vs.foldl (fun q v => q.acceptKey pa v) s
    let z := t.applyBlock (pa / 4096)
    let leaves (n : Nat) : Prop := Stored s z pa (w / 8) n
    let fm := updFmt r.etype
    let fs := (old :: vs).map fm.decode
    let exact : Fv → Int := fun v => match v with | .fin neg m e => signed neg m * 2 ^ (e + 149).toNat | _ => 0
    let sum := (fs.map exact).sum
    let best (less : Nat → Nat → Bool) (l : List Nat) : Prop := ∃ n ∈ l, leaves n ∧ ∀ m ∈ l, less m n = false
    let nums := all.filter fun n => !(f32.decode n).isNan
    (r.op ≠ 1 → ∀ y, t.byte y = s.byte y) ∧
    (r.op = 2 → leaves ((old + vs.sum) % 2 ^ w)) ∧
    (r.op = 3 → best (fun m n => decide (sx w m < sx w n)) all) ∧
    (r.op = 4 → best (fun m n => decide (sx w n < sx w m)) all) ∧
    (r.op = 5 → best (fun m n => decide (m < n)) all) ∧
    (r.op = 6 → best (fun m n => decide (n < m)) all) ∧
    (r.op = 7 → if nums = [] then leaves f32.nanc else best (fun m n => (f32.decode m).lt (f32.decode n)) nums) ∧
    (r.op = 8 → if nums = [] then leaves f32.nanc else best (fun m n => (f32.decode n).lt (f32.decode m)) nums) ∧
    (r.op = 9 → leaves (vs.foldl (fun m v => m ||| v % 2 ^ w) old)) ∧
    (r.op = 0xa → leaves (vs.foldl (fun m v => m &&& v % 2 ^ w) old)) ∧
    (r.op = 0xb → leaves (vs.foldl (fun m v => m ^^^ v % 2 ^ w) old)) ∧
    (r.op = 0xc → leaves ((old + vs.length) % 2 ^ w)) ∧
    (r.op = 1 →
      (∀ j, -(2 ^ 319 : Int) ≤ ((fs.tail.map exact).take j).sum ∧ ((fs.tail.map exact).take j).sum < 2 ^ 319) →
      (∀ y, t.byte y = s.byte y) ∧
      if fs.any Fv.isNan || (fs.contains (.inf false) && fs.contains (.inf true)) then leaves fm.nanc
      else if fs.contains (.inf false) then leaves (fm.inf false).1
      else if fs.contains (.inf true) then leaves (fm.inf true).1
      else if sum = 0 then leaves (fm.zero (fs.all fun v => v == .fin true 0 (match v with | .fin _ _ e => e | _ => 0)))
      else leaves (fm.roundFin .rne (decide (sum < 0)) sum.natAbs (-149)).1))

/-! ### Queue instructions -/

/-- R292 to R296, R281, R282: what VPUSH, SPUSH, MPUSH, its XQ form and QFLUSH add to the queue and to the packer when there is room. -/
def Obligations.QueuePushes : Prop :=
  ∀ (s : State) (v : BitVec 4) (r : BitVec 5) (n : BitVec 6) (m : BitVec 3) (sc w : BitVec 1) (pk : BitVec 4)
    (c : BitVec 8) (lit : BitVec 32), s.queueFree n.toNat 1 = true →
    let k := s.qk n.toNat
    let q := s.queue k
    let p := s.partialBeat n.toNat
    let old := match s.b.packer n.toNat with | some p => [p.beat] | none => []
    let x := (s.b.gpr r.toNat).toNat
    let lo := x % 2 ^ 32
    let hi := x / 2 ^ 32
    let pushes (i : Instr) (len : Nat) (l : List Beat) (rest : Option Packer) : Prop :=
      ∃ t, exec i s = .next t ∧ (t.queue k).beats = q.beats ++ l ∧ t.b.packer n.toNat = rest ∧ Steady s t len [] [] []
    let mark (b : Beat) (j code arg : Nat) : Beat := b.put j 3 2 (code * 2 ^ 24 + arg)
    (s.ready [.v v.toNat] [] = true → old.length + 1 ≤ q.room →
      ∃ b : Beat, pushes (.vpush v n m sc pk) 4 (old ++ [b]) none ∧ ∀ i, i < 16 →
        let e := elem (s.b.vreg v.toNat) 32 i
        if (s.b.kreg m.toNat).getLsbD i then
          b.tag i = (if sc = 1 then 2 else 0) ∧ b.pk i = (if sc = 1 then 2 else pk.toNat) ∧
            b.lane i = (if sc = 1 then e % 256 else e)
        else b.tag i = 1 ∧ b.pk i = 2) ∧
    (s.ready [.g r.toNat] [] = true → (s.b.packer n.toNat).isSome ∨ s.b.packs.length < 4 →
      (w = 0 → p.n < 15 → pushes (.spush r n w pk) 4 []
        (some { q := p.q, n := p.n + 1, beat := p.beat.put p.n 0 pk.toNat lo })) ∧
      (w = 0 → p.n = 15 → 0 < q.room → pushes (.spush r n w pk) 4 [p.beat.put 15 0 pk.toNat lo] none) ∧
      (w = 1 → p.n < 14 → pushes (.spush r n w pk) 4 []
        (some { q := p.q, n := p.n + 2, beat := (p.beat.put p.n 0 pk.toNat lo).put (p.n + 1) 0 pk.toNat hi })) ∧
      (w = 1 → p.n = 14 → 0 < q.room →
        pushes (.spush r n w pk) 4 [(p.beat.put 14 0 pk.toNat lo).put 15 0 pk.toNat hi] none) ∧
      (w = 1 → p.n = 15 → 0 < q.room →
        pushes (.spush r n w pk) 4 [p.beat.put 15 0 pk.toNat lo]
          (some { q := p.q, n := 1, beat := emptyBeat.put 0 0 pk.toNat hi }))) ∧
    (s.ready [.g r.toNat] [] = true → 0 < q.room →
      pushes (.mpush r n c) 4 [mark p.beat p.n c.toNat (x % 2 ^ 24)] none) ∧
    (0 < q.room → pushes (.xq n lit) 8 [mark p.beat p.n (lit.toNat / 2 ^ 24) (lit.toNat % 2 ^ 24)] none) ∧
    (old.length ≤ q.room → pushes (.qflush n) 4 old none)

/-- R298, R299, R138: what SPOP, VPOP and BQB take from a queue whose head beat holds a token, and what they deliver. -/
def Obligations.QueuePops : Prop :=
  ∀ (s : State) (d : BitVec 5) (v : BitVec 4) (n : BitVec 6) (m km kd : BitVec 3) (o : BitVec 16) (b : Beat) (l : List Beat),
    let val (b : Beat) (i : Nat) : Word :=
      BitVec.ofNat 64 (b.lane i + if b.tag i = 3 then 2 ^ 32 else if b.tag i = 2 then 2 ^ 33 else 0)
    let left (t : State) (k i : Nat) : Prop :=
      if (List.range 16).any (fun j => decide (i < j) && b.tag j != 1) then (t.queue k).beats = b :: l ∧ (t.queue k).popped = i + 1
      else (t.queue k).beats = l ∧ (t.queue k).popped = 0
    let pops (i : Instr) (nq : Nat) (f : Nat → State → Prop) : Prop :=
      (s.queue (s.qk nq)).beats = b :: l → s.ready [] [.g d.toNat] = true →
      ∀ j, j < 16 → (s.queue (s.qk nq)).popped ≤ j → b.tag j ≠ 1 →
        (∀ h, (s.queue (s.qk nq)).popped ≤ h → h < j → b.tag h = 1) →
        ∃ t, exec i s = .next t ∧ left t (s.qk nq) j ∧ t.b.gpr d.toNat = (if d = 0 then 0 else val b j) ∧
          (∀ h, h ≠ d.toNat → t.b.gpr h = s.b.gpr h) ∧ t.b.stat = s.b.stat ∧ (∀ y, t.byte y = s.byte y) ∧ f j t
    (s.queueFree n.toNat 2 = true → pops (.spop d n) n.toNat fun _ t => t.b.pc = s.b.pc + 4) ∧
    (s.queueFree 63 2 = true → pops (.bqb d o) 63 fun j t =>
      t.b.pc = if b.tag j = 0 ∧ b.lane j ≠ 0 then s.b.pc + BitVec.ofInt 64 (o.toInt * 4) else s.b.pc + 4) ∧
    (s.queueFree n.toNat 2 = true → (s.queue (s.qk n.toNat)).beats = b :: l → s.ready [] [.v v.toNat] = true →
      let on := fun i => (s.b.kreg m.toNat).getLsbD i
      let tok := fun i => decide ((s.queue (s.qk n.toNat)).popped ≤ i) && b.tag i != 1
      ∃ t, exec (.vpop v n m km kd) s = .next t ∧
        (t.queue (s.qk n.toNat)).beats = l ∧ (t.queue (s.qk n.toNat)).popped = 0 ∧
        (∀ i, i < 16 → elem (t.b.vreg v.toNat) 32 i =
          if on i then (if tok i then b.lane i else 0) else elem (s.b.vreg v.toNat) 32 i) ∧
        (∀ i, i < 16 → kd ≠ 0 → kd ≠ km → (t.b.kreg kd.toNat).getLsbD i = (on i && tok i && b.tag i == 0)) ∧
        (∀ i, i < 16 → km ≠ 0 → (t.b.kreg km.toNat).getLsbD i = (on i && tok i && b.tag i == 3)) ∧
        Steady s t 4 [] [v.toNat] [kd.toNat, km.toNat])

/-- R301 to R304: QSTAT returns the statistic that its selector names, and QWAIT the occupancy or the free slots once its condition holds;
QSTAT.clr clears the counter and arms its trap again. -/
def Obligations.QueueStatistics : Prop :=
  ∀ (s : State) (d : BitVec 5) (n : BitVec 6) (clr : BitVec 1) (sel : BitVec 7) (dir : Nat),
    let k := s.qk n.toNat
    let q := s.queue k
    let val : Nat := match sel.toNat with
      | 0 => q.occ | 1 => q.room | 2 => q.cap | 3 => q.highw | 4 => q.fstall | 5 => q.estall | 6 => q.lod
      | 7 => (s.partialBeat n.toNat).n | 8 => q.d0 | _ => q.d1
    let want := Nat.min (s.b.gpr d.toNat).toNat q.cap
    let gives (i : Instr) (v : Nat) : Prop :=
      ∃ t, exec i s = .next t ∧ t.b.gpr d.toNat = (if d = 0 then 0 else BitVec.ofNat 64 v) ∧ (t.queue k).beats = q.beats ∧
        Steady s t 4 [d.toNat] [] []
    (dir = 1 ∨ dir = 2 → s.queueFree n.toNat dir = true → s.ready [] [.g d.toNat] = true →
      gives (.qstat d n clr sel) val ∧
      ∀ t, exec (.qstat d n clr sel) s = .next t → t.queue k =
        if clr = 1 ∧ sel = 3 then { q with highw := q.occ, disarmed := putFld q.disarmed 3 3 0 }
        else if clr = 1 ∧ sel = 4 then { q with fstall := 0, disarmed := putFld q.disarmed 0 0 0 }
        else if clr = 1 ∧ sel = 5 then { q with estall := 0, disarmed := putFld q.disarmed 1 1 0 }
        else if clr = 1 ∧ sel = 6 then { q with lod := 0, disarmed := putFld q.disarmed 2 2 0 }
        else q) ∧
    (s.ready [.g d.toNat] [] = true →
      (s.queueFree n.toNat 2 = true → want ≤ q.occ → gives (.qwait d n 0) q.occ) ∧
      (s.queueFree n.toNat 1 = true → want ≤ q.room → gives (.qwait d n 1) q.room) ∧
      (s.queueFree n.toNat 1 = true → q.beats = [] → s.b.packer n.toNat = none → gives (.qwait d n 2) 0))

/-- R290, R291: a queue instruction that finds no room or no token stalls with nothing added or removed; one of the wrong direction takes
exception 0x01 with FIELD, and one of a group with a graph fault takes 0x11. -/
def Obligations.QueueStallsAndFaults : Prop :=
  ∀ (s : State) (v : BitVec 4) (r d : BitVec 5) (n : BitVec 6) (m : BitVec 3) (sc : BitVec 1) (pk : BitVec 4) (c : BitVec 8),
    let k := s.qk n.toNat
    let stalls (i : Instr) : Prop :=
      ∃ t, exec i s = .next t ∧ t.b.pc = s.b.pc ∧ t.b.g = s.b.g ∧ t.b.packs = s.b.packs ∧
        t.b.stalled = some (s.b.stalled.getD s.cycle) ∧ (t.queue k).beats = (s.queue k).beats ∧ ∀ y, t.byte y = s.byte y
    (s.queueFree n.toNat 1 = true → (s.queue k).room = 0 →
      (s.ready [.v v.toNat] [] = true → stalls (.vpush v n m sc pk)) ∧
      (s.ready [.g r.toNat] [] = true → stalls (.mpush r n c))) ∧
    (s.queueFree n.toNat 2 = true → (s.queue k).beats = [] → s.ready [] [.g d.toNat] = true → stalls (.spop d n)) ∧
    (s.enters = true → s.queueOpen n.toNat 1 = false →
      Enters (.vpush v n m sc pk) s 1 2 0 s.b.pc ∧ Enters (.mpush r n c) s 1 2 0 s.b.pc ∧ Enters (.qflush n) s 1 2 0 s.b.pc) ∧
    (s.enters = true → s.queueOpen n.toNat 2 = false → Enters (.spop d n) s 1 2 0 s.b.pc) ∧
    (s.enters = true → s.queueOpen n.toNat 2 = true → s.b.graph = true →
      Enters (.spop d n) s 0x11 (match (s.group (s.gidOfBank s.cur)).fault with | some (p, _) => p | none => 0) 0 s.b.pc)

/-! ### Counters -/

/-- R371, R373 to R375: SEMS and a write of SIGNAL add to the count, which saturates, and a write of VALUE sets it; the waiters whose
threshold is met leave the list and are woken. SEMR reads the count. -/
def Obligations.Semaphores : Prop :=
  ∀ (s : State) (d a b : BitVec 5) (n : Nat) (v : BitVec 64),
    (s.semIndex (s.b.gpr a.toNat) = some n → s.clear = true → s.unlisted → s.ready [.g a.toNat, .g b.toNat] [] = true →
      ∃ t, exec (.sems a b) s = .next t ∧ t.b.g = s.b.g ∧ t.b.pc = s.b.pc + 4 ∧
        Signalled s t n (min ((s.sem n).count + (s.b.gpr b.toNat).toNat % 2 ^ 32) (2 ^ 32 - 1))) ∧
    (s.semIndex (s.b.gpr a.toNat) = some n → s.clear = true → s.ready [.g a.toNat] [.g d.toNat] = true →
      SetsG (.semr d a) s d (BitVec.ofNat 64 (s.sem n).count) 4) ∧
    (n < 4096 →
      (∃ t, exec (.semaphoreSignalWrite n v) s = .next t ∧
        Signalled s t n (min ((s.sem n).count + v.toNat % 2 ^ 32) (2 ^ 32 - 1))) ∧
      ∃ t, exec (.semaphoreValueWrite n v) s = .next t ∧ Signalled s t n (v.toNat % 2 ^ 32)) ∧
    (s.semIndex (s.b.gpr a.toNat) = none → s.clear = true → s.enters = true →
      (s.ready [.g a.toNat, .g b.toNat] [] = true → Enters (.sems a b) s 4 0 (s.b.gpr a.toNat).toNat s.b.pc) ∧
      (s.ready [.g a.toNat] [.g d.toNat] = true → Enters (.semr d a) s 4 0 (s.b.gpr a.toNat).toNat s.b.pc))

/-- R376 to R379: what BARI, BARI.ke and BARA make of the 16 bytes of a barrier object, and which BARW waiters they wake; at another
package they send one serial-class operation and wait (R381). `v` is the state after the walk and the read. R380, R150: when the timer
of a BARW has run out its waiter leaves the list, and no counter action wakes it, and what EINFO says is the object as the timer ran out, where
a turn has noted it (assumption 78); a continuation takes exception 0x0D when it is next dispatched, a service core takes it
at once. -/
def Obligations.BarrierObjects : Prop :=
  (∀ (s u : State) (a b : BitVec 5) (ke : BitVec 1) (pa key kind : Nat), s.clear = true → s.unlisted →
    s.ready [.g a.toNat, .g b.toNat] [] = true →
    s.access (.bar true) (s.b.gpr a.toNat).toNat 16 0 = (.ok pa key kind, u) →
    let x := (s.b.gpr b.toNat).toNat
    let n := x % 2 ^ 32
    let tmo := x / 2 ^ 32 % 2 ^ 16
    let k := cellKey (clusterOf s.cur) (paLocal pa)
    let carry (o : Bar) : Bar :=
      if o.expected ≤ o.arrived then
        { o with early := o.arrived - o.expected, arrived := 0, armed := false, phase := (o.phase + 1) % 256 }
      else o
    let does (i : Instr) (f : Bar → Bar) (body : RemBody) : Prop :=
      (u.own pa = true → ∀ (w : Nat) (v : State),
        u.readAt (clusterOf s.cur) pa 16 (some (coreOf s.cur)) = (w, none, v) →
        let o := f (barOf w)
        let met (y : BarWaiter) : Bool := decide (s.time ≤ y.expiry) && (!o.armed || y.phase != o.phase)
        ∃ t m, exec i s = .next t ∧ barOf m = o ∧ Stored ((v.hostFill (paLocal pa / 64)).applyAt (paLocal pa) 16) t k 16 m ∧
          t.b.g = s.b.g ∧ t.b.pc = s.b.pc + 4 ∧
          Tab.get [] t.bars k = (Tab.get [] s.bars k).filter (fun y => !met y) ∧
          ∀ y ∈ Tab.get [] s.bars k, met y = true → Woken s t y.who) ∧
      (u.own pa = false →
        ∃ t, exec i s = .next t ∧ t.b.blocked = some s.nextOp ∧ t.b.pc = s.b.pc ∧
          (t.rop s.nextOp).map (fun o => (o.pkg, o.body, o.serial)) = some (paPkg pa, body, some (s.chan s.cur).next))
    does (.bari a b ke)
      (fun o => carry { o with
        arrived := if o.armed then o.arrived else if ke = 1 then o.early else 0
        early := if o.armed then o.early else 0
        armed := true
        expected := n
        tmo := tmo })
      (.bari (paLocal pa) n tmo (ke == 1) key) ∧
    does (.bara a b)
      (fun o => if o.armed then carry { o with arrived := min (o.arrived + n) (2 ^ 32 - 1) }
        else { o with early := min (o.early + n) (2 ^ 32 - 1) })
      (.bara (paLocal pa) n key)) ∧
  (∀ (s : State) (w : Who) (key : Nat) (y : BarWaiter), s.barWaiter w = some (key, y) → y.expiry < s.time →
    let o := barOf (y.seen.getD (s.num key 16))
    let info := o.arrived * 2 ^ 32 + o.phase * 2 ^ 24 + (if o.armed then 2 ^ 23 else 0)
    ∃ t, exec (.barwTimeout w) s = .next t ∧ (∀ e ∈ t.bars, ∀ z ∈ e.2, z.who ≠ w) ∧
      (∀ c, w = .cont c →
        (t.cont c).timeout = some { cause := 0x0d, epc := y.epc, einfo := info, eaddr := y.va } ∧ Woken s t w) ∧
      (∀ n, w = .svc n → s.loadsDone (4096 + n) = true →
        (t.bank (4096 + n)).susp = none ∧ (t.bank (4096 + n)).epc = y.epc ∧ (t.bank (4096 + n)).ecause = 0x0d ∧
          (t.bank (4096 + n)).einfo = BitVec.ofNat 64 info ∧ (t.bank (4096 + n)).eaddr = BitVec.ofNat 64 y.va ∧
          (t.bank (4096 + n)).pc = s.trapEntry (4096 + n)))

/-- R382, R383: RDTIME reads TIME. RDPERF reads the counter that g[a] selects, all ones where none is listed; a class other than 0 is
privileged. -/
def Obligations.TimeAndEventCounters : Prop :=
  ∀ (s : State) (d a : BitVec 5), s.ready [.g a.toNat] [.g d.toNat] = true →
    let x := (s.b.gpr a.toNat).toNat
    let cls := x / 2 ^ 8 % 256
    let ev := x % 256
    let inst := x / 2 ^ 16 % 2 ^ 16
    let kept := Tab.get 0 s.events (cls * 2 ^ 24 + inst * 2 ^ 8 + ev)
    let reads (v : Nat) : Prop := SetsG (.rdperf d a) s d (BitVec.ofNat 64 v) 4
    let listed : Prop := (cls = 0 ∧ ev ≤ 6) ∨ (cls = 1 ∧ inst ≤ 9 ∧ ev ≤ 0x0e) ∨ (cls = 2 ∧ inst ≤ 35 ∧ ev ≤ 3) ∨
      (cls = 3 ∧ inst ≤ 143 ∧ ev ≤ 6) ∨ (cls = 4 ∧ inst ≤ 9 ∧ ev ≤ 1)
    SetsG (.rdtime d) s d (BitVec.ofNat 64 s.time) 4 ∧
    (cls = 0 ∨ s.b.priv = true →
      (cls = 0 → ev ≤ 6 → reads (Tab.get 0 s.b.perf ev)) ∧
      (cls = 1 → inst ≤ 9 → ev = 0 → reads (Tab.get 0 s.caches.hits inst)) ∧
      (cls = 1 → inst ≤ 9 → ev = 1 → reads (Tab.get 0 s.caches.misses inst)) ∧
      (cls = 1 → inst ≤ 9 → 2 ≤ ev → ev ≤ 0x0d → reads kept) ∧
      (cls = 1 → inst ≤ 9 → ev = 0x0e → reads (s.owner.filter fun e => ownerSlice e.rcid == inst).length) ∧
      (cls = 2 → inst ≤ 35 → ev ≤ 3 → reads kept) ∧
      (cls = 3 → inst ≤ 143 → ev ≤ 6 → reads kept) ∧
      (cls = 4 → inst ≤ 9 → ev ≤ 1 → reads kept) ∧
      (¬ listed → reads (2 ^ 64 - 1))) ∧
    (cls ≠ 0 → s.b.priv = false → s.enters = true → Enters (.rdperf d a) s 1 4 0 s.b.pc)

/-! ### Tables -/

/-- R398: TINV drops the cached translations that it names, and no others, once the accesses that may use them are performed. R399,
R402: what KEYOP does to a key slot and what g[d] says: 0 DONE, 1 REFUSED, 2 BUSY; query gives the state, the version bit and the
completed rotations. R185, R255: destroy drops every line of the key from every cache: a dirty one takes back what its tier holds, the
updates pending for it are dropped and DROP is set, and a read of a line whose tier content is of the key returns INTEGRITY poison. That
create leaves the count of rotations is the model's reading (assumption 26). -/
def Obligations.TranslationsAndKeys : Prop :=
  (∀ (s : State) (a b : BitVec 5), s.b.priv = true → s.clear = true → s.ready [.g a.toNat, .g b.toNat] [] = true →
    let key := (s.b.gpr a.toNat).toNat % 4096
    let va := (s.b.gpr b.toNat).toNat
    let drops (i : Instr) (p : TlbE → Bool) : Prop :=
      let cut (t0 t1 : Tab (List TlbE)) : Prop :=
        (∀ e ∈ t1, ∀ x ∈ e.2, p x = false ∧ ∃ f ∈ t0, f.1 = e.1 ∧ x ∈ f.2) ∧
          ∀ e ∈ t0, ∀ x ∈ e.2, p x = false → ∃ f ∈ t1, f.1 = e.1 ∧ x ∈ f.2
      ∃ t, exec i s = .next t ∧ KeepsRegs s t 4 ∧ cut s.l1tlb t.l1tlb ∧ cut s.cltlb t.cltlb ∧ ∀ y, t.byte y = s.byte y
    (s.quiet (fun _ => true) = true → drops .tinvAll fun _ => true) ∧
    (s.quiet (· == key) = true →
      (drops (.tinvCtx a) fun e => e.ctx == key) ∧
      drops (.tinvPage a b) fun e => e.ctx == key && e.va == va / 2 ^ e.bits)) ∧
  (∀ (s : State) (d a : BitVec 5), s.b.priv = true → s.clear = true → s.ready [.g a.toNat] [.g d.toNat] = true →
    let n := (s.b.gpr a.toNat).toNat % 4096
    let k := s.key n
    let gives (i : Instr) (v : Nat) (k' : KeySlot) : Prop :=
      ∃ t, exec i s = .next t ∧ t.b.gpr d.toNat = (if d = 0 then 0 else BitVec.ofNat 64 v) ∧
        (∀ j, j ≠ d.toNat → t.b.gpr j = s.b.gpr j) ∧ t.b.pc = s.b.pc + 4 ∧ t.key n = k' ∧ ∀ m, m ≠ n → t.key m = s.key m
    let live : Prop := k.state = .active ∨ k.state = .rotating
    (n = 0 ∨ live → gives (.keyopCreate d a) 1 k) ∧
    (n ≠ 0 → ¬ live →
      gives (.keyopCreate d a) 0 { k with state := .active, ver := false, held := [s.nextVer], seen := false }) ∧
    (n ≠ 0 → k.state = .active →
      gives (.keyopRotate d a) 0 { k with state := .rotating, held := s.nextVer :: k.held, seen := false }) ∧
    (n ≠ 0 → k.state = .rotating → gives (.keyopRotate d a) 2 k) ∧
    (n = 0 ∨ ¬ live → gives (.keyopRotate d a) 1 k ∧ gives (.keyopDestroy d a) 1 k) ∧
    (n ≠ 0 → live → gives (.keyopDestroy d a) 0 { k with state := .destroyed, held := [], seen := false } ∧
      let mine (l : Nat) : Prop := (s.line l).key.map (·.slot) = some n
      ∃ t, exec (.keyopDestroy d a) s = .next t ∧ (∀ y, ¬ mine (y / 64) → t.byte y = s.byte y) ∧
        ∀ l, mine l → t.caches.holds l = false ∧ l ∉ t.hostLines ∧ Tab.get none t.dirty l = none ∧
          (∀ j, j < 64 → t.byte (l * 64 + j) =
            match Tab.get none s.dirty l with | some g => BitVec.ofNat 8 (g.bytes.toNat / 256 ^ j) | none => s.byte (l * 64 + j)) ∧
          (isTier (l * 64) = true →
            (match Tab.get none s.dirty l with | some g => g.info.key | none => (s.line l).key : Option KeyTag).map (·.slot) = some n →
            t.poisonAt (l * 64) 64 = some 1) ∧
          ∀ i, s.regionAt (l * 64) = some i →
            (∀ b ∈ t.binsOf (homeSlice (l * 64)), ∀ p ∈ b.keys, p.pa / 64 ≠ l) ∧ (∀ x ∈ Tab.get [] t.logs i, x.2.pa / 64 ≠ l) ∧
            ((∃ b ∈ s.binsOf (homeSlice (l * 64)), ∃ p ∈ b.keys, p.pa / 64 = l) ∨ (∃ x ∈ Tab.get [] s.logs i, x.2.pa / 64 = l) →
              bitAt (Tab.get 0 t.regstat i) 9 = true)) ∧
    gives (.keyopQuery d a)
      ((match k.state with | .empty => 0 | .active => 1 | .rotating => 2 | .destroyed => 3) + (if k.ver then 4 else 0)
        + k.rotations % 2 ^ 32 * 2 ^ 32) k)

/-- R396, R406: EXTW writes an extent entry to memory and to every held copy, and URTW an entry of the update region table; a refused
record changes neither, and g[a] says so. `v` is the state after the record is read, from this package or from another. -/
def Obligations.TableWrites : Prop :=
  ∀ (s u v : State) (a b : BitVec 5) (pr key kind w : Nat), s.b.priv = true → s.clear = true →
    s.ready [.g a.toNat, .g b.toNat] [] = true → s.access .record (s.b.gpr b.toNat).toNat 32 0 = (.ok pr key kind, u) →
    s.gotRecord u v (s.b.gpr b.toNat).toNat pr 32 w →
    let x := (s.b.gpr a.toNat).toNat
    let dw := fun i => w / 2 ^ (64 * i) % 2 ^ 64
    let r : Region := { d0 := dw 0, d1 := dw 1, d2 := dw 2, d3 := dw 3 }
    let past : Prop := dw 0 % 2 = 1 ∧ 2 ^ 54 < (dw 2 / 2 ^ 16 % 2 ^ 38 + dw 1 % 2 ^ 39) * 2 ^ 16
    let answers (t : State) (n : Nat) : Prop :=
      t.b.gpr a.toNat = (if a = 0 then 0 else BitVec.ofNat 64 n) ∧ t.b.pc = s.b.pc + 4 ∧
        ∀ j, j ≠ a.toNat → t.b.gpr j = s.b.gpr j
    (s.quiet (fun _ => true) = true →
      (x % 32 ≠ 0 ∨ 2 ^ 54 ≤ x ∨ s.ownTier x = false ∨ past →
        ∃ t, exec (.extw a b) s = .next t ∧ answers t 1 ∧ t.held = s.held ∧ ∀ y, t.byte y = v.byte y) ∧
      (x % 32 = 0 → x < 2 ^ 54 → s.ownTier x = true → ¬ past → v.inLog (paLocal x) = false →
        ∃ t, exec (.extw a b) s = .next t ∧ answers t 0 ∧ Stored (v.applyAt (paLocal x) 32) t (paLocal x) 32 w ∧
          ∀ e ∈ t.held, ∀ h ∈ e.2, h.base = x / 2048 * 2048 → x % 2048 / 32 < h.ents.length →
            h.ents[x % 2048 / 32]? = some w)) ∧
    (v.regionRefused (x % 256) r = true → ∃ t, exec (.urtw a b) s = .next t ∧ answers t 1 ∧ t.regions = s.regions) ∧
    (v.regionRefused (x % 256) r = false →
      ∃ t, exec (.urtw a b) s = .next t ∧ answers t 0 ∧ t.region (x % 256) = r ∧
        (∀ m, m ≠ x % 256 → t.region m = s.region m) ∧ (r.valid = true → Tab.get 0 t.regstat (x % 256) = 0))

/-- R417, R419: LAUNCH appends its record to the queue of a usable leaf that has room: the record is stored in the slot of TAIL, TAIL
advances, the doorbell counts one, and g[a] is 0; it is 1 for a refused leaf and 2 for a full queue. A ring outside the tiers of this
package, or in a spill log, refuses the record (the model's choice, assumption 72). `v` is the state after the record is
read, from this package or from another. -/
def Obligations.LaunchAppends : Prop :=
  ∀ (s u v : State) (a : BitVec 5) (pa key kind w : Nat), s.b.priv = true → s.clear = true → s.unlisted →
    s.ready [.g a.toNat] [] = true → s.access .record (s.b.gpr a.toNat).toNat 128 0 = (.ok pa key kind, u) →
    s.gotRecord u v (s.b.gpr a.toNat).toNat pa 128 w →
    let leaf := w % 2 ^ 64
    let z := v.leafRead leaf
    let tells (n : Nat) (f : State → Prop) : Prop :=
      ∃ t, exec (.launch a) s = .next t ∧ t.b.gpr a.toNat = (if a = 0 then 0 else BitVec.ofNat 64 n) ∧
        t.b.pc = s.b.pc + 4 ∧ f t
    (z.isLeaf leaf = false → tells 1 fun t => ∀ y, t.byte y = z.byte y) ∧
    (∀ x : State, z.isLeaf leaf = true → z.useLeaf leaf = (false, x) → tells 1 fun t => ∀ y, t.byte y = x.byte y) ∧
    (∀ x : State, z.isLeaf leaf = true → z.useLeaf leaf = (true, x) →
      let at' := paLocal leaf + 0x68
      let tail := x.num at' 4
      let head := x.num (at' + 4) 4
      let len := 2 ^ Nat.min (fld (x.rcb leaf 12) 4 0) 16
      let place := x.rcb leaf 11 / 64 * 64 + tail % len * 64
      let slot := paLocal place
      (len ≤ (tail + 2 ^ 32 - head) % 2 ^ 32 → tells 2 fun t => ∀ y, t.byte y = x.byte y) ∧
      ((tail + 2 ^ 32 - head) % 2 ^ 32 < len → x.recPlace place = false → tells 1 fun t => ∀ y, t.byte y = x.byte y) ∧
      ((tail + 2 ^ 32 - head) % 2 ^ 32 < len → x.recPlace place = true → tells 0 fun t =>
        t.num at' 4 = (tail + 1) % 2 ^ 32 ∧ leaf ∈ t.leaves ∧
        (∀ j, j < 64 → slot + j < at' ∨ at' + 4 ≤ slot + j → t.byte (slot + j) = BitVec.ofNat 8 (w / 2 ^ 512 / 256 ^ j)) ∧
        (t.sem (x.doorbell leaf)).count = min ((x.sem (x.doorbell leaf)).count + 1) (2 ^ 32 - 1)))

/-! ### What a bank does between instructions -/

/-- R76, R59, R153, R154, R91: at an instruction boundary a word that is not an instruction takes exception 0x01 with its subcode; a
fetch fault takes its exception, or parks a thread bank when the translation failed (R98); a pending bit of STAT is taken with the values
kept for it. -/
def Obligations.BoundaryEvents : Prop :=
  ∀ (s t : State) (r : Nat),
    let u : State := { t with cur := r }
    let b := s.bank r
    (∀ x, s.select r = (.illegal x, t) → u.enters = true →
      ∃ v, exec (.illegalInstruction r) s = .next v ∧ Entered u v 1
        (match x with | .major => 0 | .func => 1 | .field => 2 | .order => 3 | .priv => 4 | .extend => 5) 0 u.b.pc) ∧
    (∀ e : FetchExc, s.select r = (.fault e, t) →
      (e.cause ≠ 3 ∨ 4096 ≤ r → u.enters = true →
        ∃ v, exec (.fetchFault r) s = .next v ∧ Entered u v e.cause e.einfo e.eaddr u.b.pc) ∧
      (e.cause = 3 → r < 4096 →
        ∃ v, exec (.fetchFault r) s = .next v ∧ (v.bank r).park = some { kind := 0 } ∧ (v.bank r).ecause = 3 ∧
          (v.bank r).epc = u.b.pc ∧ (v.bank r).einfo = BitVec.ofNat 64 e.einfo ∧
          (v.bank r).eaddr = BitVec.ofNat 64 e.eaddr ∧ (v.bank r).g = u.b.g ∧ (v.bank r).pc = u.b.pc)) ∧
    (∀ n, (s.select r).1 = .pending n → s.loadsDone r = true → r < 4096 →
      let takes (cause einfo eaddr : Nat) (again : Bool) : Prop :=
        ∃ v, exec (.pendingExceptionEntry r) s = .next v ∧ (v.bank r).epc = b.pc ∧
          (v.bank r).ecause = BitVec.ofNat 64 cause ∧ (v.bank r).einfo = BitVec.ofNat 64 einfo ∧
          (v.bank r).eaddr = BitVec.ofNat 64 eaddr ∧ (v.bank r).priv = true ∧ (v.bank r).pc = s.trapEntry r ∧
          bitAt (v.bank r).stat.toNat n = again ∧ (v.bank r).g = b.g ∧ (∀ q, q ≠ r → v.bank q = s.bank q) ∧
          ∀ a, v.byte a = s.byte a
      (n = 18 → takes 0x10 0 0 false) ∧
      (∀ x l, n = 16 → b.sfaults = x :: l → takes 7 x.einfo x.eaddr !l.isEmpty) ∧
      (∀ x, n = 17 → b.rfaults = [x] → takes x.cause x.einfo x.eaddr false) ∧
      (∀ x l, n = 20 → b.qevents = x :: l → takes x.cause x.einfo x.eaddr !l.isEmpty))

/-- R98 to R100: a bank parks when its queue or remote wait has lasted 2 to the power of its QTRAPCFG field and still holds, and so before
a queue trap that was set no earlier (12_queues R312); when its
loads are done the slot goes to its other bank; it comes back once its cause is answered and the other bank holds no continuation, or is
parked with its loads done. -/
def Obligations.Parking : Prop :=
  ∀ (s : State) (r : Nat), r < 4096 →
    let b := s.bank r
    let o := s.bank (if r % 2 = 0 then r + 1 else r - 1)
    let parks (i : Instr) (w t0 kind : Nat) : Prop :=
      w ≠ 0 → t0 + 2 ^ Nat.max w 6 ≤ s.cycle →
        ∃ t, exec i s = .next t ∧ ((t.bank r).park.map (·.kind)) = some kind ∧ ((t.bank r).park.map (·.drained)) = some false ∧
          (t.bank r).epc = b.pc ∧ (t.bank r).pc = b.pc ∧ (t.bank r).ecause = b.ecause ∧ (t.bank r).einfo = b.einfo ∧
          (t.bank r).g = b.g ∧ (t.bank r).stat = b.stat ∧ (∀ c, b.cont = some c → (t.cont c).st = .parked) ∧
          (∀ q, q ≠ r → t.bank q = s.bank q) ∧ ∀ a, t.byte a = s.byte a
    (∀ t0 x, s.canIssue r = true → b.stalled = some t0 → b.stall = some x → x.parks = true →
      s.stallReady r = false ∨ (s.pendingBit r = some 20 ∧ s.parkFirst r = true) →
      parks (.qparkThreshold r) (b.qtrapcfg.toNat / 2 ^ 8 % 16) t0 1) ∧
    (∀ t0 w, s.canIssue r = true → b.waited = some (t0, w) → s.stillWaits r w = true →
      parks (.rparkThreshold r) (b.qtrapcfg.toNat / 2 ^ 12 % 16) t0 2) ∧
    (∀ p, b.park = some p → p.drained = false → b.reqs.all (fun q => q.dst.isNone) = true → b.batches = [] →
      ∃ t, exec (.parkDrainComplete r) s = .next t ∧ (t.bank r).park = some { p with drained := true } ∧
        t.activeBank (r / 2) = (if r % 2 = 0 then r + 1 else r - 1) ∧ (t.bank r).g = b.g) ∧
    (∀ p, b.park = some p → p.refused = false → s.returnable r = true → (r % 2 = 0 ∨ s.returnable (r - 1) = false) →
      (o.cont = none ∨ o.park.any (·.drained) = true) →
      ∃ t, exec (.bankReturn r) s = .next t ∧ t.bank r = { b with park := none, waited := none } ∧ t.activeBank (r / 2) = r ∧
        (∀ c, b.cont = some c → (t.cont c).st = .running) ∧ (∀ q, q ≠ r → t.bank q = s.bank q) ∧ ∀ a, t.byte a = s.byte a)

/-- R143, R146, R96, R426: a suspension point that waited goes on when its waits are over; a continuation whose wake time has come is
placed; an empty active bank takes the first continuation of its queues with its PC, whose bits 1:0 are zero, g1 to g6, FLAGS and UB, in
user mode. -/
def Obligations.DispatchEvents : Prop :=
  ∀ (s : State) (r c : Nat), r < 4096 →
    let k := s.cont c
    ({ s with cur := r }.suspends c = true → (s.bank r).susp = some .susp →
      ∃ t, exec (.suspensionWriteback r) s = .next t ∧ WrittenBack { s with cur := r } t c ∧
        Queued { s with cur := r } t c) ∧
    (∀ w, k.st = .waiting → k.place = .time w → w ≤ s.time →
      ∃ t, exec (.wakeTimeReached c) s = .next t ∧ Woken s t (.cont c) ∧ ∀ a, t.byte a = s.byte a) ∧
    ((s.bank r).cont = none → s.activeBank (r / 2) = r → s.returnable (otherBank r) = false →
      (s.chan r).reserved = none → s.nextCont (r / 128) = some c → k.timeout = none →
      ∃ t, exec (.continuationDispatch r) s = .next t ∧
        let b := t.bank r
        b.cont = some c ∧ b.pc = BitVec.ofNat 64 (k.pc.toNat / 4 * 4) ∧ (∀ i, i < 6 → b.gpr (i + 1) = k.g.getD i 0) ∧ b.priv = false ∧ b.ub = k.ub ∧
          b.flags = k.flags % 32 ∧ b.vrm = (if 5 < k.vrm then 0 else k.vrm) ∧ b.ids = s.idsOf c r ∧
          b.ctxkey = BitVec.ofNat 64 (s.eff (s.contLeaf c) 13 7 % 4096) ∧ b.gmark = [] ∧ b.park = none ∧
          (t.cont c).st = .running ∧ (t.cont c).bank = some r ∧ (∀ q, q ≠ r → t.bank q = s.bank q) ∧
          (s.settled → ∀ a, t.byte a = s.byte a))

/-! ### Memory and device events -/

/-- R211 to R213, R243, R251, R173, R442, R399: an outstanding request of a bank is performed; an update in flight, behind the earlier ones
of its thread to its element, opens its key; a write clears region status bits; a bank that leaves CACHE mode gives up its lines, and one
that enters SCRATCH mode holds zeros; a patrol step changes no byte, and poisons only the line that it finds unreadable. -/
def Obligations.MemoryEvents : Prop :=
  ∀ (s : State) (r n : Nat) (v : BitVec 64),
    let b := s.bank r
    (∀ q : MemReq, b.reqs[n]? = some q →
      let a := paLocal q.pa
      let k := cellKey q.cluster a
      (isScratch a = true ∨ (isTier a = true ∧ s.regionAt (a / 4096 * 4096) = none)) → a % 4096 + q.size ≤ 4096 →
      (∀ d m sext, d ≠ 0 → q.dst = some (.g d m sext) →
        let x := s.num k q.size
        let p := s.poisonAt k q.size
        ∃ t, exec (.memoryRequestComplete (.bank r n)) s = .next t ∧
          (t.bank r).gpr d = BitVec.ofNat 64 (if sext then ux 64 (sx (8 * m) x) else x % 2 ^ (8 * m)) ∧
          (t.bank r).mark (.g d) = p.map (fun z => { reason := z, va := q.va }) ∧
          (∀ j, j ≠ d → (t.bank r).gpr j = b.gpr j) ∧ (t.bank r).reqs = dropNth b.reqs n ∧ (t.bank r).pc = b.pc ∧
          (∀ j, j ≠ r → t.bank j = s.bank j) ∧ t.mem = s.mem) ∧
      (q.dst = none → b.reqs.any q.behind = false →
        ∃ t, exec (.memoryRequestComplete (.bank r n)) s = .next t ∧ Stored s t k q.size q.data ∧
          t.bank r = { b with reqs := dropNth b.reqs n } ∧ ∀ j, j ≠ r → t.bank j = s.bank j)) ∧
    (∀ (p : Pair) (a w i : Nat), s.pairs[n]? = some p → (s.pairs.take n).any p.clash = false → p.keys = [(a, w)] → s.regionAt a = some i →
      (s.binsOf (homeSlice a)).find? (fun x => x.block == a / 4096) = none → (s.binsOf (homeSlice a)).length < 4096 →
      ∃ t, exec (.updatePairAccept n) s = .next t ∧ t.pairs = dropNth s.pairs n ∧ t.mem = s.mem ∧
        t.binsOf (homeSlice a) =
          { block := a / 4096, keys := [openPartial (s.region i).op (s.region i).etype a w] } :: s.binsOf (homeSlice a)) ∧
    (∃ t, exec (.regionStatusClear n v) s = .next t ∧ { t with regstat := s.regstat } = s ∧
      (∀ j, bitAt (Tab.get 0 t.regstat (n % 256)) j =
        (bitAt (Tab.get 0 s.regstat (n % 256)) j && !(v.getLsbD j && (j < 5 || (9 ≤ j && j < 13))))) ∧
      ∀ m, m ≠ n % 256 → Tab.get 0 t.regstat m = Tab.get 0 s.regstat m) ∧
    (∀ (c x : Nat), c < 32 → x < 32 →
      let old := s.bankCtl c x
      let mode := v.toNat % 4
      let skey := v.toNat / 2 ^ 20 % 4096
      let still (t : State) : Prop := (∀ m, m ≠ c * 32 + x → Tab.get {} t.ctl m = Tab.get {} s.ctl m) ∧
        { t with ctl := s.ctl, caches := s.caches } = s
      (∃ t, exec (.bankControlWrite c x v) s = .next t ∧ still t ∧ (old.mode ≠ 0 → t.caches = s.caches) ∧
        (old.mode = 0 → mode ≠ 0 → old.busy = false → ∀ l, Tab.get none t.caches.cc (ccKey c x l) = none) ∧
        (mode = old.mode → t.bankCtl c x = { old with skey := skey, refused := old.refused && !v.getLsbD 2 }) ∧
        (mode ≠ old.mode → (old.busy = true ∨ (old.mode = 2 ∧ s.fifoUsed c x = true)) →
          t.bankCtl c x = { old with refused := true }) ∧
        (mode ≠ old.mode → old.busy = false → (old.mode ≠ 2 ∨ s.fifoUsed c x = false) →
          (t.bankCtl c x).mode = mode ∧ (t.bankCtl c x).busy = true ∧ (t.bankCtl c x).skey = skey)) ∧
      (old.busy = true → (old.old ≠ 1 ∨ s.scratchPending c x = false) →
        ∃ t, exec (.bankModeChangeDone c x) s = .next t ∧ (t.bankCtl c x).busy = false ∧
          (t.bankCtl c x).mode = old.mode ∧ t.banks = s.banks ∧
          (old.mode = 1 → ∀ j, j < 2 ^ 17 → t.byte (scratchKey c (x * 2 ^ 17) + j) = 0) ∧
          ∀ y, (old.mode ≠ 1 ∨ y < scratchKey c (x * 2 ^ 17) ∨ scratchKey c (x * 2 ^ 17) + 2 ^ 17 ≤ y) →
            t.byte y = s.byte y)) ∧
    (∃ t, exec .patrolStep s = .next t ∧ t.mem = s.mem ∧ t.banks = s.banks ∧
      (∀ l, l ≠ s.patrol → (t.line l).poison = (s.line l).poison) ∧
      (Tab.get none s.dirty s.patrol ≠ none ∨ (s.lineReadable s.patrol = true ∧ (s.line s.patrol).err = 0) →
        (t.line s.patrol).poison = (s.line s.patrol).poison) ∧
      (Tab.get none s.dirty s.patrol = none → s.lineReadable s.patrol = false → (t.line s.patrol).poison = true) ∧
      (s.patrol + 1 ≠ 2 ^ 35 → t.patrol = s.patrol + 1 ∧ t.scrubPasses = s.scrubPasses) ∧
      (s.patrol + 1 = 2 ^ 35 → t.patrol = 0 ∧ t.scrubPasses = (s.scrubPasses + 1) % 2 ^ 32 ∧
        ∀ m, (s.key m).state = .rotating → (s.key m).seen = true →
          (t.key m).state = .active ∧ (t.key m).ver = !(s.key m).ver))

/-- R403, R434, R439, R447, R461: the writes of device registers outside the cluster banks and semaphores, each as its own event and as a
write of its dword; the fields that the register map makes RO keep their values. Dwords 1 to 3 of a format range take effect with the write
of dword 0 by the same agent (R407; that each agent holds its own is the model's reading, assumption 26). -/
def Obligations.DeviceRegisters : Prop :=
  ∀ (s : State) (n : Nat) (v : BitVec 64) (on : Bool) (now : Nat),
    let writes (i : Instr) (a : Nat) (f : State) : Prop :=
      exec i s = .next f ∧ exec (.deviceRegisterWrite (BitVec.ofNat 64 a) v) s = .next f
    (n < 64 →
      let e := s.fmtRange n
      let d0 := v.toNat &&& 0x803fffffffffffc0
      let (h1, h2, h3) := e.heldBy s.cur
      let mine (r : Option (Nat × Nat × Nat)) (e' : FmtRange) : FmtRange := { e' with mine := Tab.set none e.mine s.cur r }
      let held (i : Nat) (r : Nat × Nat × Nat) (e' : FmtRange) : Prop :=
        ∃ t, writes (.formatRangeHeldWrite n i v) (0x3f800300000 + n * 32 + i * 8) t ∧ t.fmtRange n = mine (some r) e' ∧
          { t with ranges := s.ranges } = s
      (∃ t, writes (.formatRangeWrite n v) (0x3f800300000 + n * 32) t ∧ { t with ranges := s.ranges, caches := s.caches } = s ∧
        t.caches = (s.caches.reindex fun l => t.rangeNo (l * 64)) ∧
        (∀ m, m ≠ n → t.fmtRange m = s.fmtRange m) ∧
        (v.getLsbD 63 = false → s.rangeRefused n d0 h1 h2 h3 = false) ∧
        (s.rangeRefused n d0 h1 h2 h3 = true → t.fmtRange n = mine none { e with d0 := putFld e.d0 62 62 1 }) ∧
        (s.rangeRefused n d0 h1 h2 h3 = false → t.fmtRange n = mine none { e with d0 := d0, d1 := h1, d2 := h2, d3 := h3 })) ∧
      held 1 (v.toNat % 2 ^ 48, h2, h3) { e with h1 := v.toNat % 2 ^ 48 } ∧ held 2 (h1, v.toNat % 256, h3) { e with h2 := v.toNat % 256 } ∧
      held 3 (h1, h2, v.toNat % 2 ^ 54) { e with h3 := v.toNat % 2 ^ 54 }) ∧
    (n < 4096 → ∃ t, writes (.routingTableWrite n v) (0x3f800500000 + n * 8) t ∧ { t with routes := s.routes } = s ∧
      Tab.get 0 t.routes n = (v &&& 0x8000000fffffffff).toNat ∧ ∀ m, m ≠ n → Tab.get 0 t.routes m = Tab.get 0 s.routes m) ∧
    writes (.pkgidWrite v) 0x3f800600000 (if s.pkgLock then s else { s with pkg := v.toNat % 4096 }) ∧
    writes (.plimitWrite v) 0x3f800600010 { s with plimit := max 800 (min 2600 (v.toNat % 4096)) } ∧
    writes (.scrubctlWrite v) 0x3f800600020 { s with scrubPeriod := if v.toNat % 256 = 0 then 24 else v.toNat % 256 } ∧
    (n < 4 →
      let a := v.toNat / 4 % 2 ^ 53 * 4
      (∃ t, writes (.sbootWrite n v) (0x3f800600300 + n * 16) t ∧ t.sbootOf n = a ∧ { t with sboot := s.sboot } = s) ∧
      ∃ t, writes (.strapWrite n v) (0x3f800600308 + n * 16) t ∧ t.trapEntry (4096 + n) = BitVec.ofNat 64 a ∧
        { t with strap := s.strap } = s) ∧
    exec (.throttleChange on now) s = .next { s with throttled := on, power := now % 4096 }

/-! ### Engine commands -/

/-- R222, R225, R226, R236: CPY, MCAST, STRM and GATH start a command in the lowest free slot and give its handle in g[d]; WAITP goes on
once that slot no longer holds that handle and takes exception 0x0C when the promised time has come first. `w` is the shape record; a
shape that fails its checks (R225) is a fault of the command, not of the instruction. A partial beat of the queue that a stream pushes into
is closed first, so that the queue needs a free slot for it (R231). R236: WAITP completes at once when the slot of its
handle does not hold that command; where the promised time has come it takes exception 0x0C with the handle, unless the command
completes in that cycle, and PROMISE_MISSED does so for a bank that waits. That SHAPE is reported before QUEUE is the model's reading
(assumption 25). -/
def Obligations.EngineCommands : Prop :=
  (∀ (s u : State) (d a b c : BitVec 5) (pa key kind w slot : Nat),
    s.ready [.g a.toNat, .g b.toNat, .g c.toNat] [.g d.toNat] = true → s.clear = true → s.b.freeEng = some slot →
    s.b.record = none → s.access .ldv (s.b.gpr a.toNat).toNat 64 0 = (.ok pa key kind, u) → u.plain pa = true →
    u.poisonAt (cellKey (clusterOf s.cur) (paLocal pa)) 64 = none →
    u.num (cellKey (clusterOf s.cur) (paLocal pa)) 64 = w →
    let q := recFld w 48 8 % 64
    let starts (i : Instr) (n : Nat) : Prop :=
      ∃ t, exec i s = .next t ∧ t.b.pc = s.b.pc + 4 ∧ Tab.get none t.b.eng slot = some s.b.seq ∧
        t.b.seq = (s.b.seq + 1) % 2 ^ 13 ∧ (∀ j, j ≠ d.toNat → t.b.gpr j = s.b.gpr j) ∧
        (d ≠ 0 → s.b.seq < 2 ^ 13 → slot < 8 →
          (t.b.gpr d.toNat).toNat / 2 ^ 61 = slot ∧ (t.b.gpr d.toNat).toNat / 2 ^ 48 % 2 ^ 13 = s.b.seq ∧
            (2 ≤ n → (t.b.gpr d.toNat).toNat % 2 ^ 48 = 2 ^ 48 - 1)) ∧
        (s.b.gpr b.toNat = 0 → ∀ y, t.byte y = u.byte y) ∧
        let cmd : Cmd :=
          { kind := n, who := s.cur, gid := s.gidOfBank s.cur, slot := slot, seq := s.b.seq,
            recVa := (s.b.gpr a.toNat).toNat, recPa := pa, recKey := key, word := w, bias := (s.b.gpr c.toNat).toNat,
            root := s.b.ctxroot.toNat, key := s.b.ctxkey.toNat, xtab := s.b.xtab.toNat,
            exts := u.extsOf (coreOf s.cur) s.b.xtab.toNat, user := !s.b.priv, row := recFld w 60 4, byte := recFld w 56 4,
            prow := recFld w 60 4, pbyte := recFld w 56 4, tc := s.tcOf s.cur, cont := s.b.cont }
        (cmd.shapeOk = false → t.b.sfaults = s.b.sfaults ++ [{ slot := slot, einfo := cmd.einfo { sub := 10 }, eaddr := 0 }] ∧
          t.cmds = s.cmds) ∧
        (cmd.shapeOk = true → n < 2 → s.b.gpr b.toNat = 0 → cmd.empty = false → t.cmd s.nextCmd = some cmd) ∧
        (cmd.shapeOk = true → 2 ≤ n → s.b.gpr b.toNat = 0 → cmd.empty = false →
          s.cur < 4096 → (s.queue (s.qk q)).dir = 1 → t.cmd s.nextCmd = some cmd ∧ t.b.packer q = none)
    starts (.cpy d a b c) 0 ∧ starts (.mcast d a b c) 1 ∧
    ((s.b.packer q = none ∨ (s.queue (s.qk q)).room ≠ 0) → starts (.strm d a b c) 2 ∧ starts (.gath d a b c) 3)) ∧
  (∀ (s : State) (d : BitVec 5), s.ready [.g d.toNat] [] = true → s.room = true →
    let w := (s.b.gpr d.toNat).toNat
    let busy : Prop := Tab.get none s.b.eng (w / 2 ^ 61) = some (w / 2 ^ 48 % 2 ^ 13)
    let due : Prop := w % 2 ^ 48 ≠ 2 ^ 48 - 1 ∧ (s.time + 2 ^ 48 - w % 2 ^ 48) % 2 ^ 48 < 2 ^ 47
    (¬ busy → ∃ t, exec (.waitp d) s = .next t ∧ t.b.pc = s.b.pc + 4 ∧ t.b.stat = s.b.stat ∧ Kept s t [] [] []) ∧
    let done := s.slotOver (w / 2 ^ 61) (w / 2 ^ 48 % 2 ^ 13)
    (busy → due → done = false → s.enters = true → Enters (.waitp d) s 0x0c w 0 s.b.pc) ∧
    (busy → ¬ due ∨ done = true → ∃ t, exec (.waitp d) s = .next t ∧ t.b.pc = s.b.pc ∧ t.b.g = s.b.g ∧ ∀ a, t.byte a = s.byte a)) ∧
  (∀ (s t : State) (r : Nat) (d : BitVec 5), s.select r = (.run (.waitp d), t) →
    let u : State := { t with cur := r }
    let w := (u.b.gpr d.toNat).toNat
    u.ready [.g d.toNat] [] = true → u.room = true → u.enters = true →
    Tab.get none u.b.eng (w / 2 ^ 61) = some (w / 2 ^ 48 % 2 ^ 13) → w % 2 ^ 48 ≠ 2 ^ 48 - 1 →
    (u.time + 2 ^ 48 - w % 2 ^ 48) % 2 ^ 48 < 2 ^ 47 → u.slotOver (w / 2 ^ 61) (w / 2 ^ 48 % 2 ^ 13) = false →
    ∃ v, exec (.promiseMissed r) s = .next v ∧ Entered u v 0x0c w 0 u.b.pc)

/-- R226 to R235: the moves of a command at its place. CPY and MCAST read up to the end of a line of the source or of the row, and write
what is here up to the end of a line of the destination or of the row, MCAST at one address of every cluster that its mask names (R228);
STRM and GATH read what is left of a line of the row (R229), GATH the index of the row before it (R230), and sixteen words of no format
range are a beat of W32 lanes; a read beat is pushed while its queue has room; a command with nothing left frees its slot; one that faults delivers
the fault. That a command has such a place, and the pieces in which it moves, are the model's reading (assumption 25): R227 gives the moves
no order, and a turn can name one beyond the place. -/
def Obligations.EngineMoves : Prop :=
  ∀ (s : State) (id : Nat) (c : Cmd), s.cmd id = some c →
    (s.choice / 2 ^ 16 = 0 → c.row < c.rows → c.byte < c.rowb →
      let cl := clusterOf c.who
      let moves (u : State) (x : Cmd) : Prop :=
        ∃ t, exec (.memoryRequestComplete (.engine id)) s = .next t ∧ (∀ y, t.byte y = u.byte y) ∧ (∀ r, t.bank r = s.bank r) ∧
          t.cmd id = some x
      let reads (u : State) (a n side pa key : Nat) : Prop :=
        ∃ k, s.engAccess id c .ldv cl a n side 0 = (.ok pa k, u) ∧ s.farBefore id c = false ∧ u.plain pa = true ∧
          paLocal pa % 4096 + n ≤ 4096 ∧ key = cellKey cl (paLocal pa) ∧ u.poisonAt key n = none
      let part (u : State) (n pa key : Nat) : Part := { n := n, v := u.num key n, pa := paLocal pa, range := u.rangeNo (paLocal pa) }
      (c.kind < 2 → c.wrote.contains (c.row, c.byte) = false →
        let d := (c.dstAt c.row + c.byte) % 2 ^ 64
        let m := c.pieceLen (c.dstAt c.row) c.byte
        let w := c.bytesOf c.row c.byte m 65
        (∀ (u : State) (b pa key : Nat), c.lack c.row c.byte (c.byte + m) 65 = some (b, none) →
          let n := c.pieceLen c.srcRow b
          reads u ((c.srcRow + b) % 2 ^ 64) n 0 pa key →
            moves u { c with reads := c.reads ++ [{ row := c.row, off := b, n := n, got := some (part u n pa key) }] }) ∧
        (c.lack c.row c.byte (c.byte + m) 65 = none → w.2 = 0 →
          (∀ (u : State) (pa k : Nat), c.kind = 0 → s.engAccess id c .stv cl d m 1 0 = (.ok pa k, u) → u.plain pa = true →
            paLocal pa % 4096 + m ≤ 4096 →
            ∃ t, exec (.memoryRequestComplete (.engine id)) s = .next t ∧ Stored u t (cellKey cl (paLocal pa)) m w.1 ∧
              (∀ r, t.bank r = s.bank r) ∧ t.cmd id = some (c.pass m)) ∧
          (∀ pa k, c.kind = 1 → c.exts.any (fun l => (findExt l d).isSome) = true → c.clusters ≠ [] →
            (∀ x ∈ c.clusters, s.engAccess id c .stv x.2 d m 1 x.1 = (.ok pa k, s)) → isScratch (paLocal pa) = true →
            paLocal pa % 4096 + m ≤ 4096 →
            ∃ t, exec (.memoryRequestComplete (.engine id)) s = .next t ∧ (∀ r, t.bank r = s.bank r) ∧ t.cmd id = some (c.pass m) ∧
              (∀ x ∈ c.clusters, ∀ j, j < m → t.byte (cellKey x.2 (paLocal pa) + j) = BitVec.ofNat 8 (w.1 / 256 ^ j)) ∧
              ∀ y, (∀ x ∈ c.clusters, y < cellKey x.2 (paLocal pa) ∨ cellKey x.2 (paLocal pa) + m ≤ y) → t.byte y = s.byte y))) ∧
      (2 ≤ c.kind → c.ended = false → c.byte % 4 = 0 →
        (∀ (u : State) (pa key : Nat), c.kind = 3 → c.idx = none →
          let a := (c.idxBase + c.row * c.idxW) % 2 ^ 64
          a % c.idxW = 0 → (c.reads.find? fun x => x.row == c.row && x.off == 2 ^ 32) = none → reads u a c.idxW 2 pa key →
            moves u { c with idx := some (u.num key c.idxW) }) ∧
        (c.kind = 2 ∨ c.idx.isSome = true → c.srcRow % 4 = 0 →
          let x := c.byte + 4 * c.words.length
          let a := (c.srcRow + x) % 2 ^ 64
          let n := min (64 - a % 64) (c.rowb - x)
          (∀ (u : State) (pa key : Nat), s.rowBeats c = none → (c.reads.find? fun z => z.row == c.row && z.off == x) = none →
            reads u a n 0 pa key → moves u { c with parts := c.parts ++ [part u n pa key] }) ∧
          (16 ≤ c.words.length → (∀ z ∈ c.words.take 16, z.range = none ∧ z.bad = false) → c.byte + 64 < c.rowb →
            ∃ b : Beat, moves s { c with
                pend := c.pend ++ [{ beat := b, bytes := 64, row := c.row, byte := c.byte + 64 }]
                byte := c.byte + 64, parts := dropBytes 64 c.parts, skip := 0, seg := some (c.byte + 64, none) } ∧
              ∀ i z, c.words[i]? = some z → i < 16 → b.tag i = 0 ∧ b.pk i = 2 ∧ b.lane i = z.v % 2 ^ 32)))) ∧
    (∀ p rest q, c.pushes = some q → c.pend = p :: rest →
      let k := queueKey c.gid q
      (s.queue k).dir = 1 → (s.queue k).room ≠ 0 → s.earlierStream id c = false →
      ∃ t, exec (.streamBeatPush id) s = .next t ∧
        t.cmd id = some { c with pend := rest, prow := p.row, pbyte := p.byte, count := c.count + p.bytes } ∧
        (∀ r, t.bank r = s.bank r) ∧ ∀ y, t.byte y = s.byte y) ∧
    (s.cmdOver id c = true → c.bar = none →
      ∃ t, exec (.engineComplete id) s = .next t ∧ t.cmd id = none ∧ (∀ y, t.byte y = s.byte y) ∧
        (c.detached = false → Tab.get none (t.bank c.who).eng c.slot = none ∧ (t.bank c.who).g = (s.bank c.who).g) ∧
        (c.detached = true → t.bank c.who = s.bank c.who) ∧ ∀ r, r ≠ c.who → t.bank r = s.bank r) ∧
    (∀ f : CFault, s.engTry id c = .fault f → c.pend = [] → c.bar = none → c.detached = false → f.sub ≠ 10 → f.sub ≠ 11 →
      s.own c.recPa = true → s.plain (c.recPa + 0x38) = true → (c.recPa + 0x38) % 4096 + 8 ≤ 4096 →
      ∃ t, exec (.engineFault id) s = .next t ∧ t.cmd id = none ∧
        Stored s t (cellKey (clusterOf c.who) (paLocal (c.recPa + 0x38))) 8 (c.prow * 2 ^ 32 + c.pbyte) ∧
        (t.bank c.who).sfaults = (s.bank c.who).sfaults ++ [{ slot := c.slot, einfo := c.einfo f, eaddr := f.va }] ∧
        bitAt (t.bank c.who).stat.toNat 16 = true ∧ (t.bank c.who).pc = (s.bank c.who).pc ∧
        ∀ r, r ≠ c.who → t.bank r = s.bank r)

/-! ### Remote operations -/

/-- R257 to R263, R270, R274, R254: RQRY asks the owner of a serial; a reply gives its value to the destination and ends the operation; a
refused request is sent again 20 µs later; an attempt is repeated with the next number, and after the sixth a serial-class operation is
HELD with its destination marked, unless a reply has come (R279); a channel that has been silent acknowledges; an open batch is closed
after 512 cycles. REASON 0 in the mark of a HELD destination is the model's reading (assumption 27). -/
def Obligations.RemoteOperations : Prop :=
  ∀ (s : State) (d a : BitVec 5) (m id : Nat) (x : Msg) (o : RemOp),
    let y := (s.b.gpr a.toNat).toNat
    let again (t : State) (o' : RemOp) : Prop := t.rop id = some o' ∧ (∀ j, j ≠ id → t.rop j = s.rop j) ∧ ∀ k, t.byte k = s.byte k
    (s.ready [.g a.toNat] [.g d.toNat, .g a.toNat] = true → s.room = true →
      let asks (inc : Nat) : Prop :=
        ∃ t, exec (.rqry d a) s = .next t ∧ t.b.pc = s.b.pc + 4 ∧ (∀ j, t.b.gpr j = s.b.gpr j) ∧
          t.rop s.nextOp = some
            { who := s.cur, kind := 9, pkg := y / 2 ^ 32 % 2 ^ 12, dsts := [.g d.toNat 8 false, .g a.toNat 8 false],
              body := .rqry (y % 2 ^ 32), oinc := inc, sentAt := s.time, born := s.nextCmd, tc := s.tcOf s.cur } ∧
          ∀ k, t.byte k = s.byte k
      let slot := (s.slotsOf s.cur).find? fun e => e.2.serial == some (y % 2 ^ 32)
      (slot = none → asks (Tab.get 0 s.oincs (y / 2 ^ 32 % 2 ^ 12))) ∧
        ∀ e, slot = some e → e.2.held.isSome = true → asks e.2.oinc) ∧
    (∀ (v r n bad : Nat), s.inbox[m]? = some x → x.body = .reply (.value v none bad) → s.rop x.op = some o → o.pkg = x.src →
      o.held = none → o.serial = x.serial → (o.serial = none ∨ x.oinc = o.oinc) → o.late x = false → (∀ q, o.body ≠ .rqry q) → o.eng = none →
      o.record = false → o.dsts = [.g r n false] → r ≠ 0 → (s.bank o.who).blocked = none → (s.bank o.who).batches = [] →
      ∃ t, exec (.remoteReply m) s = .next t ∧ t.rop x.op = none ∧ t.inbox = dropNth s.inbox m ∧
        (t.bank o.who).gpr r = BitVec.ofNat 64 (v % 2 ^ (8 * n)) ∧ (t.bank o.who).mark (.g r) = none ∧
        (∀ j, j ≠ r → (t.bank o.who).gpr j = (s.bank o.who).gpr j) ∧ (t.bank o.who).pc = (s.bank o.who).pc ∧
        Tab.get 0 t.oincs o.pkg = x.oinc ∧ (∀ q, q ≠ o.who → t.bank q = s.bank q) ∧ ∀ k, t.byte k = s.byte k) ∧
    (∀ t0, s.rop id = some o → o.busy = some t0 → o.held = none → t0 + 20000 ≤ s.time →
      ∃ t, exec (.busyResend id) s = .next t ∧
        again t { o with busy := none, sends := o.sends + 1, sentAt := s.time }) ∧
    (s.rop id = some o → o.held = none → o.busy = none → s.replied id o = false → o.attempt < 6 →
      o.sentAt + 20000 * 2 ^ (o.attempt - 1) ≤ s.time →
      ∃ t, exec (.retransmitTimer id) s = .next t ∧
        again t { o with attempt := o.attempt + 1, sends := o.sends + 1, sentAt := s.time }) ∧
    (∀ (r n : Nat) (sx : Bool), s.rop id = some o → o.held = none → o.busy = none → s.replied id o = false → o.attempt = 6 →
      o.sentAt + 640000 ≤ s.time → o.serial.isSome = true → o.dsts = [.g r n sx] → r ≠ 0 →
      (s.chan o.who).reserved = none → (s.bank o.who).blocked = none →
      ∃ t, exec (.retransmitExhausted id) s = .next t ∧ again t { o with held := some 9 } ∧
        (t.bank o.who).mark (.g r) = some { reason := 0, va := BitVec.ofNat 64 o.va } ∧
        bitAt (t.bank o.who).stat.toNat 17 = true ∧
        (t.bank o.who).rfaults = (s.bank o.who).rfaults ++ [{ cause := 9, einfo := o.einfo, eaddr := o.va, order := id }]) ∧
    (∀ (r n : Nat) (sx : Bool), s.rop id = some o → o.held = none → o.busy = none → s.replied id o = false → o.attempt = 6 →
      o.sentAt + 640000 ≤ s.time → o.serial = none → o.eng = none → o.record = false → o.dsts = [.g r n sx] → r ≠ 0 →
      (s.chan o.who).reserved = none →
      ∃ t, exec (.retransmitExhausted id) s = .next t ∧ t.rop id = none ∧
        (t.bank o.who).mark (.g r) = some { reason := 0, va := BitVec.ofNat 64 o.va } ∧
        (t.bank o.who).rfaults = (s.bank o.who).rfaults ++ [{ cause := 9, einfo := o.einfo, eaddr := o.va, order := id }]) ∧
    (∀ r, (s.chan r).sentAt + 100000 ≤ s.time → (s.chan r).owed.any (fun e => e.2 != s.ackt r) = true →
      ∃ t, exec (.ackMessageSend r) s = .next t ∧ (t.chan r).owed = (s.chan r).owed.filter (fun e => e.2 == s.ackt r) ∧
        (t.chan r).sentAt = s.time ∧ (∀ q, t.bank q = s.bank q) ∧
        ∀ e ∈ (s.chan r).owed, e.2 ≠ s.ackt r → e.1 ≠ s.pkg → s.usablePorts e.1 ≠ [] → ∃ p n,
          (p, n) ∈ t.outbox ∧ n.dst = e.1 ∧ n.body = MsgBody.ack ∧ n.ackt = s.ackt r) ∧
    (∀ (r n : Nat) (z : Batch), (s.bank r).batches[n]? = some z → z.closed = false → z.age + 512 ≤ s.cycle →
      (s.bank r).batches.all (fun w => !w.closed) = true → s.batchBusy r z = false → s.serialGo r 1 = .ok →
      ∃ t, exec (.batchTimerClose r n) s = .next t ∧
        (t.rop s.nextOp).map (fun w => (w.pkg, w.kind, w.body, w.serial)) = some (z.pkg, 6, .batch z.pairs, some (s.chan r).next) ∧
        (t.bank r).batches = dropNth (s.bank r).batches n)

/-! ### The owner of remote lines -/

/-- R267, R268, R274: the owner executes a serial once, keeps its result and answers it, under the kind of its operation (R269); an
acknowledgement moves the FLOOR and frees the entries at or below it; RQRY makes a serial that has not executed VOID; reads are served
without an entry; a FLOOR alone expires. -/
def Obligations.OwnerOfRemoteLines : Prop :=
  ∀ (s : State) (m : Nat) (x : Msg),
    let kinds (k : OwnKind) (n : Nat) : Option OwnEntry :=
      s.owner.find? fun e => e.kind == k && e.rcid == x.rcid && e.svc == x.svc && e.serial == n
    let fresh : Prop := x.age ≤ 1500000 ∧ x.oinc = s.oinc
    let reply (t : State) (r : RemReply) : Prop :=
      ∃ n : Msg, n.dst = x.src ∧ n.op = x.op ∧ n.serial = x.serial ∧ n.body = .reply r ∧
        (x.src = s.pkg → t.inbox = dropNth s.inbox m ++ [n]) ∧
        (x.src ≠ s.pkg → t.inbox = dropNth s.inbox m ∧ (s.usablePorts x.src ≠ [] → ∃ p, (p, n) ∈ t.outbox))
    let same : Prop := s.owner.all (fun e => !(rcidPkg e.rcid == rcidPkg x.rcid && rcidInc e.rcid != rcidInc x.rcid)) = true
    s.inbox[m]? = some x →
    (∀ (f : OwnEntry) (n a v key kind : Nat), x.body = .request (.write a 8 v key kind) → x.serial = some n → s.inLog a = false →
      s.lineFirst m (.write a 8 v key kind) = false → fresh → same → s.floorOf x = some f → f.serial = x.ackt →
      serialLe n f.serial = false → kinds .void n = none → isTier a = true → s.regionAt (a / 4096 * 4096) = none → a % 8 = 0 →
      (kinds .result n = none → s.ownerFree x.rcid = true →
        ∃ t, exec (.ownerSerialRequest m) s = .next t ∧ Stored s t a 8 v ∧
          ({ kind := .result, op := kind, rcid := x.rcid, svc := x.svc, serial := n } : OwnEntry) ∈ t.owner ∧
          reply t (.value 0 none)) ∧
      (∀ e, kinds .result n = some e →
        ∃ t, exec (.ownerSerialRequest m) s = .next t ∧ (∀ k, t.byte k = s.byte k) ∧
          reply t (.value e.result e.poison))) ∧
    (∀ f, x.body = .ack → fresh → same → s.floorOf x = some f → f.serial ≠ x.ackt → serialLe f.serial x.ackt = true →
      ∃ t, exec (.ownerAckMessage m) s = .next t ∧ t.inbox = dropNth s.inbox m ∧ (∀ k, t.byte k = s.byte k) ∧
        ∀ e, e ∈ t.owner ↔ (e ∈ s.owner ∧ ¬ (e.rcid = x.rcid ∧ e.svc = x.svc)) ∨
          (e ∈ s.owner ∧ e.kind ≠ .floor ∧ serialLe e.serial x.ackt = false) ∨
          ∃ g ∈ s.owner, g.kind = .floor ∧ g.rcid = x.rcid ∧ g.svc = x.svc ∧
            e = { g with serial := x.ackt, stamp := s.time / 1000 % 2 ^ 32 }) ∧
    (∀ n, x.body = .request (.rqry n) → fresh →
      (∀ e, kinds .result n = some e →
        ∃ t, exec (.ownerRqry m) s = .next t ∧ t.owner = s.owner ∧ reply t (.rqry 1 e.result e.poison)) ∧
      (kinds .result n = none → (kinds .void n).isSome = true →
        ∃ t, exec (.ownerRqry m) s = .next t ∧ t.owner = s.owner ∧ reply t (.rqry 0 0 none)) ∧
      (kinds .result n = none → kinds .void n = none → s.floorOf x = none → s.ownerFree x.rcid = true →
        ∃ t, exec (.ownerRqry m) s = .next t ∧ reply t (.rqry 0 0 none) ∧
          t.owner = s.owner ++ [{ kind := .void, op := 9, rcid := x.rcid, svc := x.svc, serial := n }])) ∧
    (∀ a n, x.body = .request (.read a n) → s.lineFirst m (.read a n) = false → x.age ≤ 1500000 → isTier a = true → s.inLog a = false →
      a % 64 + n ≤ 64 → 1 ≤ n → s.regionAt (a / 4096 * 4096) = none → s.poisonAt a n = none →
      ∃ t, exec (.ownerReadRequest m) s = .next t ∧ t.mem = s.mem ∧ t.owner = s.owner ∧
        reply t (.value (s.num a n) none)) ∧
    (∀ (n : Nat) (f : OwnEntry), s.owner[n]? = some f → f.kind = .floor →
      1500 ≤ (s.time / 1000 % 2 ^ 32 + 2 ^ 32 - f.stamp) % 2 ^ 32 →
      s.owner.any (fun e => e.kind != .floor && e.rcid == f.rcid && e.svc == f.svc) = false →
      ∃ t, exec (.floorExpire n) s = .next t ∧ t.owner = dropNth s.owner n ∧ { t with owner := s.owner } = s)

/-! ### Queues and chains between instructions -/

/-- R291, R312, R289, R307, R310, R311: a stalled queue instruction proceeds as it would now; the consumer of an OPEN chain takes the beat
that is next in sequence, and into its replay buffer the one that is next to be replayed; the producer drops from OCC what the consumer's
graph has taken and learns its credits; each time that its timer runs out it begins the next attempt, and it keeps its consumer informed; a
chain that one end gives up is a graph fault CHAIN there. What the acknowledged sequence number and the credits tell the producer of the
beats that have left OCC, and the buffer of the consumer in which the replayed beats arrive, are the model's reading (assumption 31). -/
def Obligations.StallAndChainEvents : Prop :=
  ∀ (s : State) (r m k : Nat) (x : Msg) (a : BitVec 5) (q : BitVec 6) (v : BitVec 4) (w : BitVec 1) (p : BitVec 4) (e f h : BitVec 3)
    (mk : BitVec 8) (mode : BitVec 2) (o : BitVec 16) (lit : BitVec 32) (z : QStall) (co : ChainOut) (ci : ChainIn),
    let goes (op : QOp) (i : Instr) : Prop := z.op = op →
      ∃ t, exec (.queueStallEnd r) s = .next t ∧ exec i { s with cur := r } = .next t
    let y := s.queue k
    let fails (t : State) : Prop := (t.queue k).cout = none ∧ (t.queue k).cin = none ∧
      ((s.group (k / 64)).fault = none → (t.group (k / 64)).fault = some (s.chainPage k, 0x0b))
    ((s.bank r).stalled.isSome = true → (s.bank r).stall = some z → s.canIssue r = true → (s.trapDue r).isNone = true →
      z.parks = true → s.stallReady r = true →
      goes (.spop a.toNat q.toNat) (.spop a q) ∧ goes (.spush a.toNat q.toNat (w == 1) p.toNat) (.spush a q w p) ∧
        goes (.vpush v.toNat q.toNat e.toNat (w == 1) p.toNat) (.vpush v q e w p) ∧ goes (.qflush q.toNat) (.qflush q) ∧
        goes (.vpop v.toNat q.toNat e.toNat f.toNat h.toNat) (.vpop v q e f h) ∧ goes (.bqb a.toNat (o.signExtend 64 * 4)) (.bqb a o) ∧
        goes (.mpush a.toNat q.toNat mk.toNat) (.mpush a q mk) ∧
        goes (.mpushLit q.toNat (lit.toNat / 2 ^ 24) (lit.toNat % 2 ^ 24)) (.xq q lit) ∧
        goes (.qwait a.toNat q.toNat mode.toNat) (.qwait a q mode)) ∧
    (∀ sq d t pk, s.inbox[m]? = some x → x.body = .chainBeat sq d t pk → s.chainEnd x false = some k → y.cin = some ci → s.chainOpen k = true →
      let b : Beat := { data := d, tags := t, pack := pk }
      let next : Prop := 0 < ci.again ∧ sq = ci.next
      ∃ t', exec (.chainBeatReceive m) s = .next t' ∧
        (next → (t'.queue k).replay = y.replay ++ [if ci.again = ci.wlen then b.fromTsm else b] ∧ (t'.queue k).beats = y.beats ∧
          (t'.queue k).cin = some { ci with again := ci.again - 1, next := (ci.next + 1) % 2 ^ 32, heardAt := s.time }) ∧
        (¬ next → (t'.queue k).replay = y.replay ∧
          (sq = ci.seq → y.occ < 64 → (t'.queue k).beats = y.beats ++ [b] ∧
            (t'.queue k).cin = some { ci with seq := (ci.seq + 1) % 2 ^ 32, heardAt := s.time }) ∧
          (sq ≠ ci.seq → (t'.queue k).beats = y.beats ∧ (t'.queue k).cin = some { ci with heardAt := s.time }))) ∧
    (∀ n c, s.inbox[m]? = some x → x.body = .chainAck n c → s.chainEnd x true = some k → y.cout = some co → s.chainOpen k = true →
      serialLe co.acked n = true → serialLe n co.seq = true → serialLe co.limit ((n + c) % 2 ^ 32) = true →
      let base := ((n + c) % 2 ^ 32 + 2 ^ 32 - 64) % 2 ^ 32
      serialLe co.base base = true →
      ∃ t, exec (.chainAckReceive m) s = .next t ∧ (t.queue k).beats = y.beats.drop ((base + 2 ^ 32 - co.base) % 2 ^ 32) ∧
        (t.queue k).cout.map (fun o => (o.acked, o.limit)) = some (n, (n + c) % 2 ^ 32)) ∧
    (y.cout = some co → s.chainOpen k = true → s.chainLate co = true → co.attempt < 6 →
      ∃ t, exec (.chainRetransmit k) s = .next t ∧
        t.queue k = { y with cout := some { co with attempt := co.attempt + 1, sentAt := s.time, beatAt := s.time } }) ∧
    (y.cout = some co → s.chainOpen k = true → s.chainLate co = true → 6 ≤ co.attempt →
      ∃ t, exec (.chainRetransmitExhausted k) s = .next t ∧ fails t) ∧
    (y.cout = some co → s.chainOpen k = true → co.beatAt + 100000 ≤ s.time →
      ∃ t, exec (.chainKeepalive k) s = .next t ∧ t.queue k = { y with cout := some { co with beatAt := s.time } }) ∧
    (y.cin = some ci → ci.heardAt + 1500000 ≤ s.time →
      ∃ t, exec (.chainConsumerTimeout k) s = .next t ∧ fails t) ∧
    (s.inbox[m]? = some x → x.body = .chainFault → s.chainEnd x false = some k →
      ∃ t, exec (.chainFaultNotice m) s = .next t ∧ fails t)

/-! ### Fabric pages -/

/-- R317, R318, R328, R346, R349: a stage sends the output beat that it holds to every destination of its route; with its inputs there its
node fires once, which PAGE_FIRINGS counts: the beats that it takes leave their arcs, its first output beat goes to its route (that of
BQOUT into bq too) and the others stay behind it; or it raises its graph fault. A scratch unit makes the step of its mode: the beats that
it takes leave their arcs, and its output goes to DOUT or to the array that it feeds. The Ochre token puts
the first packet that has waited 64 cycles at its switch for a link, and finds the lane's buffer for that link free, onto the escape lane, which
is counted, and moves to the next switch; a packet on the lane passes its link. The first two are said of a page whose edge ports and
network have nothing to do, with one entry for each arc; the order of the token and the links of a die are the model's choice (assumption 22). -/
def Obligations.FabricEvents : Prop :=
  ∀ (s : State) (p u n d : Nat) (x : Page), s.page p = some x → s.graphRuns x.gid = true → s.pump p = s → u < 8 →
    (∀ e ∈ s.arcs, s.arc e.1 = e.2) →
    let t := x.stage u n
    let w := t.word
    let done (i : Instr) (f : State → Page → Prop) : Prop :=
      ∃ v y, exec i s = .next (s.noteMoved (v.pump p) p) ∧ v.page p = some y ∧ f v y
    let leaves (b : Beat) : Beat := if b.has 1 || b.has 4 then emptyBeat else b
    (n < 6 → cOpc w ≠ 0 → cOpc w ≠ 0xff →
      (∀ g b l, t.out = (g, b) :: l → s.routesRoom p u n w g = true →
        done (.stageFire p u n) fun v y => (y.stage u n).out = l ∧ (y.stage u n).core.self = leaves b ∧
          (0 ∈ routesOf w g → (y.stage u (nextStage n w)).inreg = some b) ∧ ArcsMove s v [] (s.routeArcs p u w g) b) ∧
      (t.out = [] → s.routesRoom p u n w 0 = true →
        (cOpc w = 0x43 → s.bqRoom x.gid = true ∧ ∀ h, s.stageSrc p x u n 0 = .stream (some h) → h.has 5 = false) →
        rcfCheck (streamHeads ((List.range 3).map (s.stageSrc p x u n))) t.core.ended = .none →
        (∀ a b c core out ops, nodeStep w t.core (s.stageSrc p x u n 0, s.stageSrc p x u n 1, s.stageSrc p x u n 2) = .go a b c core out ops →
          x.checked = false →
          let takes (k : Nat) : Prop := (a = true ∧ cSrc w 0 = k) ∨ (b = true ∧ cSrc w 1 = k) ∨ (c = true ∧ cSrc w 2 = k)
          let bq := queueKey x.gid 63
          done (.stageFire p u n) fun v y =>
            { (y.stage u n).core with self := core.self, ended := core.ended } = core ∧ (y.stage u n).word = w ∧
            Tab.get 0 v.events (3 * 2 ^ 24 + p * 2 ^ 8) = (Tab.get 0 s.events (3 * 2 ^ 24 + p * 2 ^ 8) + 1) % 2 ^ 64 ∧
            (y.stage u n).out = out.drop 1 ∧ (y.stage u n).inreg = (if takes 1 then none else t.inreg) ∧
            (takes 4 → x.ma.isSome = true → Tab.get none y.drains u = none) ∧
            (∀ h, cOpc w = 0x43 → s.stageSrc p x u n 0 = .stream (some h) → (s.queue bq).discard = 0 →
              (v.queue bq).beats = (s.queue bq).beats ++ [h.noScale]) ∧
            (out = [] → (y.stage u n).core.self = core.self ∧ ArcsMove s v (x.takenArcs p u w [a, b, c]) [] emptyBeat) ∧
            ∀ g z l, out = (g, z) :: l → (y.stage u n).core.self = leaves z ∧
              (0 ∈ routesOf w g → (y.stage u (nextStage n w)).inreg = some z) ∧
              ArcsMove s v (x.takenArcs p u w [a, b, c]) (s.routeArcs p u w g) z) ∧
        (∀ c, nodeStep w t.core (s.stageSrc p x u n 0, s.stageSrc p x u n 1, s.stageSrc p x u n 2) = .fault c →
          done (.stageFire p u n) fun v _ => (v.group x.gid).fault = some (p, c) ∧ (v.group x.gid).st = .faulted))) ∧
    (let r := x.unit u
     let din := s.arcHead p (64 + 4 * u)
     let kin := s.arcHead p (65 + 4 * u)
     let sends (v : State) (y : Page) (taken : List Nat) (out : List Beat) : Prop :=
       (out = [] → (y.unit u).out = [] ∧ ArcsMove s v taken [] emptyBeat) ∧
         ∀ b l, out = b :: l →
           (∀ k z, uFeed r.word = false → s.arcOut p (66 + 4 * u) = some (k, z) → s.arcRoom k z = true →
             (y.unit u).out = l ∧ ArcsMove s v taken [k] b) ∧
           (∀ m m', uFeed r.word = true → s.errWaits x.gid = false → x.ma = some m → m.feed u b = .ok m' →
             (y.unit u).out = l ∧ y.ma = some m' ∧ ArcsMove s v taken [] b)
     uMode r.word ≠ 0 → s.choice = 0 →
      (r.out ≠ [] → (uFeed r.word = true → s.errWaits x.gid = false ∧ ∃ m m' b, x.ma = some m ∧ r.out.head? = some b ∧ m.feed u b = .ok m') →
        done (.scratchUnitCycle p u) fun v y => (y.unit u).core = r.core ∧ sends v y [] r.out) ∧
      (r.out = [] → rcfCheck (if uMode r.word = 5 then [(0, din), (1, kin)] else [(0, din)]) r.core.ended = .none →
        (∀ td tk c log out, unitStep r (s.unitRoom p x u) din kin = .go td tk c log out →
          (uFeed r.word = true → ∀ b l, out = b :: l → s.errWaits x.gid = false ∧ ∃ m m', x.ma = some m ∧ m.feed u b = .ok m') →
          done (.scratchUnitCycle p u) fun v y => { (y.unit u).core with ended := c.ended } = c ∧ (y.unit u).word = r.word ∧
            sends v y ((if td then [arcKey p (64 + 4 * u)] else []) ++ if tk then [arcKey p (65 + 4 * u)] else []) out) ∧
        (∀ c, unitStep r (s.unitRoom p x u) din kin = .fault c →
          done (.scratchUnitCycle p u) fun v _ => (v.group x.gid).fault = some (p, c)))) ∧
    (d < 8 →
      let o := Tab.get 0 s.ochre d
      let rides (y : Packet) : Prop := y.page / 18 = d ∧ y.arrived = false ∧ y.lane = true
      let due (y : Packet) : Prop := y.page = d * 18 + o ∧ y.arrived = false ∧ y.lane = false ∧ y.since + 64 ≤ s.cycle ∧
        ∀ z ∈ s.net, z.lane = true → z.arrived = false → z.link ≠ y.link
      ∃ v, exec (.ochreTokenStep d) s = .next v ∧ Tab.get 0 v.ochre d = (o + 1) % 18 ∧
        ((∀ y ∈ s.net, ¬ rides y) → ((∀ y ∈ s.net, ¬ due y) → { v with ochre := s.ochre } = s) ∧
          ∀ l y r, s.net = l ++ y :: r → (∀ z ∈ l, ¬ due z) → due y →
            v.net = l ++ { y with lane := true } :: r ∧ { v with ochre := s.ochre, net := s.net, events := s.events } = s ∧
              Tab.get 0 v.events (4 * 2 ^ 24 + d * 2 ^ 8) = (Tab.get 0 s.events (4 * 2 ^ 24 + d * 2 ^ 8) + 1) % 2 ^ 64) ∧
        ∀ l y r, s.net = l ++ y :: r → (∀ z ∈ l ++ r, ¬ rides z) → rides y →
          let goal := nextSwitch y.page (y.arc / 128)
          let z : Packet := { y with page := goal, since := s.cycle, arrived := goal == y.arc / 128 }
          (z.arrived = true ∨ ∀ k ∈ l ++ r, k.lane = true → k.arrived = false → k.link ≠ z.link) → z ∈ v.net)

/-- R356 to R362, R366 to R368: a matrix array with all its slabs staged starts a fire into an EMPTY or OPEN buffer; the fire applies its
accumulations 32 cycles later, a shadow fire that the part computes right 96 cycles later; a marker at every feed closes the buffer that it
is to close and goes behind it; a draining buffer sends row after row, one in error an ERR marker, and is EMPTY afterwards; an
uncorrectable error waits for a fire of its group to end, and then rolls the group back or is the graph fault REPLAY. When a group cannot be
rolled back, what a rollback keeps, and that no marker step comes while one waits, are the model's reading (assumption 30). -/
def Obligations.MatrixEvents : Prop :=
  ∀ (s : State) (p n : Nat) (x : Page) (m : Matrix), s.page p = some x → x.ma = some m → s.graphRuns x.gid = true →
    let d := if aBuf m.word = 2 then m.nextbuf else aBuf m.word
    let b := m.buf d
    let does (i : Instr) (f : Page → Matrix → Prop) : Prop :=
      ∃ t y k, exec i s = .next t ∧ t.page p = some y ∧ y.ma = some k ∧ f y k
    (s.errWaits x.gid = false → aMma m.word = true → m.fire = none →
      m.staged.all (fun l => l.length == if aForm m.word = 5 then 40 else 32) = true → b.st ≤ 1 →
      does (.matrixFireStart p) fun _ k => k.fire.map (fun f => (f.slabs, f.buf, f.at')) = some (m.staged, d, s.cycle) ∧
        k.staged.all (·.isEmpty) = true ∧ (k.buf d).st = 1 ∧ (b.st = 1 → k.buf d = b) ∧
        (b.st = 0 → (k.buf d).acc = [] ∧ (k.buf d).int = (aForm m.word == 6))) ∧
    (∀ f, s.errWaits x.gid = false → m.fire = some f → f.at' + (if f.shadow then 96 else 32) ≤ s.cycle → (f.shadow = true → s.choice = 0) →
      does (.matrixFireEnd p) fun _ k => k.fire = none ∧ k.buf f.buf = (m.buf f.buf).fired m.word f.slabs) ∧
    (∀ k, s.errWaits x.gid = false → m.fire = none → m.marks.all Option.isSome = true → m.marks.getD (if aHalf m.word then 4 else 0) none = some k →
      k.code ≠ 4 →
      does (.matrixMarkerStep p) fun _ j => j.marks.all Option.isNone = true ∧ j.items.getLast? = some (.mark k.code k.arg) ∧
        (aMma m.word = true → k.code = aClose m.word → b.st = 1 → 2 ≤ (j.buf d).st ∧ (j.buf d).acc = b.acc) ∧
        ((aMma m.word = false ∨ k.code ≠ aClose m.word) → (j.buf d).acc = b.acc)) ∧
    (x.receivers.all (fun u => (Tab.get none x.drains u).isNone) = true →
      (∀ l, m.items = .buf n :: l → (m.buf n).st = 3 →
        does (.matrixDrainRow p n) fun y k =>
          (∀ u ∈ x.receivers, Tab.get none y.drains u = some (if (m.buf n).err then markBeat 5 1 else (m.buf n).row m.drow u)) ∧
          ((m.buf n).err = false → m.drow ≠ 127 → k.drow = m.drow + 1 ∧ k.buf n = m.buf n) ∧
          ((m.buf n).err = true ∨ m.drow = 127 → k.buf n = {} ∧ k.items = l)) ∧
      (∀ c a l, m.items = .mark c a :: l →
        does (.matrixDrainRow p n) fun y k => k.items = l ∧ ∀ u ∈ x.receivers, Tab.get none y.drains u = some (markBeat c a))) ∧
    (s.choice ≠ 1 →
      let stuck : Prop := ∃ e ∈ s.pages, ∃ y, e.2 = some y ∧ y.gid = x.gid ∧ y.stuck = true
      let lost : Prop := ∃ q, q < 64 ∧ (s.queue (queueKey x.gid q)).dir = 1 ∧ (s.queue (queueKey x.gid q)).cout = none ∧
        bitAt (s.queue (queueKey x.gid q)).d0 60 = true
      ∃ t, exec (.matrixUncorrectableError p) s = .next t ∧
        (s.firing x.gid = true → t.page p = some { x with ma := some { m with err := some (m.err.getD false) } } ∧
          ∀ q, q ≠ p → t.page q = s.page q) ∧
        (s.firing x.gid = false → stuck ∨ lost → (t.group x.gid).fault = some (p, 0x0a)) ∧
        (s.firing x.gid = false → ¬ stuck → ¬ lost → t.page p = some x.rollback ∧
          ∀ g, { t.group g with moved := 0 } = { s.group g with moved := 0 }))

/-! ### Launches and groups -/

/-- R414 to R416, R419: the scheduler takes the record at HEAD of a known leaf; the launch waits for its semaphore, is staged, is READY,
and after its last group is done gives its signal. A record outside its limits or a bad working set ends it FAULTED. An RCB that no longer
has LEAF = 1 is not known any longer (assumption 74); a record outside the tiers of this package, or in a spill log, is not read and its launch
FAULTED (assumption 72). -/
def Obligations.LaunchEvents : Prop :=
  ∀ (s t0 : State) (leaf lid : Nat),
    let l := s.launch lid
    (s.leaves.contains leaf = true → s.leafFree leaf = true → (s.sem (s.doorbell leaf)).count ≠ 0 → (s.leafRead leaf).isLeaf leaf = false →
      ∃ t, exec (.launchTake leaf) s = .next t ∧ leaf ∉ t.leaves ∧ t.launches = s.launches ∧ t.sems = s.sems) ∧
    (s.leaves.contains leaf = true → s.leafFree leaf = true → (s.sem (s.doorbell leaf)).count ≠ 0 → (s.leafRead leaf).isLeaf leaf = true →
      (s.leafRead leaf).useLeaf leaf = (true, t0) → t0.settled →
      s.launches.all (fun e => e.2.st != .completing) = true →
      let head := t0.num (paLocal leaf + 0x6c) 4
      let tail := t0.num (paLocal leaf + 0x68) 4
      let n := s.nextLid
      let place := t0.rcb leaf 11 / 64 * 64 + head % 2 ^ min (t0.rcb leaf 12 % 32) 16 * 64
      let slot := paLocal place
      let x : Launch := { leaf := leaf, rcd := t0.num slot 64 }
      (t0.sem (t0.doorbell leaf)).count ≠ 0 → head ≠ tail →
      ∃ t, exec (.launchTake leaf) s = .next t ∧ t.nextLid = (n + 1) % 2 ^ 32 ∧
        (t0.recPlace place = true → t0.anyPoison slot 64 2 = false → t0.badLaunch x = false →
          t.launch n = x ∧ (t.sem (t0.doorbell leaf)).count = (t0.sem (t0.doorbell leaf)).count - 1 ∧
            Stored t0 t (paLocal leaf + 0x6c) 4 ((head + 1) % 2 ^ 32)) ∧
        (t0.recPlace place = false ∨ t0.anyPoison slot 64 2 = true ∨ t0.badLaunch x = true → (t.launch n).st = .faulted)) ∧
    (l.rcd ≠ 0 → l.st = .taken →
      (bitAt l.wait 8 = false ∨ l.wait / 2 ^ 32 % 2 ^ 32 ≤ (s.sem (s.windowSem l.leaf (l.wait % 2 ^ 8))).count) →
      ∃ t, exec (.launchWaitMet lid) s = .next t ∧ t.launch lid = { l with st := .staging } ∧ { t with launches := s.launches } = s) ∧
    (l.st = .staging →
      (l.wset = 0 → ∃ t, exec (.stagingComplete lid) s = .next t ∧ (t.launch lid).st = .ready ∧
        (t.launch lid).order = s.cycle ∧ ∀ y, t.byte y = s.byte y) ∧
      (∀ es, s.staging l = (.ok es, t0) →
        ∃ t, exec (.stagingComplete lid) s = .next t ∧ (t.launch lid).st = .ready ∧ (∀ y, t.byte y = t0.byte y) ∧
          (t.launch lid).backs = (es.filter (·.back)).map fun x => (x.dst, x.src, x.len)) ∧
      (∀ e, s.staging l = (.error e, t0) →
        ∃ t, exec (.stagingFault lid) s = .next t ∧ (t.launch lid).st = .faulted)) ∧
    (l.st = .running → (List.range l.g).all (fun i => (s.group (gidOf lid i)).st == .done) = true → l.backs = [] → l.succ = 0 →
      (∀ m, l.image = some m → m.succ = []) →
      ∃ t, exec (.launchComplete lid) s = .next t ∧ (t.launch lid).st = .done ∧
        (bitAt l.sig 8 = true →
          let n := s.windowSem l.leaf (l.sig % 2 ^ 8)
          Signalled s t n (min ((s.sem n).count + l.sig / 2 ^ 32 % 2 ^ 32) (2 ^ 32 - 1))) ∧
        (bitAt l.sig 8 = false → ∀ n, t.sem n = s.sem n))

/-- R18, R420 to R424, R428, R430: a group that is due and fits is placed and becomes RESIDENT with its initial continuations READY; an idle
group is parked while another waits for pages and is placed again when it is wanted; a saved group is PARKED or PREEMPTED; a group whose
work is over is DONE and returns its pages and queues. That a PARKED group becomes DONE where the conditions of R18 hold of it is the model's
reading (assumption 43). -/
def Obligations.GroupEvents : Prop :=
  ∀ (s : State) (lid g c p a r : Nat) (m : Image) (f : Fit) (ps : List Nat),
    let gid := gidOf lid g
    let x := s.group gid
    let l := s.launch lid
    let only (t : State) : Prop := (∀ q, t.bank q = s.bank q) ∧ (∀ y, t.byte y = s.byte y) ∧ ∀ h, h ≠ gid → t.group h = s.group h
    let t0 := s.readsImage l
    (s.nextGroup lid = some g → t0.imageOf l = .ok m → t0.fit lid g m = some f → f.home = c → f.pages.head? = some p →
      t0.launchDue lid = true → x.restore = false →
      ∃ t, exec (.groupPlace lid g c p) s = .next t ∧ (∀ q, t.bank q = s.bank q) ∧ (∀ y, t.byte y = t0.byte y) ∧
        (s.settled → ∀ y, t0.byte y = s.byte y) ∧ (∀ h, h ≠ gid → t.group h = s.group h) ∧ (t.group gid).st = .placing ∧ (t.group gid).home = some c ∧
        (t.group gid).pages = f.pages ∧ (t.launch lid).placed = g + 1 ∧
        (t.launch lid).st = if g + 1 = l.g then .running else .dispatching) ∧
    (x.st = .placing →
      ∃ t, exec (.groupConfigAck lid g) s = .next t ∧ (t.group gid).st = .resident ∧ (t.group gid).restore = false ∧
        (∀ q, t.bank q = s.bank q) ∧
        (x.placedOnce = false → ∀ i, i < (s.launch x.lid).t →
          let k := t.cont (contId gid i)
          k.st = .ready ∧ k.pc.toNat % 4 = 0 ∧ k.flags = 0 ∧ k.vrm = 0 ∧ k.ub = (s.launch x.lid).ub ∧
            k.g = [BitVec.ofNat 64 (s.launch x.lid).arg, BitVec.ofNat 64 x.idx, BitVec.ofNat 64 i,
              BitVec.ofNat 64 (s.launch x.lid).g, BitVec.ofNat 64 (s.launch x.lid).t, 0])) ∧
    ((x.st = .resident ∨ x.st = .parked) → x.fault = none → s.liveConts gid = [] → s.graphIdle gid = true →
      s.cmds.any (fun e => match e.2 with | some y => y.gid == gid | none => false) = false →
      s.chans.any (fun e => e.2.reserved == some (endedCont gid)) = false → (∀ n, n < 64 → (s.queue (queueKey gid n)).spent = true) →
      ∃ t, exec (.groupDone lid g) s = .next t ∧ only t ∧ (t.group gid).st = .done ∧ (t.group gid).pages = [] ∧
        (∀ q ∈ x.pages, t.page q = none) ∧ ∀ n, n < 64 → (t.queue (queueKey gid n)).dir = 0) ∧
    (∃ t, exec (.pageWaitPriority lid) s = .next t ∧ { t with launches := s.launches } = s ∧
      (s.pageShort lid = true → l.shortSince = none → (t.launch lid).shortSince = some s.time) ∧
      (∀ since, s.pageShort lid = true → l.shortSince = some since → since + 1000000 ≤ s.time → (t.launch lid).blocks = true) ∧
      (s.pageShort lid = false → (t.launch lid).shortSince = none ∧ (t.launch lid).blocks = false)) ∧
    (s.parkable gid = true → s.pagesWanted = true → s.saveSlot x.leaf x.npages = some a →
      s.groups.all (fun e => e.1 == gid || !s.parkable e.1 || (s.saveSlot e.2.leaf e.2.npages).isNone || decide (s.prio x.leaf < s.prio e.2.leaf) ||
        (s.prio x.leaf == s.prio e.2.leaf && decide (x.moved ≤ e.2.moved))) = true →
      ∃ t, exec (.groupIdlePark lid g) s = .next t ∧ t.group gid = { x with st := .parking, save := some a } ∧ only t) ∧
    (s.noFire gid = true →
      let saves (st : GroupState) : Prop :=
        ∃ t, exec (.groupSaveComplete lid g) s = .next t ∧ (t.group gid).st = st ∧ (∀ q, t.bank q = s.bank q) ∧
          (x.pages ≠ [] → (t.group gid).pages = [] ∧ (Tab.get none t.saved gid).isSome = true ∧ ∀ q ∈ x.pages, t.page q = none)
      (x.st = .parking → saves .parked) ∧ (x.st = .preempting → s.banksOf gid = [] → saves .preempted)) ∧
    (s.settled → s.wanted gid = true → x.home = some c → s.unparkFit gid = some ps → ps.head? = some p → s.saveMismatch gid = none →
      s.groups.all (fun e => e.1 == gid ||
        !(s.wanted e.1 && decide (s.prio x.leaf < s.prio e.2.leaf) && (s.unparkFit e.1).isSome)) = true →
      s.launches.all (fun e => !(decide (s.prio x.leaf < s.prio e.2.leaf) &&
        (s.launchFits e.1 || (e.2.holdsBack s.time && (s.nextGroup e.1).isSome)))) = true →
      ∃ t, exec (.groupUnpark lid g c p) s = .next t ∧ only t ∧ (t.group gid).st = .placing ∧ (t.group gid).pages = ps ∧
        (t.group gid).save = none) ∧
    (r < 4096 → ∀ k, (s.bank r).cont = some k → (s.group (contGroup k)).st = .preempting →
      (s.group (contGroup k)).preemptAt + 20000 ≤ s.time → (s.bank r).missed = false →
      ∃ t, exec (.preemptDeadline r) s = .next t ∧ t.bank r = { s.bank r with missed := true } ∧ ∀ h, t.group h = s.group h)

/-! ### The supervisor's commands -/

/-- R428, R432, R101, R102, R411: what each command of SCMD does and whether SSTAT says REFUSED: SYNC, PREEMPT, RESUME, EVICT, RESTORE,
RESTOREANY, ENDCONT, ENDGROUP and ANSWER, and an unassigned code. R432 names RESTORE and RESTOREANY of a busy bank as REFUSED. The other refusals
are the model's reading: those of ENDGROUP (assumption 36), those of SYNC, PREEMPT and RESUME at a bad place and of ANSWER (assumption 38), and
the place and drain of EVICT (assumption 39). -/
def Obligations.SupervisorCommands : Prop :=
  ∀ (s t0 : State) (n v c : Nat), Tab.get none s.scmd n = some v →
    let pa := v % 2 ^ 48 * 64
    let r := v / 2 ^ 48 % 2 ^ 12
    let b := s.bank r
    let ends (i : Instr) (no : Bool) (f : State → Prop) : Prop :=
      ∃ t, exec i s = .next t ∧ Tab.get none t.scmd n = none ∧ Tab.get 0 t.sstat n = (if no then 1 else 0) ∧ f t
    let still (t : State) : Prop := (∀ q, t.bank q = s.bank q) ∧ ∀ y, t.byte y = s.byte y
    (v / 2 ^ 60 = 1 →
      (s.rcbPlace pa = false → ends (.sync n) true still) ∧
      let z := s.leafRead pa
      (s.rcbPlace pa = true → z.isLeaf pa = false → ends (.sync n) false fun t => (∀ q, t.bank q = s.bank q) ∧ pa ∉ t.leaves ∧
        ((z.readRcb pa).1 = true → Tab.get [] t.rcbs pa = t.rcbWords pa) ∧ (s.settled → ∀ y, t.byte y = s.byte y)) ∧
      (s.rcbPlace pa = true → z.isLeaf pa = true → z.useLeaf pa = (true, t0) → ends (.sync n) false fun t => pa ∈ t.leaves) ∧
      (s.rcbPlace pa = true → z.isLeaf pa = true → z.useLeaf pa = (false, t0) → ends (.sync n) true fun t => pa ∉ t.leaves)) ∧
    (v / 2 ^ 60 = 2 →
      (s.rcbPlace pa = false → ends (.preempt n) true still) ∧
      (s.rcbPlace pa = true → ends (.preempt n) false fun t => ∀ g ∈ s.groupsUnder pa,
        ((s.group g).st = .parked ∨ (s.group g).st = .parking ∨ ((s.group g).st = .resident ∧ (s.group g).npages = 0)) →
          (t.group g).st = .preempting ∧ (t.group g).preemptAt = s.time ∧
            ∀ q ∈ s.banksOf g, bitAt (t.bank q).stat.toNat 18 = true) ∧
      (∀ g, s.rcbPlace pa = true → s.groupsUnder pa = [g] → (s.group g).st = .resident → (s.group g).npages ≠ 0 →
        (∀ a, s.saveSlot (s.group g).leaf (s.group g).npages = some a → ends (.preempt n) false fun t =>
          t.group g = { s.group g with st := .preempting, preemptAt := s.time, save := some a } ∧
            (∀ q ∈ s.banksOf g, bitAt (t.bank q).stat.toNat 18 = true) ∧
            (∀ k ∈ s.liveConts g, (s.cont k).st = .ready ∨ (s.cont k).st = .waiting → (t.cont k).st = .held) ∧
            ∀ q, (t.bank q).pc = (s.bank q).pc ∧ (t.bank q).g = (s.bank q).g) ∧
        (s.saveSlot (s.group g).leaf (s.group g).npages = none → ends (.preempt n) false fun t =>
          t.group g = s.group g ∧ ∀ q, (t.bank q).stat = (s.bank q).stat))) ∧
    (v / 2 ^ 60 = 3 →
      (s.rcbPlace pa = false → ends (.resume n) true still) ∧
      (s.rcbPlace pa = true → ends (.resume n) false fun t => still t ∧ ∀ g ∈ s.groupsUnder pa, (s.group g).st = .preempted →
        t.group g = { s.group g with st := .undispatched, restore := true })) ∧
    (v / 2 ^ 60 = 4 →
      (b.cont = none → ends (.evict n) true still) ∧
      (b.cont = some c → b.park = none → (s.group (contGroup c)).st ≠ .preempting → ends (.evict n) true still) ∧
      (b.cont = some c → (b.park.isSome = true ∨ (s.group (contGroup c)).st = .preempting) → s.schedPlace pa 1536 64 = true →
        s.settled → b.packs = [] → s.evictReady r = true → b.gmark = [] → b.vmark = [] →
        ends (.evict n) false fun t => Stored s t (paLocal pa) 1536 (s.threadRecord r) ∧
          t.bank r = { threadReset with seq := b.seq } ∧ (∀ q, q ≠ r → t.bank q = s.bank q) ∧ (t.cont c).st = .evicted ∧
          (t.cont c).full = some pa ∧ (t.chan r).reserved = if s.slotsOf r = [] then none else some c)) ∧
    (let restores (q : Nat) (t : State) : Prop :=
       let w := s.num (paLocal pa) 1536
       let k := t.bank q
       k.cont = some c ∧ (∀ i, 1 ≤ i → i < 32 → k.gpr i = BitVec.ofNat 64 (w / 2 ^ (64 * i) % 2 ^ 64)) ∧
         (∀ i, i < 16 → k.vreg i = BitVec.ofNat 512 (w / 2 ^ (0x800 + 512 * i) % 2 ^ 512)) ∧
         k.pc = BitVec.ofNat 64 (w / 2 ^ 0x2880 % 2 ^ 64 / 4 * 4) ∧ k.epc = BitVec.ofNat 64 (w / 2 ^ 0x2900 % 2 ^ 64) ∧
         k.priv = bitAt w 0x28c0 ∧ (t.cont c).st = .running ∧ (t.cont c).bank = some q ∧ (t.cont c).full = none ∧
         ∀ z, z ≠ q → t.bank z = s.bank z
     let may (q : Nat) : Prop := s.evictedAt pa = some c ∧ s.takes q c = true ∧ s.slotRoom (s.contLeaf c) = true ∧ s.settled ∧
       s.anyPoison (paLocal pa) 1536 25 = false ∧ s.reservedTo c = none
     let full : Prop := s.slotRoom (s.contLeaf c) = false ∨ s.anyPoison (paLocal pa) 1536 25 = true
     (v / 2 ^ 60 = 5 → (s.evictedAt pa = none → ends (.restore n) true still) ∧ (may r → ends (.restore n) false (restores r)) ∧
       (s.evictedAt pa = some c → b.cont ≠ none ∨ s.takes r c = false ∨ full → ends (.restore n) true still)) ∧
     (v / 2 ^ 60 = 9 → (s.evictedAt pa = none → ends (.restoreany n) true still) ∧
       (s.evictedAt pa = some c → (∀ q, q < 4096 → s.takes q c = false) ∨ full → ends (.restoreany n) true still) ∧
       ∀ q, may q → (List.range 4096).find? (fun z => s.takes z c) = some q → ends (.restoreany n) false (restores q))) ∧
    (v / 2 ^ 60 = 6 →
      (s.evictedAt pa = none → ends (.endcont n) true still) ∧
      (s.evictedAt pa = some c → s.reservedTo c = none → (s.group (contGroup c)).spawnq = [] →
        ends (.endcont n) false fun t => still t ∧ t.cont c = {} ∧ ∀ k, k ≠ c → t.cont k = s.cont k)) ∧
    (v / 2 ^ 60 = 7 →
      let lid := v % 2 ^ 32
      let idx := v / 2 ^ 32 % 2 ^ 24
      let l := s.launch lid
      let past : Prop := l.rcd = 0 ∨ l.st = .done ∨ l.st = .faulted ∨ l.g ≤ idx
      (past → ends (.endgroup n) true still) ∧
      (¬ past → ends (.endgroup n) false fun t => (t.launch lid).st = .faulted)) ∧
    (v / 2 ^ 60 = 8 →
      (∀ p, b.park = some p → p.kind = 0 → p.answered = false →
        ends (.answer n) false fun t => t.bank r = { b with park := some { p with answered := true, refused := bitAt v 0 } } ∧
          (∀ q, q ≠ r → t.bank q = s.bank q) ∧ ∀ y, t.byte y = s.byte y) ∧
      (∀ p, b.park = some p → p.kind ≠ 0 ∨ p.answered = true → ends (.answer n) true still) ∧
      (b.park = none → ends (.answer n) true still)) ∧
    (∀ w, (v / 2 ^ 60 = 0 ∨ 9 < v / 2 ^ 60) → ends (.scmdRefused n w) true still)

/-! ### The world outside -/

/-- R168, R436, R437: a host read returns the line as memory holds it and a host write stores its enabled bytes; a spill log reads all ones
and drops writes; a snoop takes the line that is held here, and with ownership removes it; BAR0 reaches the semaphores in 8-byte
accesses. -/
def Obligations.HostAccesses : Prop :=
  ∀ (s : State) (a v be : BitVec 64) (x : BitVec 512) (own : Bool) (n m : Nat), s.hostUp = true →
    let d := a.toNat / 64 * 64
    let tells (i : Instr) (o : HostOut) : Prop := exec i s = .next { s with hostOut := some o }
    let plain : Prop := isTier d = true ∧ s.inLog d = false ∧ s.regionAt (d / 4096 * 4096) = none
    (plain → ∃ t, exec (.hostCxlMemRead a) s = .next t ∧
      t.hostOut = some (.mem (BitVec.ofNat 512 (s.num d 64)) (s.poisonAt d 64).isSome) ∧
      AfterReads [d / 64] s { t with hostOut := s.hostOut }) ∧
    (plain → be ≠ 0 →
      ∃ t, exec (.hostCxlMemWrite a x be) s = .next t ∧ (∀ q, t.bank q = s.bank q) ∧
        (∀ j, j < 64 → t.byte (d + j) = if be.getLsbD j then BitVec.ofNat 8 (x.toNat / 256 ^ j) else s.byte (d + j)) ∧
        ∀ y, y < d ∨ d + 64 ≤ y → t.byte y = s.byte y) ∧
    (isTier d = true → s.inLog d = true →
      tells (.hostCxlMemRead a) (.mem (BitVec.ofNat 512 (2 ^ 512 - 1)) false) ∧ exec (.hostCxlMemWrite a x be) s = .next s) ∧
    (isHost d = true →
      (s.hostLines.contains (d / 64) = false → tells (.hostSnoop a own) (.snoop none)) ∧
      (s.hostLines.contains (d / 64) = true →
        ∃ t, exec (.hostSnoop a own) s = .next t ∧
          t.hostOut = some (.snoop (some (BitVec.ofNat 512 (s.num d 64), (s.poisonAt d 64).isSome))) ∧
          (∀ y, y < d ∨ d + 64 ≤ y → t.byte y = s.byte y) ∧ t.hostLines.contains (d / 64) = !own)) ∧
    (n < 4096 →
      (∃ t, exec (.hostBar0Access true (BitVec.ofNat 64 (n * 16)) 8 v) s = .next t ∧ exec (.semaphoreSignalWrite n v) s = .next t) ∧
      (∃ t, exec (.hostBar0Access true (BitVec.ofNat 64 (n * 16 + 8)) 8 v) s = .next t ∧
        exec (.semaphoreValueWrite n v) s = .next t) ∧
      tells (.hostBar0Access false (BitVec.ofNat 64 (n * 16 + 8)) 8 v) (.bar (BitVec.ofNat 64 (s.sem n).count)) ∧
      (m ≠ 8 → exec (.hostBar0Access true (BitVec.ofNat 64 (n * 16)) m v) s = .next s ∧
        tells (.hostBar0Access false (BitVec.ofNat 64 (n * 16)) m v) (.bar (BitVec.allOnes 64))))

/-- R434, R435, R438, R439, R448: a port that trains carries traffic, and one that goes down hands its messages on to another usable port of
their package; a flit whose CRC holds is dispatched and another only counted. The flit here has one message: how messages share flits is the
model's reading (assumption 41). -/
def Obligations.Ports : Prop :=
  ∀ (s : State) (p w : Nat) (x : Msg),
    (p < 2 → w = 4 ∨ w = 8 ∨ w = 16 → s.bootFail = none →
      ∃ t, exec (.hostPortUp p w) s = .next t ∧ Tab.get 0 t.hostPorts p = w ∧ { t with hostPorts := s.hostPorts } = s) ∧
    (∃ t, exec (.hostPortDown p) s = .next t ∧ Tab.get 0 t.hostPorts p = 0 ∧ { t with hostPorts := s.hostPorts } = s ∧
      ∀ q, q ≠ p → Tab.get 0 t.hostPorts q = Tab.get 0 s.hostPorts q) ∧
    (p < 36 → 1 ≤ w → w ≤ 4 → s.bootFail = none →
      ∃ t, exec (.fabricPortUp p w) s = .next t ∧ Tab.get 0 t.ports p = 1 + w * 16 ∧ t.pkgLock = true ∧
        { t with ports := s.ports, pkgLock := s.pkgLock } = s) ∧
    (bitAt (Tab.get 0 s.ports p) 0 = true →
      (∃ t, exec (.fabricPortDown p) s = .next t ∧ Tab.get 0 t.ports p = 0 ∧ (∀ e ∈ t.outbox, e.1 ≠ p) ∧
        (∀ e ∈ s.outbox, e.1 ≠ p → e ∈ t.outbox) ∧
        (∀ e ∈ s.outbox, e.1 = p → e.2.dst ≠ s.pkg → t.usablePorts e.2.dst ≠ [] →
          ∃ q ∈ t.usablePorts e.2.dst, q ≠ p ∧ (q, e.2) ∈ t.outbox) ∧ (∀ q, t.bank q = s.bank q) ∧ ∀ y, t.byte y = s.byte y) ∧
      (p < 36 →
        let k := 2 * 2 ^ 24 + p * 2 ^ 8
        (x.dst = s.pkg → x.age ≤ 1500000 →
          ∃ t, exec (.fabricFlitReceive p true [x]) s = .next t ∧ t.inbox = s.inbox ++ [x] ∧
            Tab.get 0 t.events (k + 1) = (Tab.get 0 s.events (k + 1) + 1) % 2 ^ 64) ∧
        ∃ t, exec (.fabricFlitReceive p false [x]) s = .next t ∧ { t with events := s.events } = s ∧
          Tab.get 0 t.events (k + 2) = (Tab.get 0 s.events (k + 2) + 1) % 2 ^ 64))

/-- R443, R444, R446, R265, R266: a package reset leaves every bank, semaphore, queue and table as reset leaves them and takes the next
incarnations; a package that its firmware did not pass is held with its service cores stopped; an SPDM request is answered and changes
nothing else. The bytes of an answer are the security processor's (assumption 17); that the steps of bring-up are one step, that the package
number is that of the straps again, and the state of a package held in reset are the model's reading (assumption 42). -/
def Obligations.ResetAndSpdm : Prop :=
  ∀ (s : State) (req : List Byte),
    let answered (i : Instr) : Prop :=
      ∃ t body, exec i s = .next t ∧ t.hostOut = some (.spdm body) ∧ { t with hostOut := s.hostOut, fresh := s.fresh } = s
    let afresh (t : State) : State :=
      let z := State.reset
      { t with turns := z.turns, cur := z.cur, late := z.late, choice := z.choice, fresh := z.fresh, cycle := z.cycle,
               peerRegions := z.peerRegions, pkg := z.pkg, strapPkg := z.strapPkg, rinc := z.rinc, oinc := z.oinc }
    (∃ t, exec (.packageReset true) s = .next t ∧ afresh t = State.reset ∧ t.pkg = s.strapPkg ∧
      t.keys = [] ∧ t.ranges = [] ∧ t.regions = [] ∧ t.regstat = [] ∧ t.routes = [] ∧ t.held = State.reset.held ∧ t.l1tlb = [] ∧
      t.cltlb = [] ∧ t.oincs = [] ∧ t.chans = [] ∧ t.rcbs = [] ∧ t.leaves = [] ∧ t.bins = [] ∧ t.logs = [] ∧
      (∀ r, t.bank r = State.reset.bank r) ∧ t.mem = State.reset.mem ∧ t.sems = [] ∧
      t.queues = [] ∧ t.groups = [] ∧ t.conts = [] ∧ t.launches = [] ∧ t.rops = [] ∧ t.owner = [] ∧ t.time = 0 ∧
      t.rcbptr = 0 ∧ t.rinc = (s.rinc + 1) % 256 ∧ t.oinc = (if 65535 ≤ s.oinc then 1 else s.oinc + 1) ∧ t.pkgLock = false) ∧
    (∃ t, exec (.packageReset false) s = .next t ∧ (∀ n, n < 4 → (t.bank (4096 + n)).stopped = true) ∧ t.bootFail.isSome = true ∧
      afresh { t with svcs := State.reset.svcs, bootFail := none } = State.reset ∧ t.rinc = s.rinc ∧ t.oinc = s.oinc ∧ t.hostPorts = [] ∧ t.ports = []) ∧
    answered (.spdmGetVersion req) ∧ answered (.spdmGetCapabilities req) ∧ answered (.spdmNegotiateAlgorithms req) ∧
    answered (.spdmGetDigests req) ∧ answered (.spdmGetCertificate req) ∧ answered (.spdmChallenge req) ∧
    answered (.spdmGetMeasurements req)

/-! ### Encoding, the step and reset -/

/-- R60, R74: every well-formed instruction has an encoding, with a literal word exactly when it is an X form, and its words decode to it:
no operand bit is dropped. An event has no words. -/
def Obligations.EncodeThenDecode : Prop :=
  ∀ i : Instr, (i.wf = true → i.isEvent = false →
      ∃ w l, encode i = some (w, l) ∧ needsLit w = l.isSome ∧ decode w (l.getD 0) = .ok i) ∧
    (i.isEvent = true → encode i = none)

/-- R60, R74: what decodes is well formed, and its encoding is the words it was read from: every word has one meaning. -/
def Obligations.DecodeThenEncode : Prop :=
  ∀ (w lit : BitVec 32) (i : Instr), decode w lit = .ok i →
    i.wf = true ∧ encode i = some (w, if needsLit w then some lit else none)

/-- Words that the spec writes out, with the instructions that it gives for them. -/
def Obligations.SampleWords : Prop :=
  decode 0x04853203 0 = .ok (.lea 4 5 6 3) ∧ decode 0x04430181 0 = .ok (.clz 2 3 1) ∧
    decode 0x2d22beef 0 = .ok (.movk 9 2 0xbeef) ∧ decode 0x40d14c42 0 = .ok (.vfma 3 4 5 1 4) ∧
    decode 0x88000040 0 = .ok .susp ∧ decode 0x88000049 0 = .ok (.spawn 0 1) ∧ decode 0x80000000 0 = .ok (.j 0) ∧
    decode 0xb4818000 0 = .ok (.upd 4 1 0 0) ∧ decode 0xb805c000 0 = .ok (.uflush 5 0) ∧
    decode 0xd06a5b00 0 = .ok (.cpy 3 10 11 12) ∧ decode 0xd0600004 0 = .ok (.waitp 3) ∧
    decode 0xe0610018 0 = .ok (.keyopCreate 3 1)

/-- R153: when no turn is listed, a requester that fetches an instruction executes it: the step is exec of it in the state after the
fetch; a turn of kind issue does the same after its time has passed, and an event of a turn is its exec (the model's form of time and
of events, assumption 1). -/
def Obligations.StepRunsDecoded : Prop :=
  ∀ (s t : State) (i : Instr) (x : Turn) (rest : List Turn),
    (s.turns = [] → s.canIssue s.cur = true → s.b.entering = none → s.b.busy = none → s.pendingBit s.cur = none →
      s.fetch s.cur = (.ok (.ok i), t) → step s = exec i t) ∧
    (s.turns = x :: rest → x.act = .issue → (s.beginTurn x rest).select x.who = (.run i, t) →
      (s.beginTurn x rest).cur = x.who → step s = exec i t) ∧
    (s.turns = x :: rest → x.act = .event i → i.isEvent = true → step s = exec i (s.beginTurn x rest)) ∧
    (∀ (r : Nat) (w : BitVec 32) (u v : State) (l : BitVec 32), (s.fetchWord r 0 (s.bank r).pc.toNat) = (.ok w, u) →
      (needsLit w = false → s.fetch r = (.ok (decode w 0), u)) ∧
      (needsLit w = true → (u.fetchWord r 1 ((s.bank r).pc + 4).toNat) = (.ok l, v) → s.fetch r = (.ok (decode w l), v)))

/-- Every step keeps the canonical form of memory: addresses strictly rising, and no byte listed that an unlisted one reads as. The form, and
that an unlisted byte reads as zero, are the model's choice (assumption 6). -/
def Obligations.StepKeepsMemoryForm : Prop :=
  ∀ (s t : State), memWf s.mem = true → step s = .next t → memWf t.mem = true

/-- R446, R90, R88, R434: what reset leaves: memory in canonical form with the firmware's extent table, thread banks without a
continuation in user mode, service cores in privileged mode under that table, NEXT 1 in every channel, PLIMIT 2600 and PERIOD 24. The
zeros of registers without a reset value, the boot address and the place of the table are the model's (assumptions 4 and 5). -/
def Obligations.ResetMachine : Prop :=
  memWf State.reset.mem = true ∧
    (∀ r, r < 4096 → let b := State.reset.bank r
      b.cont = none ∧ b.priv = false ∧ b.stat = 0 ∧ b.qtrapcfg = 0xec00 ∧ State.reset.canIssue r = false) ∧
    (∀ n, n < 4 → let b := State.reset.bank (4096 + n)
      b.priv = true ∧ b.ctxroot = 0 ∧ b.ctxkey = 0 ∧ b.pc = 0x10000 ∧ State.reset.canIssue (4096 + n) = true ∧
        State.reset.trapEntry (4096 + n) = 0x20000 ∧ State.reset.extsOf (128 + n) b.xtab.toNat = some (firmwareExtents.take 2)) ∧
    (∀ r, (State.reset.chan r).next = 1) ∧ (∀ n, State.reset.key n = if n = 0 then { state := .active, held := [0] } else {}) ∧
    (∀ n, (State.reset.sem n).count = 0) ∧ State.reset.plimit = 2600 ∧ State.reset.scrubPeriod = 24 ∧ State.reset.time = 0 ∧
    State.reset.faultq = 0 ∧ State.reset.rcbptr = 0
end

