-- ==== Sys2Proof/Laws/Tab.lean ====
section
/-! SUPPORT. What a sparse table reads after it is written, and that every table operation keeps the canonical form. -/
namespace Sys2Proof.Machine

variable {α : Type}

theorem Tab.get_nil (d : α) (k : Nat) : Tab.get d [] k = d := rfl

theorem Tab.get_cons (d : α) (k' : Nat) (v : α) (m : Tab α) (k : Nat) :
    Tab.get d ((k', v) :: m) k = if k' = k then v else Tab.get d m k := rfl

/-- A deleted key reads the default; every other key reads as before. -/
theorem Tab.get_del (d : α) (m : Tab α) (k j : Nat) :
    Tab.get d (Tab.del m k) j = if j = k then d else Tab.get d m j := by
  induction m with
  | nil => simp [Tab.del, Tab.get]
  | cons e m ih =>
    obtain ⟨k', v⟩ := e
    by_cases h : k' = k
    · subst h
      simp only [Tab.del, if_true, ih, Tab.get_cons]
      by_cases hj : j = k'
      · simp [hj]
      · simp [hj, Ne.symm hj]
    · simp only [Tab.del, h, if_false, Tab.get_cons, ih]
      by_cases hj : k' = j
      · subst hj; simp [h]
      · simp [hj]

/-- An inserted key reads its value; every other key reads as before. -/
theorem Tab.get_ins (d : α) (m : Tab α) (k j : Nat) (v : α) :
    Tab.get d (Tab.ins k v m) j = if j = k then v else Tab.get d m j := by
  induction m with
  | nil => simp only [Tab.ins, Tab.get]; split <;> simp_all [eq_comm]
  | cons e m ih =>
    obtain ⟨k', v'⟩ := e
    simp only [Tab.ins]
    split
    · simp only [Tab.get_cons]
      by_cases hj : j = k
      · simp [hj]
      · simp [hj, Ne.symm hj]
    · split
      · rename_i h
        subst h
        simp only [Tab.get_cons]
        by_cases hj : j = k'
        · simp [hj]
        · simp [hj, Ne.symm hj]
      · rename_i _ h
        simp only [Tab.get_cons, ih]
        by_cases hj : k' = j
        · subst hj; simp [h]
        · simp [hj]

/-- A table after a write: the key written reads the value, every other key reads as before. -/
@[simp] theorem Tab.get_set [DecidableEq α] (d : α) (m : Tab α) (k j : Nat) (v : α) :
    Tab.get d (Tab.set d m k v) j = if j = k then v else Tab.get d m j := by
  simp only [Tab.set]
  split
  · rename_i h; subst h; rw [Tab.get_del]
  · rw [Tab.get_ins]

/-- The lower bound of a canonical table may be relaxed. -/
theorem Tab.wfFrom_mono [DecidableEq α] (d : α) (m : Tab α) {lo lo' : Option Nat}
    (h : Tab.wfFrom d lo m = true) (hl : ∀ a, lo' = some a → ∃ b, lo = some b ∧ a ≤ b) : Tab.wfFrom d lo' m = true := by
  cases m with
  | nil => rfl
  | cons e m =>
    obtain ⟨k, v⟩ := e
    simp only [Tab.wfFrom, Bool.and_eq_true, decide_eq_true_eq] at h ⊢
    refine ⟨⟨?_, h.1.2⟩, h.2⟩
    cases lo' with
    | none => rfl
    | some a =>
      obtain ⟨b, rfl, hb⟩ := hl a rfl
      have := h.1.1
      simp only [decide_eq_true_eq] at this ⊢
      omega

/-- Deletion keeps the canonical form. -/
theorem Tab.wfFrom_del [DecidableEq α] (d : α) (m : Tab α) (k : Nat) (lo : Option Nat)
    (h : Tab.wfFrom d lo m = true) : Tab.wfFrom d lo (Tab.del m k) = true := by
  induction m generalizing lo with
  | nil => rfl
  | cons e m ih =>
    obtain ⟨k', v⟩ := e
    simp only [Tab.wfFrom, Bool.and_eq_true, decide_eq_true_eq] at h
    by_cases hk : k' = k
    · simp only [Tab.del, hk, if_true]
      refine ih lo (Tab.wfFrom_mono d m h.2 ?_)
      rintro a rfl
      have := h.1.1
      simp only [decide_eq_true_eq] at this
      exact ⟨k', rfl, Nat.le_of_lt this⟩
    · simp only [Tab.del, hk, if_false, Tab.wfFrom, Bool.and_eq_true, decide_eq_true_eq]
      exact ⟨h.1, ih _ h.2⟩

/-- Insertion of a value that is not the default keeps the canonical form. -/
theorem Tab.wfFrom_ins [DecidableEq α] (d : α) (m : Tab α) (k : Nat) (v : α) (lo : Option Nat) (hv : v ≠ d)
    (hlo : ∀ a, lo = some a → a < k) (h : Tab.wfFrom d lo m = true) : Tab.wfFrom d lo (Tab.ins k v m) = true := by
  induction m generalizing lo with
  | nil =>
    cases lo with
    | none => simp [Tab.ins, Tab.wfFrom, hv]
    | some a => simp [Tab.ins, Tab.wfFrom, hv, hlo a rfl]
  | cons e m ih =>
    obtain ⟨k', v'⟩ := e
    simp only [Tab.wfFrom, Bool.and_eq_true, decide_eq_true_eq] at h
    simp only [Tab.ins]
    split
    · rename_i hk
      simp only [Tab.wfFrom, Bool.and_eq_true, decide_eq_true_eq]
      refine ⟨⟨?_, hv⟩, ⟨hk, h.1.2⟩, h.2⟩
      cases lo with
      | none => rfl
      | some a => simpa using hlo a rfl
    · split
      · rename_i hk
        subst hk
        simp only [Tab.wfFrom, Bool.and_eq_true, decide_eq_true_eq]
        refine ⟨⟨?_, hv⟩, h.2⟩
        cases lo with
        | none => rfl
        | some a => simpa using hlo a rfl
      · rename_i h1 h2
        simp only [Tab.wfFrom, Bool.and_eq_true, decide_eq_true_eq]
        refine ⟨h.1, ih _ ?_ h.2⟩
        rintro a ⟨⟩
        omega

/-- A write keeps the canonical form. -/
theorem Tab.wf_set [DecidableEq α] (d : α) (m : Tab α) (k : Nat) (v : α) (h : Tab.wf d m = true) :
    Tab.wf d (Tab.set d m k v) = true := by
  simp only [Tab.set]
  split
  · exact Tab.wfFrom_del d m k none h
  · rename_i hv
    exact Tab.wfFrom_ins d m k v none hv (by simp) h

/-- Leaving out entries keeps the canonical form. -/
theorem Tab.wf_filter [DecidableEq α] (d : α) (p : Nat × α → Bool) (m : Tab α) (h : Tab.wf d m = true) :
    Tab.wf d (m.filter p) = true := by
  suffices ∀ lo, Tab.wfFrom d lo m = true → Tab.wfFrom d lo (m.filter p) = true from this none h
  clear h
  induction m with
  | nil => intro lo h; exact h
  | cons e m ih =>
    obtain ⟨k, v⟩ := e
    intro lo h
    simp only [Tab.wfFrom, Bool.and_eq_true, decide_eq_true_eq] at h
    simp only [List.filter]
    split
    · simp only [Tab.wfFrom, Bool.and_eq_true, decide_eq_true_eq]
      exact ⟨h.1, ih _ h.2⟩
    · refine ih lo (Tab.wfFrom_mono d m h.2 ?_)
      rintro a rfl
      have := h.1.1
      simp only [decide_eq_true_eq] at this
      exact ⟨k, rfl, Nat.le_of_lt this⟩

/-- In a table whose keys rise from `lo`, a key at or below `lo` reads the default. -/
theorem Tab.get_of_wfFrom [DecidableEq α] (d : α) (m : Tab α) (lo k : Nat) (h : Tab.wfFrom d (some lo) m = true)
    (hk : k ≤ lo) : Tab.get d m k = d := by
  induction m generalizing lo with
  | nil => rfl
  | cons e m ih =>
    obtain ⟨k', v⟩ := e
    simp only [Tab.wfFrom, Bool.and_eq_true, decide_eq_true_eq] at h
    have : k' ≠ k := by have := h.1.1; omega
    rw [Tab.get_cons, if_neg this]
    exact ih k' h.2 (by have := h.1.1; omega)

/-- Equal readings are equal data: a table in canonical form is fixed by what its keys read. -/
theorem Tab.wfFrom_ext [DecidableEq α] (d : α) (m n : Tab α) (lo : Option Nat) (hm : Tab.wfFrom d lo m = true)
    (hn : Tab.wfFrom d lo n = true) (h : ∀ k, Tab.get d m k = Tab.get d n k) : m = n := by
  induction m generalizing n lo with
  | nil =>
    cases n with
    | nil => rfl
    | cons e n =>
      obtain ⟨k, v⟩ := e
      simp only [Tab.wfFrom, Bool.and_eq_true, decide_eq_true_eq] at hn
      have := h k
      simp only [Tab.get_nil, Tab.get_cons, if_true] at this
      exact absurd this.symm hn.1.2
  | cons e m ih =>
    obtain ⟨k, v⟩ := e
    simp only [Tab.wfFrom, Bool.and_eq_true, decide_eq_true_eq] at hm
    cases n with
    | nil =>
      have := h k
      simp only [Tab.get_nil, Tab.get_cons, if_true] at this
      exact absurd this hm.1.2
    | cons e n =>
      obtain ⟨k', v'⟩ := e
      simp only [Tab.wfFrom, Bool.and_eq_true, decide_eq_true_eq] at hn
      rcases Nat.lt_trichotomy k k' with hlt | heq | hgt
      · have := h k
        rw [Tab.get_cons, if_pos rfl, Tab.get_cons, if_neg (by omega), Tab.get_of_wfFrom d n k' k hn.2 (by omega)] at this
        exact absurd this hm.1.2
      · subst heq
        have hv := h k
        rw [Tab.get_cons, if_pos rfl, Tab.get_cons, if_pos rfl] at hv
        subst hv
        congr 1
        refine ih n (some k) hm.2 hn.2 fun j => ?_
        by_cases hj : j ≤ k
        · rw [Tab.get_of_wfFrom d m k j hm.2 hj, Tab.get_of_wfFrom d n k j hn.2 hj]
        · have := h j
          rwa [Tab.get_cons, if_neg (by omega), Tab.get_cons, if_neg (by omega)] at this
      · have := h k'
        rw [Tab.get_cons, if_neg (by omega), Tab.get_cons, if_pos rfl, Tab.get_of_wfFrom d m k k' hm.2 (by omega)] at this
        exact absurd this.symm hn.1.2

/-- Two canonical tables that read alike are equal. -/
theorem Tab.wf_ext [DecidableEq α] (d : α) (m n : Tab α) (hm : Tab.wf d m = true) (hn : Tab.wf d n = true)
    (h : ∀ k, Tab.get d m k = Tab.get d n k) : m = n := Tab.wfFrom_ext d m n none hm hn h

end Sys2Proof.Machine
end

