-- ==== Sys2Proof/Laws/Bank.lean ====
section
/-! SUPPORT. What each write of a bank leaves readable, register by register, and what reading a bank gives after a bank was
written. -/
namespace Sys2Proof.Machine

/-! ### Banks of a state -/

@[simp] theorem State.bank_setBank (s : State) (r q : Nat) (b : Bank) :
    (s.setBank r b).bank q = if q = r then b else s.bank q := by
  unfold State.setBank State.bank
  by_cases hr : r < 4096
  · by_cases hq : q < 4096
    · simp [hr, hq]
    · have : q ≠ r := by omega
      simp [hr, hq, this]
  · by_cases hq : q < 4096
    · have : q ≠ r := by omega
      simp [hr, hq, this]
    · have : (q - 4096 = r - 4096) ↔ q = r := by omega
      simp [hr, hq, this]

@[simp] theorem State.cur_setBank (s : State) (r : Nat) (b : Bank) : (s.setBank r b).cur = s.cur := by
  unfold State.setBank; split <;> rfl

@[simp] theorem State.b_setB (s : State) (b : Bank) : (s.setB b).b = b := by
  simp [State.setB, State.b]

@[simp] theorem State.cur_setB (s : State) (b : Bank) : (s.setB b).cur = s.cur := State.cur_setBank ..

theorem State.bank_setB (s : State) (b : Bank) (r : Nat) (h : r ≠ s.cur) : (s.setB b).bank r = s.bank r := by
  simp [State.setB, h]

/-- Writing a bank changes no other field of the machine. -/
theorem State.setBank_fields (s : State) (r : Nat) (b : Bank) :
    { s.setBank r b with banks := s.banks, svcs := s.svcs } = s := by
  unfold State.setBank; split <;> rfl

@[simp] theorem State.byte_setBank (s : State) (r a : Nat) (b : Bank) : (s.setBank r b).byte a = s.byte a := by
  unfold State.setBank; split <;> rfl

@[simp] theorem State.bank_preWritten (s : State) (r q : Nat) (l : List (Bool × Nat)) :
    (s.preWritten r l).bank q = s.bank q := rfl
@[simp] theorem State.b_preWritten (s : State) (r : Nat) (l : List (Bool × Nat)) : (s.preWritten r l).b = s.b := rfl
@[simp] theorem State.cur_preWritten (s : State) (r : Nat) (l : List (Bool × Nat)) : (s.preWritten r l).cur = s.cur := rfl
@[simp] theorem State.byte_preWritten (s : State) (r a : Nat) (l : List (Bool × Nat)) :
    (s.preWritten r l).byte a = s.byte a := rfl

/-- An instruction that writes its bank, and the registers of a list, changes nothing outside it. -/
theorem SameOutside.setB (s : State) (b : Bank) (l : List (Bool × Nat)) :
    SameOutside s ((s.preWritten s.cur l).setB b) where
  banks r h := (s.preWritten s.cur l).bank_setB b r h
  fields := by
    have h := (s.preWritten s.cur l).setBank_fields s.cur b
    have e : { (s.preWritten s.cur l).setBank s.cur b with banks := s.banks, svcs := s.svcs, pre := s.pre } =
        { ({ (s.preWritten s.cur l).setBank s.cur b with
              banks := (s.preWritten s.cur l).banks, svcs := (s.preWritten s.cur l).svcs } : State) with pre := s.pre } := rfl
    show { (s.preWritten s.cur l).setBank s.cur b with banks := s.banks, svcs := s.svcs, pre := s.pre } = s
    rw [e, h]; rfl
  memory a := State.byte_setBank ..

/-! ### General registers -/

@[simp] theorem Bank.gpr_zero (b : Bank) : b.gpr 0 = 0 := rfl

@[simp] theorem Bank.gpr_setGpr (b : Bank) (i j : Nat) (w : Word) :
    (b.setGpr i w).gpr j = if j = i then (if i = 0 then 0 else w) else b.gpr j := by
  unfold Bank.setGpr Bank.gpr
  by_cases hi : i = 0
  · by_cases hj : j = 0 <;> simp [hi, hj]
  · by_cases hj : j = 0
    · have : (0 : Nat) ≠ i := Ne.symm hi
      simp [hj, this]
    · simp [hi, hj]

@[simp] theorem Bank.gpr_setGprPart (b : Bank) (i j : Nat) (w : Word) :
    (b.setGprPart i w).gpr j = if j = i then (if i = 0 then 0 else w) else b.gpr j := by
  unfold Bank.setGprPart Bank.gpr
  by_cases hi : i = 0
  · by_cases hj : j = 0 <;> simp [hi, hj]
  · by_cases hj : j = 0
    · have : (0 : Nat) ≠ i := Ne.symm hi
      simp [hj, this]
    · simp [hi, hj]

@[simp] theorem Bank.mark_setGpr_g (b : Bank) (i j : Nat) (w : Word) :
    (b.setGpr i w).mark (.g j) = if j = i then none else b.mark (.g j) := by
  unfold Bank.setGpr Bank.mark
  by_cases hi : i = 0
  · by_cases hj : j = 0 <;> simp [hi, hj]
  · by_cases hj : j = 0
    · simp [hj]
    · simp [hi, hj]

@[simp] theorem Bank.mark_setGprPart (b : Bank) (i : Nat) (x : Reg) (w : Word) :
    (b.setGprPart i w).mark x = b.mark x := by
  unfold Bank.setGprPart; cases x <;> split <;> rfl

@[simp] theorem Bank.mark_setGpr_v (b : Bank) (i j : Nat) (w : Word) : (b.setGpr i w).mark (.v j) = b.mark (.v j) := by
  unfold Bank.setGpr; split <;> rfl

@[simp] theorem Bank.vreg_setGpr (b : Bank) (i j : Nat) (w : Word) : (b.setGpr i w).vreg j = b.vreg j := by
  unfold Bank.setGpr; split <;> rfl
@[simp] theorem Bank.kreg_setGpr (b : Bank) (i j : Nat) (w : Word) : (b.setGpr i w).kreg j = b.kreg j := by
  unfold Bank.setGpr; split <;> rfl
@[simp] theorem Bank.stat_setGpr (b : Bank) (i : Nat) (w : Word) : (b.setGpr i w).stat = b.stat := by
  unfold Bank.setGpr; split <;> rfl
@[simp] theorem Bank.pc_setGpr (b : Bank) (i : Nat) (w : Word) : (b.setGpr i w).pc = b.pc := by
  unfold Bank.setGpr; split <;> rfl
@[simp] theorem Bank.rest_setGpr (b : Bank) (i : Nat) (w : Word) : (b.setGpr i w).rest = b.rest := by
  unfold Bank.setGpr; split <;> rfl
@[simp] theorem Bank.vreg_setGprPart (b : Bank) (i j : Nat) (w : Word) : (b.setGprPart i w).vreg j = b.vreg j := by
  unfold Bank.setGprPart; split <;> rfl
@[simp] theorem Bank.kreg_setGprPart (b : Bank) (i j : Nat) (w : Word) : (b.setGprPart i w).kreg j = b.kreg j := by
  unfold Bank.setGprPart; split <;> rfl
@[simp] theorem Bank.stat_setGprPart (b : Bank) (i : Nat) (w : Word) : (b.setGprPart i w).stat = b.stat := by
  unfold Bank.setGprPart; split <;> rfl
@[simp] theorem Bank.pc_setGprPart (b : Bank) (i : Nat) (w : Word) : (b.setGprPart i w).pc = b.pc := by
  unfold Bank.setGprPart; split <;> rfl
@[simp] theorem Bank.rest_setGprPart (b : Bank) (i : Nat) (w : Word) : (b.setGprPart i w).rest = b.rest := by
  unfold Bank.setGprPart; split <;> rfl

/-! ### Vector registers -/

@[simp] theorem Bank.vreg_setVreg (b : Bank) (i j : Nat) (w : VWord) :
    (b.setVreg i w).vreg j = if j = i then w else b.vreg j := by simp [Bank.setVreg, Bank.vreg]
@[simp] theorem Bank.vreg_setVregPart (b : Bank) (i j : Nat) (w : VWord) :
    (b.setVregPart i w).vreg j = if j = i then w else b.vreg j := by simp [Bank.setVregPart, Bank.vreg]
@[simp] theorem Bank.mark_setVreg_v (b : Bank) (i j : Nat) (w : VWord) :
    (b.setVreg i w).mark (.v j) = if j = i then none else b.mark (.v j) := by simp [Bank.setVreg, Bank.mark]
@[simp] theorem Bank.mark_setVreg_g (b : Bank) (i j : Nat) (w : VWord) :
    (b.setVreg i w).mark (.g j) = b.mark (.g j) := rfl
@[simp] theorem Bank.mark_setVregPart (b : Bank) (i : Nat) (x : Reg) (w : VWord) :
    (b.setVregPart i w).mark x = b.mark x := by cases x <;> rfl
@[simp] theorem Bank.gpr_setVreg (b : Bank) (i j : Nat) (w : VWord) : (b.setVreg i w).gpr j = b.gpr j := rfl
@[simp] theorem Bank.kreg_setVreg (b : Bank) (i j : Nat) (w : VWord) : (b.setVreg i w).kreg j = b.kreg j := rfl
@[simp] theorem Bank.stat_setVreg (b : Bank) (i : Nat) (w : VWord) : (b.setVreg i w).stat = b.stat := rfl
@[simp] theorem Bank.pc_setVreg (b : Bank) (i : Nat) (w : VWord) : (b.setVreg i w).pc = b.pc := rfl
@[simp] theorem Bank.rest_setVreg (b : Bank) (i : Nat) (w : VWord) : (b.setVreg i w).rest = b.rest := rfl
@[simp] theorem Bank.gpr_setVregPart (b : Bank) (i j : Nat) (w : VWord) : (b.setVregPart i w).gpr j = b.gpr j := rfl
@[simp] theorem Bank.kreg_setVregPart (b : Bank) (i j : Nat) (w : VWord) : (b.setVregPart i w).kreg j = b.kreg j := rfl
@[simp] theorem Bank.stat_setVregPart (b : Bank) (i : Nat) (w : VWord) : (b.setVregPart i w).stat = b.stat := rfl
@[simp] theorem Bank.pc_setVregPart (b : Bank) (i : Nat) (w : VWord) : (b.setVregPart i w).pc = b.pc := rfl
@[simp] theorem Bank.rest_setVregPart (b : Bank) (i : Nat) (w : VWord) : (b.setVregPart i w).rest = b.rest := rfl

/-! ### Mask registers -/

@[simp] theorem Bank.kreg_setKreg (b : Bank) (i j : Nat) (w : BitVec 16) :
    (b.setKreg i w).kreg j = if j = i then (if i = 0 then 0xffff else w) else b.kreg j := by
  unfold Bank.setKreg Bank.kreg
  by_cases hi : i = 0
  · by_cases hj : j = 0 <;> simp [hi, hj]
  · by_cases hj : j = 0
    · have : (0 : Nat) ≠ i := Ne.symm hi
      simp [hj, this]
    · simp [hi, hj]
@[simp] theorem Bank.gpr_setKreg (b : Bank) (i j : Nat) (w : BitVec 16) : (b.setKreg i w).gpr j = b.gpr j := by
  unfold Bank.setKreg; split <;> rfl
@[simp] theorem Bank.vreg_setKreg (b : Bank) (i j : Nat) (w : BitVec 16) : (b.setKreg i w).vreg j = b.vreg j := by
  unfold Bank.setKreg; split <;> rfl
@[simp] theorem Bank.mark_setKreg (b : Bank) (i : Nat) (x : Reg) (w : BitVec 16) : (b.setKreg i w).mark x = b.mark x := by
  unfold Bank.setKreg; split <;> rfl
@[simp] theorem Bank.stat_setKreg (b : Bank) (i : Nat) (w : BitVec 16) : (b.setKreg i w).stat = b.stat := by
  unfold Bank.setKreg; split <;> rfl
@[simp] theorem Bank.pc_setKreg (b : Bank) (i : Nat) (w : BitVec 16) : (b.setKreg i w).pc = b.pc := by
  unfold Bank.setKreg; split <;> rfl
@[simp] theorem Bank.rest_setKreg (b : Bank) (i : Nat) (w : BitVec 16) : (b.setKreg i w).rest = b.rest := by
  unfold Bank.setKreg; split <;> rfl

/-! ### Completion, flags -/

@[simp] theorem Bank.gpr_advance (b : Bank) (n i : Nat) : (b.advance n).gpr i = b.gpr i := rfl
@[simp] theorem Bank.vreg_advance (b : Bank) (n i : Nat) : (b.advance n).vreg i = b.vreg i := rfl
@[simp] theorem Bank.kreg_advance (b : Bank) (n i : Nat) : (b.advance n).kreg i = b.kreg i := rfl
@[simp] theorem Bank.mark_advance (b : Bank) (n : Nat) (x : Reg) : (b.advance n).mark x = b.mark x := by cases x <;> rfl
@[simp] theorem Bank.stat_advance (b : Bank) (n : Nat) : (b.advance n).stat = b.stat := rfl
@[simp] theorem Bank.pc_advance (b : Bank) (n : Nat) : (b.advance n).pc = b.pc + BitVec.ofNat 64 n := rfl
@[simp] theorem Bank.rest_advance (b : Bank) (n : Nat) : (b.advance n).rest = b.rest := rfl
@[simp] theorem Bank.gpr_jump (b : Bank) (t : Word) (i : Nat) : (b.jump t).gpr i = b.gpr i := rfl
@[simp] theorem Bank.vreg_jump (b : Bank) (t : Word) (i : Nat) : (b.jump t).vreg i = b.vreg i := rfl
@[simp] theorem Bank.kreg_jump (b : Bank) (t : Word) (i : Nat) : (b.jump t).kreg i = b.kreg i := rfl
@[simp] theorem Bank.mark_jump (b : Bank) (t : Word) (x : Reg) : (b.jump t).mark x = b.mark x := by cases x <;> rfl
@[simp] theorem Bank.stat_jump (b : Bank) (t : Word) : (b.jump t).stat = b.stat := rfl
@[simp] theorem Bank.pc_jump (b : Bank) (t : Word) : (b.jump t).pc = t := rfl
@[simp] theorem Bank.rest_jump (b : Bank) (t : Word) : (b.jump t).rest = b.rest := rfl
@[simp] theorem Bank.gpr_orFlags (b : Bank) (f i : Nat) : (b.orFlags f).gpr i = b.gpr i := rfl
@[simp] theorem Bank.vreg_orFlags (b : Bank) (f i : Nat) : (b.orFlags f).vreg i = b.vreg i := rfl
@[simp] theorem Bank.kreg_orFlags (b : Bank) (f i : Nat) : (b.orFlags f).kreg i = b.kreg i := rfl
@[simp] theorem Bank.mark_orFlags (b : Bank) (f : Nat) (x : Reg) : (b.orFlags f).mark x = b.mark x := by cases x <;> rfl
@[simp] theorem Bank.stat_orFlags (b : Bank) (f : Nat) :
    (b.orFlags f).stat = b.stat ||| BitVec.ofNat 64 (f % 32 * 256) := rfl
@[simp] theorem Bank.pc_orFlags (b : Bank) (f : Nat) : (b.orFlags f).pc = b.pc := rfl
@[simp] theorem Bank.rest_orFlags (b : Bank) (f : Nat) : (b.orFlags f).rest = b.rest := rfl

/-! ### The start of an instruction -/

/-- Nothing read is marked exactly when no first mark is found. -/
theorem Bank.firstMark_eq_none (b : Bank) (l : List Reg) : b.firstMark l = none ↔ ∀ x ∈ l, b.mark x = none := by
  induction l with
  | nil => simp [Bank.firstMark]
  | cons x l ih =>
    cases h : b.mark x <;> simp [Bank.firstMark, h, ih]

/-- An instruction that is ready runs (R106, R182). -/
theorem State.issue_ready (s : State) (reads writes : List Reg) (k : State → Res) (h : s.ready reads writes = true) :
    s.issue reads writes k = s.finish (k (s.preWritten s.cur (writes.map Reg.pair))) := by
  simp only [State.ready, Bool.and_eq_true, List.all_eq_true, Bool.not_eq_true', Option.isNone_iff_eq_none] at h
  have h1 : ((reads ++ writes).any s.awaits) = false := by
    rw [List.any_eq_false]
    intro x hx
    simp [h.1 x hx]
  simp [State.issue, h1, (s.b.firstMark_eq_none reads).2 h.2]

/-- An instruction whose registers await a load waits: only its clock may start (R98, R106). -/
theorem State.issue_awaits (s : State) (reads writes : List Reg) (k : State → Res)
    (h : (reads ++ writes).any s.awaits = true) :
    ∃ w, s.issue reads writes k = s.finish (.wait w) := by
  exact ⟨_, if_pos h⟩

/-- A general register written by an instruction that is ready. -/
theorem State.writeG_ready (s : State) (n : Nat) (reads : List Reg) (d : BitVec 5) (f : Bank → Word)
    (h : s.ready reads [.g d.toNat] = true) :
    s.writeG n reads d f =
      (s.preWritten s.cur [(false, d.toNat)]).setB ((s.b.setGpr d.toNat (f s.b)).advance n) := by
  simp [State.writeG, State.issue_ready s _ _ _ h, State.next, State.finish, Reg.pair]

/-- Part of a general register written by an instruction that is ready. -/
theorem State.writeGPart_ready (s : State) (n : Nat) (reads : List Reg) (d : BitVec 5) (f : Bank → Word)
    (h : s.ready reads [.g d.toNat] = true) :
    s.writeGPart n reads d f =
      (s.preWritten s.cur [(false, d.toNat)]).setB ((s.b.setGprPart d.toNat (f s.b)).advance n) := by
  simp [State.writeGPart, State.issue_ready s _ _ _ h, State.next, State.finish, Reg.pair]

/-- What an instruction that writes one general register leaves as it was. -/
theorem Kept.setGpr (s : State) (d n : Nat) (w : Word) (l : List (Bool × Nat)) :
    Kept s ((s.preWritten s.cur l).setB ((s.b.setGpr d w).advance n)) [d] [] [] where
  gpr i h := by simp at h; simp [h]
  gmark i h := by simp at h; simp [h]
  vreg i _ := by simp
  vmark i _ := by simp
  kreg i _ := by simp
  rest := by simp
  outside := SameOutside.setB ..

/-- What an instruction that writes part of one general register leaves as it was. -/
theorem Kept.setGprPart (s : State) (d n : Nat) (w : Word) (l : List (Bool × Nat)) :
    Kept s ((s.preWritten s.cur l).setB ((s.b.setGprPart d w).advance n)) [d] [] [] where
  gpr i h := by simp at h; simp [h]
  gmark i _ := by simp
  vreg i _ := by simp
  vmark i _ := by simp
  kreg i _ := by simp
  rest := by simp
  outside := SameOutside.setB ..

theorem toNat_eq_zero_iff {n : Nat} (d : BitVec n) : d.toNat = 0 ↔ d = 0 := by
  constructor
  · intro h; exact BitVec.eq_of_toNat_eq (by simpa using h)
  · rintro rfl; simp

/-- An instruction whose meaning is a write of one general register has the effect SetsG. -/
theorem SetsG.of_writeG (i : Instr) (s : State) (n : Nat) (reads : List Reg) (d : BitVec 5) (f : Bank → Word)
    (hi : exec i s = .next (s.writeG n reads d f)) (h : s.ready reads [.g d.toNat] = true) : SetsG i s d (f s.b) n := by
  refine ⟨_, by rw [hi, State.writeG_ready s n reads d f h], ?_, ?_, ?_, ?_, Kept.setGpr ..⟩ <;>
    simp [toNat_eq_zero_iff]

/-- An instruction whose meaning is a partial write of one general register has the effect SetsPartG. -/
theorem SetsPartG.of_writeGPart (i : Instr) (s : State) (n : Nat) (reads : List Reg) (d : BitVec 5) (f : Bank → Word)
    (hi : exec i s = .next (s.writeGPart n reads d f)) (h : s.ready reads [.g d.toNat] = true) :
    SetsPartG i s d (f s.b) n := by
  refine ⟨_, by rw [hi, State.writeGPart_ready s n reads d f h], ?_, ?_, ?_, ?_, Kept.setGprPart ..⟩ <;>
    simp [toNat_eq_zero_iff]

end Sys2Proof.Machine
end

