-- ==== Sys2Proof/Laws/Encoding.lean ====
section
/-! SUPPORT. The fields of an encoded word, format by format. -/
namespace Sys2Proof.Laws

/-- Bit `j` of a word of this format, field by field. -/
theorem getLsbD_encR (mj : BitVec 6) (d a b : BitVec 5) (f : BitVec 8) (m : BitVec 3) (j : Nat) : (encR mj d a b f m).getLsbD j =
    if j < 3 then m.getLsbD j else
      if j - 3 < 8 then f.getLsbD (j - 3) else
      if j - 3 - 8 < 5 then b.getLsbD (j - 3 - 8) else
      if j - 3 - 8 - 5 < 5 then a.getLsbD (j - 3 - 8 - 5) else
      if j - 3 - 8 - 5 - 5 < 5 then d.getLsbD (j - 3 - 8 - 5 - 5) else
      mj.getLsbD (j - 3 - 8 - 5 - 5 - 5) := by
  have h : (encR mj d a b f m).getLsbD j = BitVec.getLsbD (mj ++ d ++ a ++ b ++ f ++ m : BitVec (6+5+5+5+8+3)) j := rfl
  simp only [h, BitVec.getLsbD_append]

/-- The major of a word of this format. -/
theorem major_encR (mj : BitVec 6) (d a b : BitVec 5) (f : BitVec 8) (m : BitVec 3) : (encR mj d a b f m).extractLsb' 26 6 = mj := by
  apply BitVec.eq_of_getLsbD_eq
  intro i hi
  rw [BitVec.getLsbD_extractLsb', getLsbD_encR]
  rw [if_neg (by omega : ¬ 26 + i < 3)]
  rw [if_neg (by omega : ¬ 26 + i - 3 < 8)]
  rw [if_neg (by omega : ¬ 26 + i - 3 - 8 < 5)]
  rw [if_neg (by omega : ¬ 26 + i - 3 - 8 - 5 < 5)]
  rw [if_neg (by omega : ¬ 26 + i - 3 - 8 - 5 - 5 < 5)]
  simp [hi, (by omega : 26 + i - 3 - 8 - 5 - 5 - 5 = i)]

/-- Whether a word of this format has a literal. -/
theorem needsLit_encR (mj : BitVec 6) (d a b : BitVec 5) (f : BitVec 8) (m : BitVec 3) : needsLit (encR mj d a b f m) = decide (0x3c ≤ mj.toNat) := by
  rw [needsLit, major_encR]

/-- Bit `j` of a word of this format, field by field. -/
theorem getLsbD_encI (mj : BitVec 6) (d a : BitVec 5) (i : BitVec 16) (j : Nat) : (encI mj d a i).getLsbD j =
    if j < 16 then i.getLsbD j else
      if j - 16 < 5 then a.getLsbD (j - 16) else
      if j - 16 - 5 < 5 then d.getLsbD (j - 16 - 5) else
      mj.getLsbD (j - 16 - 5 - 5) := by
  have h : (encI mj d a i).getLsbD j = BitVec.getLsbD (mj ++ d ++ a ++ i : BitVec (6+5+5+16)) j := rfl
  simp only [h, BitVec.getLsbD_append]

/-- The major of a word of this format. -/
theorem major_encI (mj : BitVec 6) (d a : BitVec 5) (i : BitVec 16) : (encI mj d a i).extractLsb' 26 6 = mj := by
  apply BitVec.eq_of_getLsbD_eq
  intro i hi
  rw [BitVec.getLsbD_extractLsb', getLsbD_encI]
  rw [if_neg (by omega : ¬ 26 + i < 16)]
  rw [if_neg (by omega : ¬ 26 + i - 16 < 5)]
  rw [if_neg (by omega : ¬ 26 + i - 16 - 5 < 5)]
  simp [hi, (by omega : 26 + i - 16 - 5 - 5 = i)]

/-- Whether a word of this format has a literal. -/
theorem needsLit_encI (mj : BitVec 6) (d a : BitVec 5) (i : BitVec 16) : needsLit (encI mj d a i) = decide (0x3c ≤ mj.toNat) := by
  rw [needsLit, major_encI]

/-- Bit `j` of a word of this format, field by field. -/
theorem getLsbD_encM (mj : BitVec 6) (t b : BitVec 5) (s : BitVec 2) (x : BitVec 1) (o c : BitVec 2) (f : BitVec 9) (j : Nat) : (encM mj t b s x o c f).getLsbD j =
    if j < 9 then f.getLsbD j else
      if j - 9 < 2 then c.getLsbD (j - 9) else
      if j - 9 - 2 < 2 then o.getLsbD (j - 9 - 2) else
      if j - 9 - 2 - 2 < 1 then x.getLsbD (j - 9 - 2 - 2) else
      if j - 9 - 2 - 2 - 1 < 2 then s.getLsbD (j - 9 - 2 - 2 - 1) else
      if j - 9 - 2 - 2 - 1 - 2 < 5 then b.getLsbD (j - 9 - 2 - 2 - 1 - 2) else
      if j - 9 - 2 - 2 - 1 - 2 - 5 < 5 then t.getLsbD (j - 9 - 2 - 2 - 1 - 2 - 5) else
      mj.getLsbD (j - 9 - 2 - 2 - 1 - 2 - 5 - 5) := by
  have h : (encM mj t b s x o c f).getLsbD j = BitVec.getLsbD (mj ++ t ++ b ++ s ++ x ++ o ++ c ++ f : BitVec (6+5+5+2+1+2+2+9)) j := rfl
  simp only [h, BitVec.getLsbD_append]

/-- The major of a word of this format. -/
theorem major_encM (mj : BitVec 6) (t b : BitVec 5) (s : BitVec 2) (x : BitVec 1) (o c : BitVec 2) (f : BitVec 9) : (encM mj t b s x o c f).extractLsb' 26 6 = mj := by
  apply BitVec.eq_of_getLsbD_eq
  intro i hi
  rw [BitVec.getLsbD_extractLsb', getLsbD_encM]
  rw [if_neg (by omega : ¬ 26 + i < 9)]
  rw [if_neg (by omega : ¬ 26 + i - 9 < 2)]
  rw [if_neg (by omega : ¬ 26 + i - 9 - 2 < 2)]
  rw [if_neg (by omega : ¬ 26 + i - 9 - 2 - 2 < 1)]
  rw [if_neg (by omega : ¬ 26 + i - 9 - 2 - 2 - 1 < 2)]
  rw [if_neg (by omega : ¬ 26 + i - 9 - 2 - 2 - 1 - 2 < 5)]
  rw [if_neg (by omega : ¬ 26 + i - 9 - 2 - 2 - 1 - 2 - 5 < 5)]
  simp [hi, (by omega : 26 + i - 9 - 2 - 2 - 1 - 2 - 5 - 5 = i)]

/-- Whether a word of this format has a literal. -/
theorem needsLit_encM (mj : BitVec 6) (t b : BitVec 5) (s : BitVec 2) (x : BitVec 1) (o c : BitVec 2) (f : BitVec 9) : needsLit (encM mj t b s x o c f) = decide (0x3c ≤ mj.toNat) := by
  rw [needsLit, major_encM]

/-- Bit `j` of a word of this format, field by field. -/
theorem getLsbD_encB (mj : BitVec 6) (a b : BitVec 5) (o : BitVec 16) (j : Nat) : (encB mj a b o).getLsbD j =
    if j < 16 then o.getLsbD j else
      if j - 16 < 5 then b.getLsbD (j - 16) else
      if j - 16 - 5 < 5 then a.getLsbD (j - 16 - 5) else
      mj.getLsbD (j - 16 - 5 - 5) := by
  have h : (encB mj a b o).getLsbD j = BitVec.getLsbD (mj ++ a ++ b ++ o : BitVec (6+5+5+16)) j := rfl
  simp only [h, BitVec.getLsbD_append]

/-- The major of a word of this format. -/
theorem major_encB (mj : BitVec 6) (a b : BitVec 5) (o : BitVec 16) : (encB mj a b o).extractLsb' 26 6 = mj := by
  apply BitVec.eq_of_getLsbD_eq
  intro i hi
  rw [BitVec.getLsbD_extractLsb', getLsbD_encB]
  rw [if_neg (by omega : ¬ 26 + i < 16)]
  rw [if_neg (by omega : ¬ 26 + i - 16 < 5)]
  rw [if_neg (by omega : ¬ 26 + i - 16 - 5 < 5)]
  simp [hi, (by omega : 26 + i - 16 - 5 - 5 = i)]

/-- Whether a word of this format has a literal. -/
theorem needsLit_encB (mj : BitVec 6) (a b : BitVec 5) (o : BitVec 16) : needsLit (encB mj a b o) = decide (0x3c ≤ mj.toNat) := by
  rw [needsLit, major_encB]

/-- Bit `j` of a word of this format, field by field. -/
theorem getLsbD_encJ (mj : BitVec 6) (o : BitVec 26) (j : Nat) : (encJ mj o).getLsbD j =
    if j < 26 then o.getLsbD j else
      mj.getLsbD (j - 26) := by
  have h : (encJ mj o).getLsbD j = BitVec.getLsbD (mj ++ o : BitVec (6+26)) j := rfl
  simp only [h, BitVec.getLsbD_append]

/-- The major of a word of this format. -/
theorem major_encJ (mj : BitVec 6) (o : BitVec 26) : (encJ mj o).extractLsb' 26 6 = mj := by
  apply BitVec.eq_of_getLsbD_eq
  intro i hi
  rw [BitVec.getLsbD_extractLsb', getLsbD_encJ]
  rw [if_neg (by omega : ¬ 26 + i < 26)]
  simp [hi, (by omega : 26 + i - 26 = i)]

/-- Whether a word of this format has a literal. -/
theorem needsLit_encJ (mj : BitVec 6) (o : BitVec 26) : needsLit (encJ mj o) = decide (0x3c ≤ mj.toNat) := by
  rw [needsLit, major_encJ]

/-- Bit `j` of a word of this format, field by field. -/
theorem getLsbD_encV (mj : BitVec 6) (d a b : BitVec 4) (k e : BitVec 3) (f : BitVec 8) (j : Nat) : (encV mj d a b k e f).getLsbD j =
    if j < 8 then f.getLsbD j else
      if j - 8 < 3 then e.getLsbD (j - 8) else
      if j - 8 - 3 < 3 then k.getLsbD (j - 8 - 3) else
      if j - 8 - 3 - 3 < 4 then b.getLsbD (j - 8 - 3 - 3) else
      if j - 8 - 3 - 3 - 4 < 4 then a.getLsbD (j - 8 - 3 - 3 - 4) else
      if j - 8 - 3 - 3 - 4 - 4 < 4 then d.getLsbD (j - 8 - 3 - 3 - 4 - 4) else
      mj.getLsbD (j - 8 - 3 - 3 - 4 - 4 - 4) := by
  have h : (encV mj d a b k e f).getLsbD j = BitVec.getLsbD (mj ++ d ++ a ++ b ++ k ++ e ++ f : BitVec (6+4+4+4+3+3+8)) j := rfl
  simp only [h, BitVec.getLsbD_append]

/-- The major of a word of this format. -/
theorem major_encV (mj : BitVec 6) (d a b : BitVec 4) (k e : BitVec 3) (f : BitVec 8) : (encV mj d a b k e f).extractLsb' 26 6 = mj := by
  apply BitVec.eq_of_getLsbD_eq
  intro i hi
  rw [BitVec.getLsbD_extractLsb', getLsbD_encV]
  rw [if_neg (by omega : ¬ 26 + i < 8)]
  rw [if_neg (by omega : ¬ 26 + i - 8 < 3)]
  rw [if_neg (by omega : ¬ 26 + i - 8 - 3 < 3)]
  rw [if_neg (by omega : ¬ 26 + i - 8 - 3 - 3 < 4)]
  rw [if_neg (by omega : ¬ 26 + i - 8 - 3 - 3 - 4 < 4)]
  rw [if_neg (by omega : ¬ 26 + i - 8 - 3 - 3 - 4 - 4 < 4)]
  simp [hi, (by omega : 26 + i - 8 - 3 - 3 - 4 - 4 - 4 = i)]

/-- Whether a word of this format has a literal. -/
theorem needsLit_encV (mj : BitVec 6) (d a b : BitVec 4) (k e : BitVec 3) (f : BitVec 8) : needsLit (encV mj d a b k e f) = decide (0x3c ≤ mj.toNat) := by
  rw [needsLit, major_encV]

/-- Bit `j` of a word of this format, field by field. -/
theorem getLsbD_encQ (mj : BitVec 6) (r : BitVec 5) (q : BitVec 6) (k : BitVec 3) (n : BitVec 4) (g : BitVec 8) (j : Nat) : (encQ mj r q k n g).getLsbD j =
    if j < 8 then g.getLsbD j else
      if j - 8 < 4 then n.getLsbD (j - 8) else
      if j - 8 - 4 < 3 then k.getLsbD (j - 8 - 4) else
      if j - 8 - 4 - 3 < 6 then q.getLsbD (j - 8 - 4 - 3) else
      if j - 8 - 4 - 3 - 6 < 5 then r.getLsbD (j - 8 - 4 - 3 - 6) else
      mj.getLsbD (j - 8 - 4 - 3 - 6 - 5) := by
  have h : (encQ mj r q k n g).getLsbD j = BitVec.getLsbD (mj ++ r ++ q ++ k ++ n ++ g : BitVec (6+5+6+3+4+8)) j := rfl
  simp only [h, BitVec.getLsbD_append]

/-- The major of a word of this format. -/
theorem major_encQ (mj : BitVec 6) (r : BitVec 5) (q : BitVec 6) (k : BitVec 3) (n : BitVec 4) (g : BitVec 8) : (encQ mj r q k n g).extractLsb' 26 6 = mj := by
  apply BitVec.eq_of_getLsbD_eq
  intro i hi
  rw [BitVec.getLsbD_extractLsb', getLsbD_encQ]
  rw [if_neg (by omega : ¬ 26 + i < 8)]
  rw [if_neg (by omega : ¬ 26 + i - 8 < 4)]
  rw [if_neg (by omega : ¬ 26 + i - 8 - 4 < 3)]
  rw [if_neg (by omega : ¬ 26 + i - 8 - 4 - 3 < 6)]
  rw [if_neg (by omega : ¬ 26 + i - 8 - 4 - 3 - 6 < 5)]
  simp [hi, (by omega : 26 + i - 8 - 4 - 3 - 6 - 5 = i)]

/-- Whether a word of this format has a literal. -/
theorem needsLit_encQ (mj : BitVec 6) (r : BitVec 5) (q : BitVec 6) (k : BitVec 3) (n : BitVec 4) (g : BitVec 8) : needsLit (encQ mj r q k n g) = decide (0x3c ≤ mj.toNat) := by
  rw [needsLit, major_encQ]

/-- Bit `j` of a word of this format, field by field. -/
theorem getLsbD_encE (mj : BitVec 6) (d s b c : BitVec 5) (f : BitVec 6) (j : Nat) : (encE mj d s b c f).getLsbD j =
    if j < 6 then f.getLsbD j else
      if j - 6 < 5 then c.getLsbD (j - 6) else
      if j - 6 - 5 < 5 then b.getLsbD (j - 6 - 5) else
      if j - 6 - 5 - 5 < 5 then s.getLsbD (j - 6 - 5 - 5) else
      if j - 6 - 5 - 5 - 5 < 5 then d.getLsbD (j - 6 - 5 - 5 - 5) else
      mj.getLsbD (j - 6 - 5 - 5 - 5 - 5) := by
  have h : (encE mj d s b c f).getLsbD j = BitVec.getLsbD (mj ++ d ++ s ++ b ++ c ++ f : BitVec (6+5+5+5+5+6)) j := rfl
  simp only [h, BitVec.getLsbD_append]

/-- The major of a word of this format. -/
theorem major_encE (mj : BitVec 6) (d s b c : BitVec 5) (f : BitVec 6) : (encE mj d s b c f).extractLsb' 26 6 = mj := by
  apply BitVec.eq_of_getLsbD_eq
  intro i hi
  rw [BitVec.getLsbD_extractLsb', getLsbD_encE]
  rw [if_neg (by omega : ¬ 26 + i < 6)]
  rw [if_neg (by omega : ¬ 26 + i - 6 < 5)]
  rw [if_neg (by omega : ¬ 26 + i - 6 - 5 < 5)]
  rw [if_neg (by omega : ¬ 26 + i - 6 - 5 - 5 < 5)]
  rw [if_neg (by omega : ¬ 26 + i - 6 - 5 - 5 - 5 < 5)]
  simp [hi, (by omega : 26 + i - 6 - 5 - 5 - 5 - 5 = i)]

/-- Whether a word of this format has a literal. -/
theorem needsLit_encE (mj : BitVec 6) (d s b c : BitVec 5) (f : BitVec 6) : needsLit (encE mj d s b c f) = decide (0x3c ≤ mj.toNat) := by
  rw [needsLit, major_encE]

/-- Bit `j` of a word of this format, field by field. -/
theorem getLsbD_encX2 (mj : BitVec 6) (d a : BitVec 5) (bm : BitVec 6) (z : BitVec 10) (j : Nat) : (encX2 mj d a bm z).getLsbD j =
    if j < 10 then z.getLsbD j else
      if j - 10 < 6 then bm.getLsbD (j - 10) else
      if j - 10 - 6 < 5 then a.getLsbD (j - 10 - 6) else
      if j - 10 - 6 - 5 < 5 then d.getLsbD (j - 10 - 6 - 5) else
      mj.getLsbD (j - 10 - 6 - 5 - 5) := by
  have h : (encX2 mj d a bm z).getLsbD j = BitVec.getLsbD (mj ++ d ++ a ++ bm ++ z : BitVec (6+5+5+6+10)) j := rfl
  simp only [h, BitVec.getLsbD_append]

/-- The major of a word of this format. -/
theorem major_encX2 (mj : BitVec 6) (d a : BitVec 5) (bm : BitVec 6) (z : BitVec 10) : (encX2 mj d a bm z).extractLsb' 26 6 = mj := by
  apply BitVec.eq_of_getLsbD_eq
  intro i hi
  rw [BitVec.getLsbD_extractLsb', getLsbD_encX2]
  rw [if_neg (by omega : ¬ 26 + i < 10)]
  rw [if_neg (by omega : ¬ 26 + i - 10 < 6)]
  rw [if_neg (by omega : ¬ 26 + i - 10 - 6 < 5)]
  rw [if_neg (by omega : ¬ 26 + i - 10 - 6 - 5 < 5)]
  simp [hi, (by omega : 26 + i - 10 - 6 - 5 - 5 = i)]

/-- Whether a word of this format has a literal. -/
theorem needsLit_encX2 (mj : BitVec 6) (d a : BitVec 5) (bm : BitVec 6) (z : BitVec 10) : needsLit (encX2 mj d a bm z) = decide (0x3c ≤ mj.toNat) := by
  rw [needsLit, major_encX2]

end Sys2Proof.Laws
end

