-- ==== Sys2Proof/Laws/State.lean ====
section
/-! SUPPORT. What the updates of one table leave alone: each field of State, update by update, and what the tables' readers give. -/
namespace Sys2Proof.Machine

/-! ### Banks -/

@[simp] theorem State.setBank_turns (s : State) (r : Nat) (b : Bank) : (s.setBank r b).turns = s.turns := by unfold State.setBank; split <;> rfl
@[simp] theorem State.setBank_cur (s : State) (r : Nat) (b : Bank) : (s.setBank r b).cur = s.cur := by unfold State.setBank; split <;> rfl
@[simp] theorem State.setBank_late (s : State) (r : Nat) (b : Bank) : (s.setBank r b).late = s.late := by unfold State.setBank; split <;> rfl
@[simp] theorem State.setBank_choice (s : State) (r : Nat) (b : Bank) : (s.setBank r b).choice = s.choice := by unfold State.setBank; split <;> rfl
@[simp] theorem State.setBank_fresh (s : State) (r : Nat) (b : Bank) : (s.setBank r b).fresh = s.fresh := by unfold State.setBank; split <;> rfl
@[simp] theorem State.setBank_cycle (s : State) (r : Nat) (b : Bank) : (s.setBank r b).cycle = s.cycle := by unfold State.setBank; split <;> rfl
@[simp] theorem State.setBank_active (s : State) (r : Nat) (b : Bank) : (s.setBank r b).active = s.active := by unfold State.setBank; split <;> rfl
@[simp] theorem State.setBank_mem (s : State) (r : Nat) (b : Bank) : (s.setBank r b).mem = s.mem := by unfold State.setBank; split <;> rfl
@[simp] theorem State.setBank_lines (s : State) (r : Nat) (b : Bank) : (s.setBank r b).lines = s.lines := by unfold State.setBank; split <;> rfl
@[simp] theorem State.setBank_wpoison (s : State) (r : Nat) (b : Bank) : (s.setBank r b).wpoison = s.wpoison := by unfold State.setBank; split <;> rfl
@[simp] theorem State.setBank_dirty (s : State) (r : Nat) (b : Bank) : (s.setBank r b).dirty = s.dirty := by unfold State.setBank; split <;> rfl
@[simp] theorem State.setBank_hostLines (s : State) (r : Nat) (b : Bank) : (s.setBank r b).hostLines = s.hostLines := by unfold State.setBank; split <;> rfl
@[simp] theorem State.setBank_hostWb (s : State) (r : Nat) (b : Bank) : (s.setBank r b).hostWb = s.hostWb := by unfold State.setBank; split <;> rfl
@[simp] theorem State.setBank_caches (s : State) (r : Nat) (b : Bank) : (s.setBank r b).caches = s.caches := by unfold State.setBank; split <;> rfl
@[simp] theorem State.setBank_pre (s : State) (r : Nat) (b : Bank) : (s.setBank r b).pre = s.pre := by unfold State.setBank; split <;> rfl
@[simp] theorem State.setBank_ctl (s : State) (r : Nat) (b : Bank) : (s.setBank r b).ctl = s.ctl := by unfold State.setBank; split <;> rfl
@[simp] theorem State.setBank_held (s : State) (r : Nat) (b : Bank) : (s.setBank r b).held = s.held := by unfold State.setBank; split <;> rfl
@[simp] theorem State.setBank_l1tlb (s : State) (r : Nat) (b : Bank) : (s.setBank r b).l1tlb = s.l1tlb := by unfold State.setBank; split <;> rfl
@[simp] theorem State.setBank_cltlb (s : State) (r : Nat) (b : Bank) : (s.setBank r b).cltlb = s.cltlb := by unfold State.setBank; split <;> rfl
@[simp] theorem State.setBank_keys (s : State) (r : Nat) (b : Bank) : (s.setBank r b).keys = s.keys := by unfold State.setBank; split <;> rfl
@[simp] theorem State.setBank_nextVer (s : State) (r : Nat) (b : Bank) : (s.setBank r b).nextVer = s.nextVer := by unfold State.setBank; split <;> rfl
@[simp] theorem State.setBank_regions (s : State) (r : Nat) (b : Bank) : (s.setBank r b).regions = s.regions := by unfold State.setBank; split <;> rfl
@[simp] theorem State.setBank_regstat (s : State) (r : Nat) (b : Bank) : (s.setBank r b).regstat = s.regstat := by unfold State.setBank; split <;> rfl
@[simp] theorem State.setBank_ranges (s : State) (r : Nat) (b : Bank) : (s.setBank r b).ranges = s.ranges := by unfold State.setBank; split <;> rfl
@[simp] theorem State.setBank_bins (s : State) (r : Nat) (b : Bank) : (s.setBank r b).bins = s.bins := by unfold State.setBank; split <;> rfl
@[simp] theorem State.setBank_logs (s : State) (r : Nat) (b : Bank) : (s.setBank r b).logs = s.logs := by unfold State.setBank; split <;> rfl
@[simp] theorem State.setBank_pairs (s : State) (r : Nat) (b : Bank) : (s.setBank r b).pairs = s.pairs := by unfold State.setBank; split <;> rfl
@[simp] theorem State.setBank_peerRegions (s : State) (r : Nat) (b : Bank) : (s.setBank r b).peerRegions = s.peerRegions := by unfold State.setBank; split <;> rfl
@[simp] theorem State.setBank_time (s : State) (r : Nat) (b : Bank) : (s.setBank r b).time = s.time := by unfold State.setBank; split <;> rfl
@[simp] theorem State.setBank_events (s : State) (r : Nat) (b : Bank) : (s.setBank r b).events = s.events := by unfold State.setBank; split <;> rfl
@[simp] theorem State.setBank_pkg (s : State) (r : Nat) (b : Bank) : (s.setBank r b).pkg = s.pkg := by unfold State.setBank; split <;> rfl
@[simp] theorem State.setBank_pkgLock (s : State) (r : Nat) (b : Bank) : (s.setBank r b).pkgLock = s.pkgLock := by unfold State.setBank; split <;> rfl
@[simp] theorem State.setBank_strapPkg (s : State) (r : Nat) (b : Bank) : (s.setBank r b).strapPkg = s.strapPkg := by unfold State.setBank; split <;> rfl
@[simp] theorem State.setBank_bootFail (s : State) (r : Nat) (b : Bank) : (s.setBank r b).bootFail = s.bootFail := by unfold State.setBank; split <;> rfl
@[simp] theorem State.setBank_hostOut (s : State) (r : Nat) (b : Bank) : (s.setBank r b).hostOut = s.hostOut := by unfold State.setBank; split <;> rfl
@[simp] theorem State.setBank_rinc (s : State) (r : Nat) (b : Bank) : (s.setBank r b).rinc = s.rinc := by unfold State.setBank; split <;> rfl
@[simp] theorem State.setBank_oinc (s : State) (r : Nat) (b : Bank) : (s.setBank r b).oinc = s.oinc := by unfold State.setBank; split <;> rfl
@[simp] theorem State.setBank_sboot (s : State) (r : Nat) (b : Bank) : (s.setBank r b).sboot = s.sboot := by unfold State.setBank; split <;> rfl
@[simp] theorem State.setBank_strap (s : State) (r : Nat) (b : Bank) : (s.setBank r b).strap = s.strap := by unfold State.setBank; split <;> rfl
@[simp] theorem State.setBank_hostPorts (s : State) (r : Nat) (b : Bank) : (s.setBank r b).hostPorts = s.hostPorts := by unfold State.setBank; split <;> rfl
@[simp] theorem State.setBank_plimit (s : State) (r : Nat) (b : Bank) : (s.setBank r b).plimit = s.plimit := by unfold State.setBank; split <;> rfl
@[simp] theorem State.setBank_throttled (s : State) (r : Nat) (b : Bank) : (s.setBank r b).throttled = s.throttled := by unfold State.setBank; split <;> rfl
@[simp] theorem State.setBank_power (s : State) (r : Nat) (b : Bank) : (s.setBank r b).power = s.power := by unfold State.setBank; split <;> rfl
@[simp] theorem State.setBank_scrubActive (s : State) (r : Nat) (b : Bank) : (s.setBank r b).scrubActive = s.scrubActive := by unfold State.setBank; split <;> rfl
@[simp] theorem State.setBank_scrubPasses (s : State) (r : Nat) (b : Bank) : (s.setBank r b).scrubPasses = s.scrubPasses := by unfold State.setBank; split <;> rfl
@[simp] theorem State.setBank_scrubPeriod (s : State) (r : Nat) (b : Bank) : (s.setBank r b).scrubPeriod = s.scrubPeriod := by unfold State.setBank; split <;> rfl
@[simp] theorem State.setBank_patrol (s : State) (r : Nat) (b : Bank) : (s.setBank r b).patrol = s.patrol := by unfold State.setBank; split <;> rfl
@[simp] theorem State.setBank_rops (s : State) (r : Nat) (b : Bank) : (s.setBank r b).rops = s.rops := by unfold State.setBank; split <;> rfl
@[simp] theorem State.setBank_nextOp (s : State) (r : Nat) (b : Bank) : (s.setBank r b).nextOp = s.nextOp := by unfold State.setBank; split <;> rfl
@[simp] theorem State.setBank_chans (s : State) (r : Nat) (b : Bank) : (s.setBank r b).chans = s.chans := by unfold State.setBank; split <;> rfl
@[simp] theorem State.setBank_oincs (s : State) (r : Nat) (b : Bank) : (s.setBank r b).oincs = s.oincs := by unfold State.setBank; split <;> rfl
@[simp] theorem State.setBank_owner (s : State) (r : Nat) (b : Bank) : (s.setBank r b).owner = s.owner := by unfold State.setBank; split <;> rfl
@[simp] theorem State.setBank_routes (s : State) (r : Nat) (b : Bank) : (s.setBank r b).routes = s.routes := by unfold State.setBank; split <;> rfl
@[simp] theorem State.setBank_ports (s : State) (r : Nat) (b : Bank) : (s.setBank r b).ports = s.ports := by unfold State.setBank; split <;> rfl
@[simp] theorem State.setBank_outbox (s : State) (r : Nat) (b : Bank) : (s.setBank r b).outbox = s.outbox := by unfold State.setBank; split <;> rfl
@[simp] theorem State.setBank_lseq (s : State) (r : Nat) (b : Bank) : (s.setBank r b).lseq = s.lseq := by unfold State.setBank; split <;> rfl
@[simp] theorem State.setBank_chainPort (s : State) (r : Nat) (b : Bank) : (s.setBank r b).chainPort = s.chainPort := by unfold State.setBank; split <;> rfl
@[simp] theorem State.setBank_inbox (s : State) (r : Nat) (b : Bank) : (s.setBank r b).inbox = s.inbox := by unfold State.setBank; split <;> rfl
@[simp] theorem State.setBank_cmds (s : State) (r : Nat) (b : Bank) : (s.setBank r b).cmds = s.cmds := by unfold State.setBank; split <;> rfl
@[simp] theorem State.setBank_nextCmd (s : State) (r : Nat) (b : Bank) : (s.setBank r b).nextCmd = s.nextCmd := by unfold State.setBank; split <;> rfl
@[simp] theorem State.setBank_queues (s : State) (r : Nat) (b : Bank) : (s.setBank r b).queues = s.queues := by unfold State.setBank; split <;> rfl
@[simp] theorem State.setBank_pages (s : State) (r : Nat) (b : Bank) : (s.setBank r b).pages = s.pages := by unfold State.setBank; split <;> rfl
@[simp] theorem State.setBank_arcs (s : State) (r : Nat) (b : Bank) : (s.setBank r b).arcs = s.arcs := by unfold State.setBank; split <;> rfl
@[simp] theorem State.setBank_net (s : State) (r : Nat) (b : Bank) : (s.setBank r b).net = s.net := by unfold State.setBank; split <;> rfl
@[simp] theorem State.setBank_saved (s : State) (r : Nat) (b : Bank) : (s.setBank r b).saved = s.saved := by unfold State.setBank; split <;> rfl
@[simp] theorem State.setBank_ochre (s : State) (r : Nat) (b : Bank) : (s.setBank r b).ochre = s.ochre := by unfold State.setBank; split <;> rfl
@[simp] theorem State.setBank_scmd (s : State) (r : Nat) (b : Bank) : (s.setBank r b).scmd = s.scmd := by unfold State.setBank; split <;> rfl
@[simp] theorem State.setBank_sstat (s : State) (r : Nat) (b : Bank) : (s.setBank r b).sstat = s.sstat := by unfold State.setBank; split <;> rfl
@[simp] theorem State.setBank_rcbptr (s : State) (r : Nat) (b : Bank) : (s.setBank r b).rcbptr = s.rcbptr := by unfold State.setBank; split <;> rfl
@[simp] theorem State.setBank_faultq (s : State) (r : Nat) (b : Bank) : (s.setBank r b).faultq = s.faultq := by unfold State.setBank; split <;> rfl
@[simp] theorem State.setBank_rcbs (s : State) (r : Nat) (b : Bank) : (s.setBank r b).rcbs = s.rcbs := by unfold State.setBank; split <;> rfl
@[simp] theorem State.setBank_leaves (s : State) (r : Nat) (b : Bank) : (s.setBank r b).leaves = s.leaves := by unfold State.setBank; split <;> rfl
@[simp] theorem State.setBank_nextLid (s : State) (r : Nat) (b : Bank) : (s.setBank r b).nextLid = s.nextLid := by unfold State.setBank; split <;> rfl
@[simp] theorem State.setBank_launches (s : State) (r : Nat) (b : Bank) : (s.setBank r b).launches = s.launches := by unfold State.setBank; split <;> rfl
@[simp] theorem State.setBank_groups (s : State) (r : Nat) (b : Bank) : (s.setBank r b).groups = s.groups := by unfold State.setBank; split <;> rfl
@[simp] theorem State.setBank_conts (s : State) (r : Nat) (b : Bank) : (s.setBank r b).conts = s.conts := by unfold State.setBank; split <;> rfl
@[simp] theorem State.setBank_runqs (s : State) (r : Nat) (b : Bank) : (s.setBank r b).runqs = s.runqs := by unfold State.setBank; split <;> rfl
@[simp] theorem State.setBank_sems (s : State) (r : Nat) (b : Bank) : (s.setBank r b).sems = s.sems := by unfold State.setBank; split <;> rfl
@[simp] theorem State.setBank_bars (s : State) (r : Nat) (b : Bank) : (s.setBank r b).bars = s.bars := by unfold State.setBank; split <;> rfl

@[simp] theorem State.setB_eq (s : State) (b : Bank) : s.setB b = s.setBank s.cur b := rfl

/-! ### setCont -/

@[simp] theorem State.setCont_turns (s : State) (c : Nat) (k : Cont) : (s.setCont c k).turns = s.turns := rfl
@[simp] theorem State.setCont_cur (s : State) (c : Nat) (k : Cont) : (s.setCont c k).cur = s.cur := rfl
@[simp] theorem State.setCont_late (s : State) (c : Nat) (k : Cont) : (s.setCont c k).late = s.late := rfl
@[simp] theorem State.setCont_choice (s : State) (c : Nat) (k : Cont) : (s.setCont c k).choice = s.choice := rfl
@[simp] theorem State.setCont_fresh (s : State) (c : Nat) (k : Cont) : (s.setCont c k).fresh = s.fresh := rfl
@[simp] theorem State.setCont_cycle (s : State) (c : Nat) (k : Cont) : (s.setCont c k).cycle = s.cycle := rfl
@[simp] theorem State.setCont_banks (s : State) (c : Nat) (k : Cont) : (s.setCont c k).banks = s.banks := rfl
@[simp] theorem State.setCont_svcs (s : State) (c : Nat) (k : Cont) : (s.setCont c k).svcs = s.svcs := rfl
@[simp] theorem State.setCont_active (s : State) (c : Nat) (k : Cont) : (s.setCont c k).active = s.active := rfl
@[simp] theorem State.setCont_mem (s : State) (c : Nat) (k : Cont) : (s.setCont c k).mem = s.mem := rfl
@[simp] theorem State.setCont_lines (s : State) (c : Nat) (k : Cont) : (s.setCont c k).lines = s.lines := rfl
@[simp] theorem State.setCont_wpoison (s : State) (c : Nat) (k : Cont) : (s.setCont c k).wpoison = s.wpoison := rfl
@[simp] theorem State.setCont_dirty (s : State) (c : Nat) (k : Cont) : (s.setCont c k).dirty = s.dirty := rfl
@[simp] theorem State.setCont_hostLines (s : State) (c : Nat) (k : Cont) : (s.setCont c k).hostLines = s.hostLines := rfl
@[simp] theorem State.setCont_hostWb (s : State) (c : Nat) (k : Cont) : (s.setCont c k).hostWb = s.hostWb := rfl
@[simp] theorem State.setCont_caches (s : State) (c : Nat) (k : Cont) : (s.setCont c k).caches = s.caches := rfl
@[simp] theorem State.setCont_pre (s : State) (c : Nat) (k : Cont) : (s.setCont c k).pre = s.pre := rfl
@[simp] theorem State.setCont_ctl (s : State) (c : Nat) (k : Cont) : (s.setCont c k).ctl = s.ctl := rfl
@[simp] theorem State.setCont_held (s : State) (c : Nat) (k : Cont) : (s.setCont c k).held = s.held := rfl
@[simp] theorem State.setCont_l1tlb (s : State) (c : Nat) (k : Cont) : (s.setCont c k).l1tlb = s.l1tlb := rfl
@[simp] theorem State.setCont_cltlb (s : State) (c : Nat) (k : Cont) : (s.setCont c k).cltlb = s.cltlb := rfl
@[simp] theorem State.setCont_keys (s : State) (c : Nat) (k : Cont) : (s.setCont c k).keys = s.keys := rfl
@[simp] theorem State.setCont_nextVer (s : State) (c : Nat) (k : Cont) : (s.setCont c k).nextVer = s.nextVer := rfl
@[simp] theorem State.setCont_regions (s : State) (c : Nat) (k : Cont) : (s.setCont c k).regions = s.regions := rfl
@[simp] theorem State.setCont_regstat (s : State) (c : Nat) (k : Cont) : (s.setCont c k).regstat = s.regstat := rfl
@[simp] theorem State.setCont_ranges (s : State) (c : Nat) (k : Cont) : (s.setCont c k).ranges = s.ranges := rfl
@[simp] theorem State.setCont_bins (s : State) (c : Nat) (k : Cont) : (s.setCont c k).bins = s.bins := rfl
@[simp] theorem State.setCont_logs (s : State) (c : Nat) (k : Cont) : (s.setCont c k).logs = s.logs := rfl
@[simp] theorem State.setCont_pairs (s : State) (c : Nat) (k : Cont) : (s.setCont c k).pairs = s.pairs := rfl
@[simp] theorem State.setCont_peerRegions (s : State) (c : Nat) (k : Cont) : (s.setCont c k).peerRegions = s.peerRegions := rfl
@[simp] theorem State.setCont_time (s : State) (c : Nat) (k : Cont) : (s.setCont c k).time = s.time := rfl
@[simp] theorem State.setCont_events (s : State) (c : Nat) (k : Cont) : (s.setCont c k).events = s.events := rfl
@[simp] theorem State.setCont_pkg (s : State) (c : Nat) (k : Cont) : (s.setCont c k).pkg = s.pkg := rfl
@[simp] theorem State.setCont_pkgLock (s : State) (c : Nat) (k : Cont) : (s.setCont c k).pkgLock = s.pkgLock := rfl
@[simp] theorem State.setCont_strapPkg (s : State) (c : Nat) (k : Cont) : (s.setCont c k).strapPkg = s.strapPkg := rfl
@[simp] theorem State.setCont_bootFail (s : State) (c : Nat) (k : Cont) : (s.setCont c k).bootFail = s.bootFail := rfl
@[simp] theorem State.setCont_hostOut (s : State) (c : Nat) (k : Cont) : (s.setCont c k).hostOut = s.hostOut := rfl
@[simp] theorem State.setCont_rinc (s : State) (c : Nat) (k : Cont) : (s.setCont c k).rinc = s.rinc := rfl
@[simp] theorem State.setCont_oinc (s : State) (c : Nat) (k : Cont) : (s.setCont c k).oinc = s.oinc := rfl
@[simp] theorem State.setCont_sboot (s : State) (c : Nat) (k : Cont) : (s.setCont c k).sboot = s.sboot := rfl
@[simp] theorem State.setCont_strap (s : State) (c : Nat) (k : Cont) : (s.setCont c k).strap = s.strap := rfl
@[simp] theorem State.setCont_hostPorts (s : State) (c : Nat) (k : Cont) : (s.setCont c k).hostPorts = s.hostPorts := rfl
@[simp] theorem State.setCont_plimit (s : State) (c : Nat) (k : Cont) : (s.setCont c k).plimit = s.plimit := rfl
@[simp] theorem State.setCont_throttled (s : State) (c : Nat) (k : Cont) : (s.setCont c k).throttled = s.throttled := rfl
@[simp] theorem State.setCont_power (s : State) (c : Nat) (k : Cont) : (s.setCont c k).power = s.power := rfl
@[simp] theorem State.setCont_scrubActive (s : State) (c : Nat) (k : Cont) : (s.setCont c k).scrubActive = s.scrubActive := rfl
@[simp] theorem State.setCont_scrubPasses (s : State) (c : Nat) (k : Cont) : (s.setCont c k).scrubPasses = s.scrubPasses := rfl
@[simp] theorem State.setCont_scrubPeriod (s : State) (c : Nat) (k : Cont) : (s.setCont c k).scrubPeriod = s.scrubPeriod := rfl
@[simp] theorem State.setCont_patrol (s : State) (c : Nat) (k : Cont) : (s.setCont c k).patrol = s.patrol := rfl
@[simp] theorem State.setCont_rops (s : State) (c : Nat) (k : Cont) : (s.setCont c k).rops = s.rops := rfl
@[simp] theorem State.setCont_nextOp (s : State) (c : Nat) (k : Cont) : (s.setCont c k).nextOp = s.nextOp := rfl
@[simp] theorem State.setCont_chans (s : State) (c : Nat) (k : Cont) : (s.setCont c k).chans = s.chans := rfl
@[simp] theorem State.setCont_oincs (s : State) (c : Nat) (k : Cont) : (s.setCont c k).oincs = s.oincs := rfl
@[simp] theorem State.setCont_owner (s : State) (c : Nat) (k : Cont) : (s.setCont c k).owner = s.owner := rfl
@[simp] theorem State.setCont_routes (s : State) (c : Nat) (k : Cont) : (s.setCont c k).routes = s.routes := rfl
@[simp] theorem State.setCont_ports (s : State) (c : Nat) (k : Cont) : (s.setCont c k).ports = s.ports := rfl
@[simp] theorem State.setCont_outbox (s : State) (c : Nat) (k : Cont) : (s.setCont c k).outbox = s.outbox := rfl
@[simp] theorem State.setCont_lseq (s : State) (c : Nat) (k : Cont) : (s.setCont c k).lseq = s.lseq := rfl
@[simp] theorem State.setCont_chainPort (s : State) (c : Nat) (k : Cont) : (s.setCont c k).chainPort = s.chainPort := rfl
@[simp] theorem State.setCont_inbox (s : State) (c : Nat) (k : Cont) : (s.setCont c k).inbox = s.inbox := rfl
@[simp] theorem State.setCont_cmds (s : State) (c : Nat) (k : Cont) : (s.setCont c k).cmds = s.cmds := rfl
@[simp] theorem State.setCont_nextCmd (s : State) (c : Nat) (k : Cont) : (s.setCont c k).nextCmd = s.nextCmd := rfl
@[simp] theorem State.setCont_queues (s : State) (c : Nat) (k : Cont) : (s.setCont c k).queues = s.queues := rfl
@[simp] theorem State.setCont_pages (s : State) (c : Nat) (k : Cont) : (s.setCont c k).pages = s.pages := rfl
@[simp] theorem State.setCont_arcs (s : State) (c : Nat) (k : Cont) : (s.setCont c k).arcs = s.arcs := rfl
@[simp] theorem State.setCont_net (s : State) (c : Nat) (k : Cont) : (s.setCont c k).net = s.net := rfl
@[simp] theorem State.setCont_saved (s : State) (c : Nat) (k : Cont) : (s.setCont c k).saved = s.saved := rfl
@[simp] theorem State.setCont_ochre (s : State) (c : Nat) (k : Cont) : (s.setCont c k).ochre = s.ochre := rfl
@[simp] theorem State.setCont_scmd (s : State) (c : Nat) (k : Cont) : (s.setCont c k).scmd = s.scmd := rfl
@[simp] theorem State.setCont_sstat (s : State) (c : Nat) (k : Cont) : (s.setCont c k).sstat = s.sstat := rfl
@[simp] theorem State.setCont_rcbptr (s : State) (c : Nat) (k : Cont) : (s.setCont c k).rcbptr = s.rcbptr := rfl
@[simp] theorem State.setCont_faultq (s : State) (c : Nat) (k : Cont) : (s.setCont c k).faultq = s.faultq := rfl
@[simp] theorem State.setCont_rcbs (s : State) (c : Nat) (k : Cont) : (s.setCont c k).rcbs = s.rcbs := rfl
@[simp] theorem State.setCont_leaves (s : State) (c : Nat) (k : Cont) : (s.setCont c k).leaves = s.leaves := rfl
@[simp] theorem State.setCont_nextLid (s : State) (c : Nat) (k : Cont) : (s.setCont c k).nextLid = s.nextLid := rfl
@[simp] theorem State.setCont_launches (s : State) (c : Nat) (k : Cont) : (s.setCont c k).launches = s.launches := rfl
@[simp] theorem State.setCont_groups (s : State) (c : Nat) (k : Cont) : (s.setCont c k).groups = s.groups := rfl
@[simp] theorem State.setCont_runqs (s : State) (c : Nat) (k : Cont) : (s.setCont c k).runqs = s.runqs := rfl
@[simp] theorem State.setCont_sems (s : State) (c : Nat) (k : Cont) : (s.setCont c k).sems = s.sems := rfl
@[simp] theorem State.setCont_bars (s : State) (c : Nat) (k : Cont) : (s.setCont c k).bars = s.bars := rfl
@[simp] theorem State.setCont_bank (s : State) (c : Nat) (k : Cont) (z : Nat) : (s.setCont c k).bank z = s.bank z := rfl
@[simp] theorem State.setCont_byte (s : State) (c : Nat) (k : Cont) (y : Nat) : (s.setCont c k).byte y = s.byte y := rfl
@[simp] theorem State.setCont_cont (s : State) (c : Nat) (k : Cont) (j : Nat) : (s.setCont c k).cont j = if j = c then k else s.cont j := Tab.get_set ..
@[simp] theorem State.setCont_group (s : State) (c : Nat) (k : Cont) (j : Nat) : (s.setCont c k).group j = s.group j := rfl
@[simp] theorem State.setCont_launch (s : State) (c : Nat) (k : Cont) (j : Nat) : (s.setCont c k).launch j = s.launch j := rfl
@[simp] theorem State.setCont_sem (s : State) (c : Nat) (k : Cont) (j : Nat) : (s.setCont c k).sem j = s.sem j := rfl
@[simp] theorem State.setCont_chan (s : State) (c : Nat) (k : Cont) (j : Nat) : (s.setCont c k).chan j = s.chan j := rfl
@[simp] theorem State.setCont_rop (s : State) (c : Nat) (k : Cont) (j : Nat) : (s.setCont c k).rop j = s.rop j := rfl
@[simp] theorem State.setCont_queue (s : State) (c : Nat) (k : Cont) (j : Nat) : (s.setCont c k).queue j = s.queue j := rfl
@[simp] theorem State.setCont_cmd (s : State) (c : Nat) (k : Cont) (j : Nat) : (s.setCont c k).cmd j = s.cmd j := rfl
@[simp] theorem State.setCont_page (s : State) (c : Nat) (k : Cont) (j : Nat) : (s.setCont c k).page j = s.page j := rfl
@[simp] theorem State.setCont_arc (s : State) (c : Nat) (k : Cont) (j : Nat) : (s.setCont c k).arc j = s.arc j := rfl

/-! ### setGroup -/

@[simp] theorem State.setGroup_turns (s : State) (g : Nat) (x : Group) : (s.setGroup g x).turns = s.turns := rfl
@[simp] theorem State.setGroup_cur (s : State) (g : Nat) (x : Group) : (s.setGroup g x).cur = s.cur := rfl
@[simp] theorem State.setGroup_late (s : State) (g : Nat) (x : Group) : (s.setGroup g x).late = s.late := rfl
@[simp] theorem State.setGroup_choice (s : State) (g : Nat) (x : Group) : (s.setGroup g x).choice = s.choice := rfl
@[simp] theorem State.setGroup_fresh (s : State) (g : Nat) (x : Group) : (s.setGroup g x).fresh = s.fresh := rfl
@[simp] theorem State.setGroup_cycle (s : State) (g : Nat) (x : Group) : (s.setGroup g x).cycle = s.cycle := rfl
@[simp] theorem State.setGroup_banks (s : State) (g : Nat) (x : Group) : (s.setGroup g x).banks = s.banks := rfl
@[simp] theorem State.setGroup_svcs (s : State) (g : Nat) (x : Group) : (s.setGroup g x).svcs = s.svcs := rfl
@[simp] theorem State.setGroup_active (s : State) (g : Nat) (x : Group) : (s.setGroup g x).active = s.active := rfl
@[simp] theorem State.setGroup_mem (s : State) (g : Nat) (x : Group) : (s.setGroup g x).mem = s.mem := rfl
@[simp] theorem State.setGroup_lines (s : State) (g : Nat) (x : Group) : (s.setGroup g x).lines = s.lines := rfl
@[simp] theorem State.setGroup_wpoison (s : State) (g : Nat) (x : Group) : (s.setGroup g x).wpoison = s.wpoison := rfl
@[simp] theorem State.setGroup_dirty (s : State) (g : Nat) (x : Group) : (s.setGroup g x).dirty = s.dirty := rfl
@[simp] theorem State.setGroup_hostLines (s : State) (g : Nat) (x : Group) : (s.setGroup g x).hostLines = s.hostLines := rfl
@[simp] theorem State.setGroup_hostWb (s : State) (g : Nat) (x : Group) : (s.setGroup g x).hostWb = s.hostWb := rfl
@[simp] theorem State.setGroup_caches (s : State) (g : Nat) (x : Group) : (s.setGroup g x).caches = s.caches := rfl
@[simp] theorem State.setGroup_pre (s : State) (g : Nat) (x : Group) : (s.setGroup g x).pre = s.pre := rfl
@[simp] theorem State.setGroup_ctl (s : State) (g : Nat) (x : Group) : (s.setGroup g x).ctl = s.ctl := rfl
@[simp] theorem State.setGroup_held (s : State) (g : Nat) (x : Group) : (s.setGroup g x).held = s.held := rfl
@[simp] theorem State.setGroup_l1tlb (s : State) (g : Nat) (x : Group) : (s.setGroup g x).l1tlb = s.l1tlb := rfl
@[simp] theorem State.setGroup_cltlb (s : State) (g : Nat) (x : Group) : (s.setGroup g x).cltlb = s.cltlb := rfl
@[simp] theorem State.setGroup_keys (s : State) (g : Nat) (x : Group) : (s.setGroup g x).keys = s.keys := rfl
@[simp] theorem State.setGroup_nextVer (s : State) (g : Nat) (x : Group) : (s.setGroup g x).nextVer = s.nextVer := rfl
@[simp] theorem State.setGroup_regions (s : State) (g : Nat) (x : Group) : (s.setGroup g x).regions = s.regions := rfl
@[simp] theorem State.setGroup_regstat (s : State) (g : Nat) (x : Group) : (s.setGroup g x).regstat = s.regstat := rfl
@[simp] theorem State.setGroup_ranges (s : State) (g : Nat) (x : Group) : (s.setGroup g x).ranges = s.ranges := rfl
@[simp] theorem State.setGroup_bins (s : State) (g : Nat) (x : Group) : (s.setGroup g x).bins = s.bins := rfl
@[simp] theorem State.setGroup_logs (s : State) (g : Nat) (x : Group) : (s.setGroup g x).logs = s.logs := rfl
@[simp] theorem State.setGroup_pairs (s : State) (g : Nat) (x : Group) : (s.setGroup g x).pairs = s.pairs := rfl
@[simp] theorem State.setGroup_peerRegions (s : State) (g : Nat) (x : Group) : (s.setGroup g x).peerRegions = s.peerRegions := rfl
@[simp] theorem State.setGroup_time (s : State) (g : Nat) (x : Group) : (s.setGroup g x).time = s.time := rfl
@[simp] theorem State.setGroup_events (s : State) (g : Nat) (x : Group) : (s.setGroup g x).events = s.events := rfl
@[simp] theorem State.setGroup_pkg (s : State) (g : Nat) (x : Group) : (s.setGroup g x).pkg = s.pkg := rfl
@[simp] theorem State.setGroup_pkgLock (s : State) (g : Nat) (x : Group) : (s.setGroup g x).pkgLock = s.pkgLock := rfl
@[simp] theorem State.setGroup_strapPkg (s : State) (g : Nat) (x : Group) : (s.setGroup g x).strapPkg = s.strapPkg := rfl
@[simp] theorem State.setGroup_bootFail (s : State) (g : Nat) (x : Group) : (s.setGroup g x).bootFail = s.bootFail := rfl
@[simp] theorem State.setGroup_hostOut (s : State) (g : Nat) (x : Group) : (s.setGroup g x).hostOut = s.hostOut := rfl
@[simp] theorem State.setGroup_rinc (s : State) (g : Nat) (x : Group) : (s.setGroup g x).rinc = s.rinc := rfl
@[simp] theorem State.setGroup_oinc (s : State) (g : Nat) (x : Group) : (s.setGroup g x).oinc = s.oinc := rfl
@[simp] theorem State.setGroup_sboot (s : State) (g : Nat) (x : Group) : (s.setGroup g x).sboot = s.sboot := rfl
@[simp] theorem State.setGroup_strap (s : State) (g : Nat) (x : Group) : (s.setGroup g x).strap = s.strap := rfl
@[simp] theorem State.setGroup_hostPorts (s : State) (g : Nat) (x : Group) : (s.setGroup g x).hostPorts = s.hostPorts := rfl
@[simp] theorem State.setGroup_plimit (s : State) (g : Nat) (x : Group) : (s.setGroup g x).plimit = s.plimit := rfl
@[simp] theorem State.setGroup_throttled (s : State) (g : Nat) (x : Group) : (s.setGroup g x).throttled = s.throttled := rfl
@[simp] theorem State.setGroup_power (s : State) (g : Nat) (x : Group) : (s.setGroup g x).power = s.power := rfl
@[simp] theorem State.setGroup_scrubActive (s : State) (g : Nat) (x : Group) : (s.setGroup g x).scrubActive = s.scrubActive := rfl
@[simp] theorem State.setGroup_scrubPasses (s : State) (g : Nat) (x : Group) : (s.setGroup g x).scrubPasses = s.scrubPasses := rfl
@[simp] theorem State.setGroup_scrubPeriod (s : State) (g : Nat) (x : Group) : (s.setGroup g x).scrubPeriod = s.scrubPeriod := rfl
@[simp] theorem State.setGroup_patrol (s : State) (g : Nat) (x : Group) : (s.setGroup g x).patrol = s.patrol := rfl
@[simp] theorem State.setGroup_rops (s : State) (g : Nat) (x : Group) : (s.setGroup g x).rops = s.rops := rfl
@[simp] theorem State.setGroup_nextOp (s : State) (g : Nat) (x : Group) : (s.setGroup g x).nextOp = s.nextOp := rfl
@[simp] theorem State.setGroup_chans (s : State) (g : Nat) (x : Group) : (s.setGroup g x).chans = s.chans := rfl
@[simp] theorem State.setGroup_oincs (s : State) (g : Nat) (x : Group) : (s.setGroup g x).oincs = s.oincs := rfl
@[simp] theorem State.setGroup_owner (s : State) (g : Nat) (x : Group) : (s.setGroup g x).owner = s.owner := rfl
@[simp] theorem State.setGroup_routes (s : State) (g : Nat) (x : Group) : (s.setGroup g x).routes = s.routes := rfl
@[simp] theorem State.setGroup_ports (s : State) (g : Nat) (x : Group) : (s.setGroup g x).ports = s.ports := rfl
@[simp] theorem State.setGroup_outbox (s : State) (g : Nat) (x : Group) : (s.setGroup g x).outbox = s.outbox := rfl
@[simp] theorem State.setGroup_lseq (s : State) (g : Nat) (x : Group) : (s.setGroup g x).lseq = s.lseq := rfl
@[simp] theorem State.setGroup_chainPort (s : State) (g : Nat) (x : Group) : (s.setGroup g x).chainPort = s.chainPort := rfl
@[simp] theorem State.setGroup_inbox (s : State) (g : Nat) (x : Group) : (s.setGroup g x).inbox = s.inbox := rfl
@[simp] theorem State.setGroup_cmds (s : State) (g : Nat) (x : Group) : (s.setGroup g x).cmds = s.cmds := rfl
@[simp] theorem State.setGroup_nextCmd (s : State) (g : Nat) (x : Group) : (s.setGroup g x).nextCmd = s.nextCmd := rfl
@[simp] theorem State.setGroup_queues (s : State) (g : Nat) (x : Group) : (s.setGroup g x).queues = s.queues := rfl
@[simp] theorem State.setGroup_pages (s : State) (g : Nat) (x : Group) : (s.setGroup g x).pages = s.pages := rfl
@[simp] theorem State.setGroup_arcs (s : State) (g : Nat) (x : Group) : (s.setGroup g x).arcs = s.arcs := rfl
@[simp] theorem State.setGroup_net (s : State) (g : Nat) (x : Group) : (s.setGroup g x).net = s.net := rfl
@[simp] theorem State.setGroup_saved (s : State) (g : Nat) (x : Group) : (s.setGroup g x).saved = s.saved := rfl
@[simp] theorem State.setGroup_ochre (s : State) (g : Nat) (x : Group) : (s.setGroup g x).ochre = s.ochre := rfl
@[simp] theorem State.setGroup_scmd (s : State) (g : Nat) (x : Group) : (s.setGroup g x).scmd = s.scmd := rfl
@[simp] theorem State.setGroup_sstat (s : State) (g : Nat) (x : Group) : (s.setGroup g x).sstat = s.sstat := rfl
@[simp] theorem State.setGroup_rcbptr (s : State) (g : Nat) (x : Group) : (s.setGroup g x).rcbptr = s.rcbptr := rfl
@[simp] theorem State.setGroup_faultq (s : State) (g : Nat) (x : Group) : (s.setGroup g x).faultq = s.faultq := rfl
@[simp] theorem State.setGroup_rcbs (s : State) (g : Nat) (x : Group) : (s.setGroup g x).rcbs = s.rcbs := rfl
@[simp] theorem State.setGroup_leaves (s : State) (g : Nat) (x : Group) : (s.setGroup g x).leaves = s.leaves := rfl
@[simp] theorem State.setGroup_nextLid (s : State) (g : Nat) (x : Group) : (s.setGroup g x).nextLid = s.nextLid := rfl
@[simp] theorem State.setGroup_launches (s : State) (g : Nat) (x : Group) : (s.setGroup g x).launches = s.launches := rfl
@[simp] theorem State.setGroup_conts (s : State) (g : Nat) (x : Group) : (s.setGroup g x).conts = s.conts := rfl
@[simp] theorem State.setGroup_runqs (s : State) (g : Nat) (x : Group) : (s.setGroup g x).runqs = s.runqs := rfl
@[simp] theorem State.setGroup_sems (s : State) (g : Nat) (x : Group) : (s.setGroup g x).sems = s.sems := rfl
@[simp] theorem State.setGroup_bars (s : State) (g : Nat) (x : Group) : (s.setGroup g x).bars = s.bars := rfl
@[simp] theorem State.setGroup_bank (s : State) (g : Nat) (x : Group) (z : Nat) : (s.setGroup g x).bank z = s.bank z := rfl
@[simp] theorem State.setGroup_byte (s : State) (g : Nat) (x : Group) (y : Nat) : (s.setGroup g x).byte y = s.byte y := rfl
@[simp] theorem State.setGroup_cont (s : State) (g : Nat) (x : Group) (j : Nat) : (s.setGroup g x).cont j = s.cont j := rfl
@[simp] theorem State.setGroup_group (s : State) (g : Nat) (x : Group) (j : Nat) : (s.setGroup g x).group j = if j = g then x else s.group j := Tab.get_set ..
@[simp] theorem State.setGroup_launch (s : State) (g : Nat) (x : Group) (j : Nat) : (s.setGroup g x).launch j = s.launch j := rfl
@[simp] theorem State.setGroup_sem (s : State) (g : Nat) (x : Group) (j : Nat) : (s.setGroup g x).sem j = s.sem j := rfl
@[simp] theorem State.setGroup_chan (s : State) (g : Nat) (x : Group) (j : Nat) : (s.setGroup g x).chan j = s.chan j := rfl
@[simp] theorem State.setGroup_rop (s : State) (g : Nat) (x : Group) (j : Nat) : (s.setGroup g x).rop j = s.rop j := rfl
@[simp] theorem State.setGroup_queue (s : State) (g : Nat) (x : Group) (j : Nat) : (s.setGroup g x).queue j = s.queue j := rfl
@[simp] theorem State.setGroup_cmd (s : State) (g : Nat) (x : Group) (j : Nat) : (s.setGroup g x).cmd j = s.cmd j := rfl
@[simp] theorem State.setGroup_page (s : State) (g : Nat) (x : Group) (j : Nat) : (s.setGroup g x).page j = s.page j := rfl
@[simp] theorem State.setGroup_arc (s : State) (g : Nat) (x : Group) (j : Nat) : (s.setGroup g x).arc j = s.arc j := rfl

/-! ### setLaunch -/

@[simp] theorem State.setLaunch_turns (s : State) (l : Nat) (x : Launch) : (s.setLaunch l x).turns = s.turns := rfl
@[simp] theorem State.setLaunch_cur (s : State) (l : Nat) (x : Launch) : (s.setLaunch l x).cur = s.cur := rfl
@[simp] theorem State.setLaunch_late (s : State) (l : Nat) (x : Launch) : (s.setLaunch l x).late = s.late := rfl
@[simp] theorem State.setLaunch_choice (s : State) (l : Nat) (x : Launch) : (s.setLaunch l x).choice = s.choice := rfl
@[simp] theorem State.setLaunch_fresh (s : State) (l : Nat) (x : Launch) : (s.setLaunch l x).fresh = s.fresh := rfl
@[simp] theorem State.setLaunch_cycle (s : State) (l : Nat) (x : Launch) : (s.setLaunch l x).cycle = s.cycle := rfl
@[simp] theorem State.setLaunch_banks (s : State) (l : Nat) (x : Launch) : (s.setLaunch l x).banks = s.banks := rfl
@[simp] theorem State.setLaunch_svcs (s : State) (l : Nat) (x : Launch) : (s.setLaunch l x).svcs = s.svcs := rfl
@[simp] theorem State.setLaunch_active (s : State) (l : Nat) (x : Launch) : (s.setLaunch l x).active = s.active := rfl
@[simp] theorem State.setLaunch_mem (s : State) (l : Nat) (x : Launch) : (s.setLaunch l x).mem = s.mem := rfl
@[simp] theorem State.setLaunch_lines (s : State) (l : Nat) (x : Launch) : (s.setLaunch l x).lines = s.lines := rfl
@[simp] theorem State.setLaunch_wpoison (s : State) (l : Nat) (x : Launch) : (s.setLaunch l x).wpoison = s.wpoison := rfl
@[simp] theorem State.setLaunch_dirty (s : State) (l : Nat) (x : Launch) : (s.setLaunch l x).dirty = s.dirty := rfl
@[simp] theorem State.setLaunch_hostLines (s : State) (l : Nat) (x : Launch) : (s.setLaunch l x).hostLines = s.hostLines := rfl
@[simp] theorem State.setLaunch_hostWb (s : State) (l : Nat) (x : Launch) : (s.setLaunch l x).hostWb = s.hostWb := rfl
@[simp] theorem State.setLaunch_caches (s : State) (l : Nat) (x : Launch) : (s.setLaunch l x).caches = s.caches := rfl
@[simp] theorem State.setLaunch_pre (s : State) (l : Nat) (x : Launch) : (s.setLaunch l x).pre = s.pre := rfl
@[simp] theorem State.setLaunch_ctl (s : State) (l : Nat) (x : Launch) : (s.setLaunch l x).ctl = s.ctl := rfl
@[simp] theorem State.setLaunch_held (s : State) (l : Nat) (x : Launch) : (s.setLaunch l x).held = s.held := rfl
@[simp] theorem State.setLaunch_l1tlb (s : State) (l : Nat) (x : Launch) : (s.setLaunch l x).l1tlb = s.l1tlb := rfl
@[simp] theorem State.setLaunch_cltlb (s : State) (l : Nat) (x : Launch) : (s.setLaunch l x).cltlb = s.cltlb := rfl
@[simp] theorem State.setLaunch_keys (s : State) (l : Nat) (x : Launch) : (s.setLaunch l x).keys = s.keys := rfl
@[simp] theorem State.setLaunch_nextVer (s : State) (l : Nat) (x : Launch) : (s.setLaunch l x).nextVer = s.nextVer := rfl
@[simp] theorem State.setLaunch_regions (s : State) (l : Nat) (x : Launch) : (s.setLaunch l x).regions = s.regions := rfl
@[simp] theorem State.setLaunch_regstat (s : State) (l : Nat) (x : Launch) : (s.setLaunch l x).regstat = s.regstat := rfl
@[simp] theorem State.setLaunch_ranges (s : State) (l : Nat) (x : Launch) : (s.setLaunch l x).ranges = s.ranges := rfl
@[simp] theorem State.setLaunch_bins (s : State) (l : Nat) (x : Launch) : (s.setLaunch l x).bins = s.bins := rfl
@[simp] theorem State.setLaunch_logs (s : State) (l : Nat) (x : Launch) : (s.setLaunch l x).logs = s.logs := rfl
@[simp] theorem State.setLaunch_pairs (s : State) (l : Nat) (x : Launch) : (s.setLaunch l x).pairs = s.pairs := rfl
@[simp] theorem State.setLaunch_peerRegions (s : State) (l : Nat) (x : Launch) : (s.setLaunch l x).peerRegions = s.peerRegions := rfl
@[simp] theorem State.setLaunch_time (s : State) (l : Nat) (x : Launch) : (s.setLaunch l x).time = s.time := rfl
@[simp] theorem State.setLaunch_events (s : State) (l : Nat) (x : Launch) : (s.setLaunch l x).events = s.events := rfl
@[simp] theorem State.setLaunch_pkg (s : State) (l : Nat) (x : Launch) : (s.setLaunch l x).pkg = s.pkg := rfl
@[simp] theorem State.setLaunch_pkgLock (s : State) (l : Nat) (x : Launch) : (s.setLaunch l x).pkgLock = s.pkgLock := rfl
@[simp] theorem State.setLaunch_strapPkg (s : State) (l : Nat) (x : Launch) : (s.setLaunch l x).strapPkg = s.strapPkg := rfl
@[simp] theorem State.setLaunch_bootFail (s : State) (l : Nat) (x : Launch) : (s.setLaunch l x).bootFail = s.bootFail := rfl
@[simp] theorem State.setLaunch_hostOut (s : State) (l : Nat) (x : Launch) : (s.setLaunch l x).hostOut = s.hostOut := rfl
@[simp] theorem State.setLaunch_rinc (s : State) (l : Nat) (x : Launch) : (s.setLaunch l x).rinc = s.rinc := rfl
@[simp] theorem State.setLaunch_oinc (s : State) (l : Nat) (x : Launch) : (s.setLaunch l x).oinc = s.oinc := rfl
@[simp] theorem State.setLaunch_sboot (s : State) (l : Nat) (x : Launch) : (s.setLaunch l x).sboot = s.sboot := rfl
@[simp] theorem State.setLaunch_strap (s : State) (l : Nat) (x : Launch) : (s.setLaunch l x).strap = s.strap := rfl
@[simp] theorem State.setLaunch_hostPorts (s : State) (l : Nat) (x : Launch) : (s.setLaunch l x).hostPorts = s.hostPorts := rfl
@[simp] theorem State.setLaunch_plimit (s : State) (l : Nat) (x : Launch) : (s.setLaunch l x).plimit = s.plimit := rfl
@[simp] theorem State.setLaunch_throttled (s : State) (l : Nat) (x : Launch) : (s.setLaunch l x).throttled = s.throttled := rfl
@[simp] theorem State.setLaunch_power (s : State) (l : Nat) (x : Launch) : (s.setLaunch l x).power = s.power := rfl
@[simp] theorem State.setLaunch_scrubActive (s : State) (l : Nat) (x : Launch) : (s.setLaunch l x).scrubActive = s.scrubActive := rfl
@[simp] theorem State.setLaunch_scrubPasses (s : State) (l : Nat) (x : Launch) : (s.setLaunch l x).scrubPasses = s.scrubPasses := rfl
@[simp] theorem State.setLaunch_scrubPeriod (s : State) (l : Nat) (x : Launch) : (s.setLaunch l x).scrubPeriod = s.scrubPeriod := rfl
@[simp] theorem State.setLaunch_patrol (s : State) (l : Nat) (x : Launch) : (s.setLaunch l x).patrol = s.patrol := rfl
@[simp] theorem State.setLaunch_rops (s : State) (l : Nat) (x : Launch) : (s.setLaunch l x).rops = s.rops := rfl
@[simp] theorem State.setLaunch_nextOp (s : State) (l : Nat) (x : Launch) : (s.setLaunch l x).nextOp = s.nextOp := rfl
@[simp] theorem State.setLaunch_chans (s : State) (l : Nat) (x : Launch) : (s.setLaunch l x).chans = s.chans := rfl
@[simp] theorem State.setLaunch_oincs (s : State) (l : Nat) (x : Launch) : (s.setLaunch l x).oincs = s.oincs := rfl
@[simp] theorem State.setLaunch_owner (s : State) (l : Nat) (x : Launch) : (s.setLaunch l x).owner = s.owner := rfl
@[simp] theorem State.setLaunch_routes (s : State) (l : Nat) (x : Launch) : (s.setLaunch l x).routes = s.routes := rfl
@[simp] theorem State.setLaunch_ports (s : State) (l : Nat) (x : Launch) : (s.setLaunch l x).ports = s.ports := rfl
@[simp] theorem State.setLaunch_outbox (s : State) (l : Nat) (x : Launch) : (s.setLaunch l x).outbox = s.outbox := rfl
@[simp] theorem State.setLaunch_lseq (s : State) (l : Nat) (x : Launch) : (s.setLaunch l x).lseq = s.lseq := rfl
@[simp] theorem State.setLaunch_chainPort (s : State) (l : Nat) (x : Launch) : (s.setLaunch l x).chainPort = s.chainPort := rfl
@[simp] theorem State.setLaunch_inbox (s : State) (l : Nat) (x : Launch) : (s.setLaunch l x).inbox = s.inbox := rfl
@[simp] theorem State.setLaunch_cmds (s : State) (l : Nat) (x : Launch) : (s.setLaunch l x).cmds = s.cmds := rfl
@[simp] theorem State.setLaunch_nextCmd (s : State) (l : Nat) (x : Launch) : (s.setLaunch l x).nextCmd = s.nextCmd := rfl
@[simp] theorem State.setLaunch_queues (s : State) (l : Nat) (x : Launch) : (s.setLaunch l x).queues = s.queues := rfl
@[simp] theorem State.setLaunch_pages (s : State) (l : Nat) (x : Launch) : (s.setLaunch l x).pages = s.pages := rfl
@[simp] theorem State.setLaunch_arcs (s : State) (l : Nat) (x : Launch) : (s.setLaunch l x).arcs = s.arcs := rfl
@[simp] theorem State.setLaunch_net (s : State) (l : Nat) (x : Launch) : (s.setLaunch l x).net = s.net := rfl
@[simp] theorem State.setLaunch_saved (s : State) (l : Nat) (x : Launch) : (s.setLaunch l x).saved = s.saved := rfl
@[simp] theorem State.setLaunch_ochre (s : State) (l : Nat) (x : Launch) : (s.setLaunch l x).ochre = s.ochre := rfl
@[simp] theorem State.setLaunch_scmd (s : State) (l : Nat) (x : Launch) : (s.setLaunch l x).scmd = s.scmd := rfl
@[simp] theorem State.setLaunch_sstat (s : State) (l : Nat) (x : Launch) : (s.setLaunch l x).sstat = s.sstat := rfl
@[simp] theorem State.setLaunch_rcbptr (s : State) (l : Nat) (x : Launch) : (s.setLaunch l x).rcbptr = s.rcbptr := rfl
@[simp] theorem State.setLaunch_faultq (s : State) (l : Nat) (x : Launch) : (s.setLaunch l x).faultq = s.faultq := rfl
@[simp] theorem State.setLaunch_rcbs (s : State) (l : Nat) (x : Launch) : (s.setLaunch l x).rcbs = s.rcbs := rfl
@[simp] theorem State.setLaunch_leaves (s : State) (l : Nat) (x : Launch) : (s.setLaunch l x).leaves = s.leaves := rfl
@[simp] theorem State.setLaunch_nextLid (s : State) (l : Nat) (x : Launch) : (s.setLaunch l x).nextLid = s.nextLid := rfl
@[simp] theorem State.setLaunch_groups (s : State) (l : Nat) (x : Launch) : (s.setLaunch l x).groups = s.groups := rfl
@[simp] theorem State.setLaunch_conts (s : State) (l : Nat) (x : Launch) : (s.setLaunch l x).conts = s.conts := rfl
@[simp] theorem State.setLaunch_runqs (s : State) (l : Nat) (x : Launch) : (s.setLaunch l x).runqs = s.runqs := rfl
@[simp] theorem State.setLaunch_sems (s : State) (l : Nat) (x : Launch) : (s.setLaunch l x).sems = s.sems := rfl
@[simp] theorem State.setLaunch_bars (s : State) (l : Nat) (x : Launch) : (s.setLaunch l x).bars = s.bars := rfl
@[simp] theorem State.setLaunch_bank (s : State) (l : Nat) (x : Launch) (z : Nat) : (s.setLaunch l x).bank z = s.bank z := rfl
@[simp] theorem State.setLaunch_byte (s : State) (l : Nat) (x : Launch) (y : Nat) : (s.setLaunch l x).byte y = s.byte y := rfl
@[simp] theorem State.setLaunch_cont (s : State) (l : Nat) (x : Launch) (j : Nat) : (s.setLaunch l x).cont j = s.cont j := rfl
@[simp] theorem State.setLaunch_group (s : State) (l : Nat) (x : Launch) (j : Nat) : (s.setLaunch l x).group j = s.group j := rfl
@[simp] theorem State.setLaunch_launch (s : State) (l : Nat) (x : Launch) (j : Nat) : (s.setLaunch l x).launch j = if j = l then x else s.launch j := Tab.get_set ..
@[simp] theorem State.setLaunch_sem (s : State) (l : Nat) (x : Launch) (j : Nat) : (s.setLaunch l x).sem j = s.sem j := rfl
@[simp] theorem State.setLaunch_chan (s : State) (l : Nat) (x : Launch) (j : Nat) : (s.setLaunch l x).chan j = s.chan j := rfl
@[simp] theorem State.setLaunch_rop (s : State) (l : Nat) (x : Launch) (j : Nat) : (s.setLaunch l x).rop j = s.rop j := rfl
@[simp] theorem State.setLaunch_queue (s : State) (l : Nat) (x : Launch) (j : Nat) : (s.setLaunch l x).queue j = s.queue j := rfl
@[simp] theorem State.setLaunch_cmd (s : State) (l : Nat) (x : Launch) (j : Nat) : (s.setLaunch l x).cmd j = s.cmd j := rfl
@[simp] theorem State.setLaunch_page (s : State) (l : Nat) (x : Launch) (j : Nat) : (s.setLaunch l x).page j = s.page j := rfl
@[simp] theorem State.setLaunch_arc (s : State) (l : Nat) (x : Launch) (j : Nat) : (s.setLaunch l x).arc j = s.arc j := rfl

/-! ### setSem -/

@[simp] theorem State.setSem_turns (s : State) (n : Nat) (x : Sem) : (s.setSem n x).turns = s.turns := rfl
@[simp] theorem State.setSem_cur (s : State) (n : Nat) (x : Sem) : (s.setSem n x).cur = s.cur := rfl
@[simp] theorem State.setSem_late (s : State) (n : Nat) (x : Sem) : (s.setSem n x).late = s.late := rfl
@[simp] theorem State.setSem_choice (s : State) (n : Nat) (x : Sem) : (s.setSem n x).choice = s.choice := rfl
@[simp] theorem State.setSem_fresh (s : State) (n : Nat) (x : Sem) : (s.setSem n x).fresh = s.fresh := rfl
@[simp] theorem State.setSem_cycle (s : State) (n : Nat) (x : Sem) : (s.setSem n x).cycle = s.cycle := rfl
@[simp] theorem State.setSem_banks (s : State) (n : Nat) (x : Sem) : (s.setSem n x).banks = s.banks := rfl
@[simp] theorem State.setSem_svcs (s : State) (n : Nat) (x : Sem) : (s.setSem n x).svcs = s.svcs := rfl
@[simp] theorem State.setSem_active (s : State) (n : Nat) (x : Sem) : (s.setSem n x).active = s.active := rfl
@[simp] theorem State.setSem_mem (s : State) (n : Nat) (x : Sem) : (s.setSem n x).mem = s.mem := rfl
@[simp] theorem State.setSem_lines (s : State) (n : Nat) (x : Sem) : (s.setSem n x).lines = s.lines := rfl
@[simp] theorem State.setSem_wpoison (s : State) (n : Nat) (x : Sem) : (s.setSem n x).wpoison = s.wpoison := rfl
@[simp] theorem State.setSem_dirty (s : State) (n : Nat) (x : Sem) : (s.setSem n x).dirty = s.dirty := rfl
@[simp] theorem State.setSem_hostLines (s : State) (n : Nat) (x : Sem) : (s.setSem n x).hostLines = s.hostLines := rfl
@[simp] theorem State.setSem_hostWb (s : State) (n : Nat) (x : Sem) : (s.setSem n x).hostWb = s.hostWb := rfl
@[simp] theorem State.setSem_caches (s : State) (n : Nat) (x : Sem) : (s.setSem n x).caches = s.caches := rfl
@[simp] theorem State.setSem_pre (s : State) (n : Nat) (x : Sem) : (s.setSem n x).pre = s.pre := rfl
@[simp] theorem State.setSem_ctl (s : State) (n : Nat) (x : Sem) : (s.setSem n x).ctl = s.ctl := rfl
@[simp] theorem State.setSem_held (s : State) (n : Nat) (x : Sem) : (s.setSem n x).held = s.held := rfl
@[simp] theorem State.setSem_l1tlb (s : State) (n : Nat) (x : Sem) : (s.setSem n x).l1tlb = s.l1tlb := rfl
@[simp] theorem State.setSem_cltlb (s : State) (n : Nat) (x : Sem) : (s.setSem n x).cltlb = s.cltlb := rfl
@[simp] theorem State.setSem_keys (s : State) (n : Nat) (x : Sem) : (s.setSem n x).keys = s.keys := rfl
@[simp] theorem State.setSem_nextVer (s : State) (n : Nat) (x : Sem) : (s.setSem n x).nextVer = s.nextVer := rfl
@[simp] theorem State.setSem_regions (s : State) (n : Nat) (x : Sem) : (s.setSem n x).regions = s.regions := rfl
@[simp] theorem State.setSem_regstat (s : State) (n : Nat) (x : Sem) : (s.setSem n x).regstat = s.regstat := rfl
@[simp] theorem State.setSem_ranges (s : State) (n : Nat) (x : Sem) : (s.setSem n x).ranges = s.ranges := rfl
@[simp] theorem State.setSem_bins (s : State) (n : Nat) (x : Sem) : (s.setSem n x).bins = s.bins := rfl
@[simp] theorem State.setSem_logs (s : State) (n : Nat) (x : Sem) : (s.setSem n x).logs = s.logs := rfl
@[simp] theorem State.setSem_pairs (s : State) (n : Nat) (x : Sem) : (s.setSem n x).pairs = s.pairs := rfl
@[simp] theorem State.setSem_peerRegions (s : State) (n : Nat) (x : Sem) : (s.setSem n x).peerRegions = s.peerRegions := rfl
@[simp] theorem State.setSem_time (s : State) (n : Nat) (x : Sem) : (s.setSem n x).time = s.time := rfl
@[simp] theorem State.setSem_events (s : State) (n : Nat) (x : Sem) : (s.setSem n x).events = s.events := rfl
@[simp] theorem State.setSem_pkg (s : State) (n : Nat) (x : Sem) : (s.setSem n x).pkg = s.pkg := rfl
@[simp] theorem State.setSem_pkgLock (s : State) (n : Nat) (x : Sem) : (s.setSem n x).pkgLock = s.pkgLock := rfl
@[simp] theorem State.setSem_strapPkg (s : State) (n : Nat) (x : Sem) : (s.setSem n x).strapPkg = s.strapPkg := rfl
@[simp] theorem State.setSem_bootFail (s : State) (n : Nat) (x : Sem) : (s.setSem n x).bootFail = s.bootFail := rfl
@[simp] theorem State.setSem_hostOut (s : State) (n : Nat) (x : Sem) : (s.setSem n x).hostOut = s.hostOut := rfl
@[simp] theorem State.setSem_rinc (s : State) (n : Nat) (x : Sem) : (s.setSem n x).rinc = s.rinc := rfl
@[simp] theorem State.setSem_oinc (s : State) (n : Nat) (x : Sem) : (s.setSem n x).oinc = s.oinc := rfl
@[simp] theorem State.setSem_sboot (s : State) (n : Nat) (x : Sem) : (s.setSem n x).sboot = s.sboot := rfl
@[simp] theorem State.setSem_strap (s : State) (n : Nat) (x : Sem) : (s.setSem n x).strap = s.strap := rfl
@[simp] theorem State.setSem_hostPorts (s : State) (n : Nat) (x : Sem) : (s.setSem n x).hostPorts = s.hostPorts := rfl
@[simp] theorem State.setSem_plimit (s : State) (n : Nat) (x : Sem) : (s.setSem n x).plimit = s.plimit := rfl
@[simp] theorem State.setSem_throttled (s : State) (n : Nat) (x : Sem) : (s.setSem n x).throttled = s.throttled := rfl
@[simp] theorem State.setSem_power (s : State) (n : Nat) (x : Sem) : (s.setSem n x).power = s.power := rfl
@[simp] theorem State.setSem_scrubActive (s : State) (n : Nat) (x : Sem) : (s.setSem n x).scrubActive = s.scrubActive := rfl
@[simp] theorem State.setSem_scrubPasses (s : State) (n : Nat) (x : Sem) : (s.setSem n x).scrubPasses = s.scrubPasses := rfl
@[simp] theorem State.setSem_scrubPeriod (s : State) (n : Nat) (x : Sem) : (s.setSem n x).scrubPeriod = s.scrubPeriod := rfl
@[simp] theorem State.setSem_patrol (s : State) (n : Nat) (x : Sem) : (s.setSem n x).patrol = s.patrol := rfl
@[simp] theorem State.setSem_rops (s : State) (n : Nat) (x : Sem) : (s.setSem n x).rops = s.rops := rfl
@[simp] theorem State.setSem_nextOp (s : State) (n : Nat) (x : Sem) : (s.setSem n x).nextOp = s.nextOp := rfl
@[simp] theorem State.setSem_chans (s : State) (n : Nat) (x : Sem) : (s.setSem n x).chans = s.chans := rfl
@[simp] theorem State.setSem_oincs (s : State) (n : Nat) (x : Sem) : (s.setSem n x).oincs = s.oincs := rfl
@[simp] theorem State.setSem_owner (s : State) (n : Nat) (x : Sem) : (s.setSem n x).owner = s.owner := rfl
@[simp] theorem State.setSem_routes (s : State) (n : Nat) (x : Sem) : (s.setSem n x).routes = s.routes := rfl
@[simp] theorem State.setSem_ports (s : State) (n : Nat) (x : Sem) : (s.setSem n x).ports = s.ports := rfl
@[simp] theorem State.setSem_outbox (s : State) (n : Nat) (x : Sem) : (s.setSem n x).outbox = s.outbox := rfl
@[simp] theorem State.setSem_lseq (s : State) (n : Nat) (x : Sem) : (s.setSem n x).lseq = s.lseq := rfl
@[simp] theorem State.setSem_chainPort (s : State) (n : Nat) (x : Sem) : (s.setSem n x).chainPort = s.chainPort := rfl
@[simp] theorem State.setSem_inbox (s : State) (n : Nat) (x : Sem) : (s.setSem n x).inbox = s.inbox := rfl
@[simp] theorem State.setSem_cmds (s : State) (n : Nat) (x : Sem) : (s.setSem n x).cmds = s.cmds := rfl
@[simp] theorem State.setSem_nextCmd (s : State) (n : Nat) (x : Sem) : (s.setSem n x).nextCmd = s.nextCmd := rfl
@[simp] theorem State.setSem_queues (s : State) (n : Nat) (x : Sem) : (s.setSem n x).queues = s.queues := rfl
@[simp] theorem State.setSem_pages (s : State) (n : Nat) (x : Sem) : (s.setSem n x).pages = s.pages := rfl
@[simp] theorem State.setSem_arcs (s : State) (n : Nat) (x : Sem) : (s.setSem n x).arcs = s.arcs := rfl
@[simp] theorem State.setSem_net (s : State) (n : Nat) (x : Sem) : (s.setSem n x).net = s.net := rfl
@[simp] theorem State.setSem_saved (s : State) (n : Nat) (x : Sem) : (s.setSem n x).saved = s.saved := rfl
@[simp] theorem State.setSem_ochre (s : State) (n : Nat) (x : Sem) : (s.setSem n x).ochre = s.ochre := rfl
@[simp] theorem State.setSem_scmd (s : State) (n : Nat) (x : Sem) : (s.setSem n x).scmd = s.scmd := rfl
@[simp] theorem State.setSem_sstat (s : State) (n : Nat) (x : Sem) : (s.setSem n x).sstat = s.sstat := rfl
@[simp] theorem State.setSem_rcbptr (s : State) (n : Nat) (x : Sem) : (s.setSem n x).rcbptr = s.rcbptr := rfl
@[simp] theorem State.setSem_faultq (s : State) (n : Nat) (x : Sem) : (s.setSem n x).faultq = s.faultq := rfl
@[simp] theorem State.setSem_rcbs (s : State) (n : Nat) (x : Sem) : (s.setSem n x).rcbs = s.rcbs := rfl
@[simp] theorem State.setSem_leaves (s : State) (n : Nat) (x : Sem) : (s.setSem n x).leaves = s.leaves := rfl
@[simp] theorem State.setSem_nextLid (s : State) (n : Nat) (x : Sem) : (s.setSem n x).nextLid = s.nextLid := rfl
@[simp] theorem State.setSem_launches (s : State) (n : Nat) (x : Sem) : (s.setSem n x).launches = s.launches := rfl
@[simp] theorem State.setSem_groups (s : State) (n : Nat) (x : Sem) : (s.setSem n x).groups = s.groups := rfl
@[simp] theorem State.setSem_conts (s : State) (n : Nat) (x : Sem) : (s.setSem n x).conts = s.conts := rfl
@[simp] theorem State.setSem_runqs (s : State) (n : Nat) (x : Sem) : (s.setSem n x).runqs = s.runqs := rfl
@[simp] theorem State.setSem_bars (s : State) (n : Nat) (x : Sem) : (s.setSem n x).bars = s.bars := rfl
@[simp] theorem State.setSem_bank (s : State) (n : Nat) (x : Sem) (z : Nat) : (s.setSem n x).bank z = s.bank z := rfl
@[simp] theorem State.setSem_byte (s : State) (n : Nat) (x : Sem) (y : Nat) : (s.setSem n x).byte y = s.byte y := rfl
@[simp] theorem State.setSem_cont (s : State) (n : Nat) (x : Sem) (j : Nat) : (s.setSem n x).cont j = s.cont j := rfl
@[simp] theorem State.setSem_group (s : State) (n : Nat) (x : Sem) (j : Nat) : (s.setSem n x).group j = s.group j := rfl
@[simp] theorem State.setSem_launch (s : State) (n : Nat) (x : Sem) (j : Nat) : (s.setSem n x).launch j = s.launch j := rfl
@[simp] theorem State.setSem_sem (s : State) (n : Nat) (x : Sem) (j : Nat) : (s.setSem n x).sem j = if j = n then x else s.sem j := Tab.get_set ..
@[simp] theorem State.setSem_chan (s : State) (n : Nat) (x : Sem) (j : Nat) : (s.setSem n x).chan j = s.chan j := rfl
@[simp] theorem State.setSem_rop (s : State) (n : Nat) (x : Sem) (j : Nat) : (s.setSem n x).rop j = s.rop j := rfl
@[simp] theorem State.setSem_queue (s : State) (n : Nat) (x : Sem) (j : Nat) : (s.setSem n x).queue j = s.queue j := rfl
@[simp] theorem State.setSem_cmd (s : State) (n : Nat) (x : Sem) (j : Nat) : (s.setSem n x).cmd j = s.cmd j := rfl
@[simp] theorem State.setSem_page (s : State) (n : Nat) (x : Sem) (j : Nat) : (s.setSem n x).page j = s.page j := rfl
@[simp] theorem State.setSem_arc (s : State) (n : Nat) (x : Sem) (j : Nat) : (s.setSem n x).arc j = s.arc j := rfl

/-! ### setChan -/

@[simp] theorem State.setChan_turns (s : State) (r : Nat) (c : Chan) : (s.setChan r c).turns = s.turns := rfl
@[simp] theorem State.setChan_cur (s : State) (r : Nat) (c : Chan) : (s.setChan r c).cur = s.cur := rfl
@[simp] theorem State.setChan_late (s : State) (r : Nat) (c : Chan) : (s.setChan r c).late = s.late := rfl
@[simp] theorem State.setChan_choice (s : State) (r : Nat) (c : Chan) : (s.setChan r c).choice = s.choice := rfl
@[simp] theorem State.setChan_fresh (s : State) (r : Nat) (c : Chan) : (s.setChan r c).fresh = s.fresh := rfl
@[simp] theorem State.setChan_cycle (s : State) (r : Nat) (c : Chan) : (s.setChan r c).cycle = s.cycle := rfl
@[simp] theorem State.setChan_banks (s : State) (r : Nat) (c : Chan) : (s.setChan r c).banks = s.banks := rfl
@[simp] theorem State.setChan_svcs (s : State) (r : Nat) (c : Chan) : (s.setChan r c).svcs = s.svcs := rfl
@[simp] theorem State.setChan_active (s : State) (r : Nat) (c : Chan) : (s.setChan r c).active = s.active := rfl
@[simp] theorem State.setChan_mem (s : State) (r : Nat) (c : Chan) : (s.setChan r c).mem = s.mem := rfl
@[simp] theorem State.setChan_lines (s : State) (r : Nat) (c : Chan) : (s.setChan r c).lines = s.lines := rfl
@[simp] theorem State.setChan_wpoison (s : State) (r : Nat) (c : Chan) : (s.setChan r c).wpoison = s.wpoison := rfl
@[simp] theorem State.setChan_dirty (s : State) (r : Nat) (c : Chan) : (s.setChan r c).dirty = s.dirty := rfl
@[simp] theorem State.setChan_hostLines (s : State) (r : Nat) (c : Chan) : (s.setChan r c).hostLines = s.hostLines := rfl
@[simp] theorem State.setChan_hostWb (s : State) (r : Nat) (c : Chan) : (s.setChan r c).hostWb = s.hostWb := rfl
@[simp] theorem State.setChan_caches (s : State) (r : Nat) (c : Chan) : (s.setChan r c).caches = s.caches := rfl
@[simp] theorem State.setChan_pre (s : State) (r : Nat) (c : Chan) : (s.setChan r c).pre = s.pre := rfl
@[simp] theorem State.setChan_ctl (s : State) (r : Nat) (c : Chan) : (s.setChan r c).ctl = s.ctl := rfl
@[simp] theorem State.setChan_held (s : State) (r : Nat) (c : Chan) : (s.setChan r c).held = s.held := rfl
@[simp] theorem State.setChan_l1tlb (s : State) (r : Nat) (c : Chan) : (s.setChan r c).l1tlb = s.l1tlb := rfl
@[simp] theorem State.setChan_cltlb (s : State) (r : Nat) (c : Chan) : (s.setChan r c).cltlb = s.cltlb := rfl
@[simp] theorem State.setChan_keys (s : State) (r : Nat) (c : Chan) : (s.setChan r c).keys = s.keys := rfl
@[simp] theorem State.setChan_nextVer (s : State) (r : Nat) (c : Chan) : (s.setChan r c).nextVer = s.nextVer := rfl
@[simp] theorem State.setChan_regions (s : State) (r : Nat) (c : Chan) : (s.setChan r c).regions = s.regions := rfl
@[simp] theorem State.setChan_regstat (s : State) (r : Nat) (c : Chan) : (s.setChan r c).regstat = s.regstat := rfl
@[simp] theorem State.setChan_ranges (s : State) (r : Nat) (c : Chan) : (s.setChan r c).ranges = s.ranges := rfl
@[simp] theorem State.setChan_bins (s : State) (r : Nat) (c : Chan) : (s.setChan r c).bins = s.bins := rfl
@[simp] theorem State.setChan_logs (s : State) (r : Nat) (c : Chan) : (s.setChan r c).logs = s.logs := rfl
@[simp] theorem State.setChan_pairs (s : State) (r : Nat) (c : Chan) : (s.setChan r c).pairs = s.pairs := rfl
@[simp] theorem State.setChan_peerRegions (s : State) (r : Nat) (c : Chan) : (s.setChan r c).peerRegions = s.peerRegions := rfl
@[simp] theorem State.setChan_time (s : State) (r : Nat) (c : Chan) : (s.setChan r c).time = s.time := rfl
@[simp] theorem State.setChan_events (s : State) (r : Nat) (c : Chan) : (s.setChan r c).events = s.events := rfl
@[simp] theorem State.setChan_pkg (s : State) (r : Nat) (c : Chan) : (s.setChan r c).pkg = s.pkg := rfl
@[simp] theorem State.setChan_pkgLock (s : State) (r : Nat) (c : Chan) : (s.setChan r c).pkgLock = s.pkgLock := rfl
@[simp] theorem State.setChan_strapPkg (s : State) (r : Nat) (c : Chan) : (s.setChan r c).strapPkg = s.strapPkg := rfl
@[simp] theorem State.setChan_bootFail (s : State) (r : Nat) (c : Chan) : (s.setChan r c).bootFail = s.bootFail := rfl
@[simp] theorem State.setChan_hostOut (s : State) (r : Nat) (c : Chan) : (s.setChan r c).hostOut = s.hostOut := rfl
@[simp] theorem State.setChan_rinc (s : State) (r : Nat) (c : Chan) : (s.setChan r c).rinc = s.rinc := rfl
@[simp] theorem State.setChan_oinc (s : State) (r : Nat) (c : Chan) : (s.setChan r c).oinc = s.oinc := rfl
@[simp] theorem State.setChan_sboot (s : State) (r : Nat) (c : Chan) : (s.setChan r c).sboot = s.sboot := rfl
@[simp] theorem State.setChan_strap (s : State) (r : Nat) (c : Chan) : (s.setChan r c).strap = s.strap := rfl
@[simp] theorem State.setChan_hostPorts (s : State) (r : Nat) (c : Chan) : (s.setChan r c).hostPorts = s.hostPorts := rfl
@[simp] theorem State.setChan_plimit (s : State) (r : Nat) (c : Chan) : (s.setChan r c).plimit = s.plimit := rfl
@[simp] theorem State.setChan_throttled (s : State) (r : Nat) (c : Chan) : (s.setChan r c).throttled = s.throttled := rfl
@[simp] theorem State.setChan_power (s : State) (r : Nat) (c : Chan) : (s.setChan r c).power = s.power := rfl
@[simp] theorem State.setChan_scrubActive (s : State) (r : Nat) (c : Chan) : (s.setChan r c).scrubActive = s.scrubActive := rfl
@[simp] theorem State.setChan_scrubPasses (s : State) (r : Nat) (c : Chan) : (s.setChan r c).scrubPasses = s.scrubPasses := rfl
@[simp] theorem State.setChan_scrubPeriod (s : State) (r : Nat) (c : Chan) : (s.setChan r c).scrubPeriod = s.scrubPeriod := rfl
@[simp] theorem State.setChan_patrol (s : State) (r : Nat) (c : Chan) : (s.setChan r c).patrol = s.patrol := rfl
@[simp] theorem State.setChan_rops (s : State) (r : Nat) (c : Chan) : (s.setChan r c).rops = s.rops := rfl
@[simp] theorem State.setChan_nextOp (s : State) (r : Nat) (c : Chan) : (s.setChan r c).nextOp = s.nextOp := rfl
@[simp] theorem State.setChan_oincs (s : State) (r : Nat) (c : Chan) : (s.setChan r c).oincs = s.oincs := rfl
@[simp] theorem State.setChan_owner (s : State) (r : Nat) (c : Chan) : (s.setChan r c).owner = s.owner := rfl
@[simp] theorem State.setChan_routes (s : State) (r : Nat) (c : Chan) : (s.setChan r c).routes = s.routes := rfl
@[simp] theorem State.setChan_ports (s : State) (r : Nat) (c : Chan) : (s.setChan r c).ports = s.ports := rfl
@[simp] theorem State.setChan_outbox (s : State) (r : Nat) (c : Chan) : (s.setChan r c).outbox = s.outbox := rfl
@[simp] theorem State.setChan_lseq (s : State) (r : Nat) (c : Chan) : (s.setChan r c).lseq = s.lseq := rfl
@[simp] theorem State.setChan_chainPort (s : State) (r : Nat) (c : Chan) : (s.setChan r c).chainPort = s.chainPort := rfl
@[simp] theorem State.setChan_inbox (s : State) (r : Nat) (c : Chan) : (s.setChan r c).inbox = s.inbox := rfl
@[simp] theorem State.setChan_cmds (s : State) (r : Nat) (c : Chan) : (s.setChan r c).cmds = s.cmds := rfl
@[simp] theorem State.setChan_nextCmd (s : State) (r : Nat) (c : Chan) : (s.setChan r c).nextCmd = s.nextCmd := rfl
@[simp] theorem State.setChan_queues (s : State) (r : Nat) (c : Chan) : (s.setChan r c).queues = s.queues := rfl
@[simp] theorem State.setChan_pages (s : State) (r : Nat) (c : Chan) : (s.setChan r c).pages = s.pages := rfl
@[simp] theorem State.setChan_arcs (s : State) (r : Nat) (c : Chan) : (s.setChan r c).arcs = s.arcs := rfl
@[simp] theorem State.setChan_net (s : State) (r : Nat) (c : Chan) : (s.setChan r c).net = s.net := rfl
@[simp] theorem State.setChan_saved (s : State) (r : Nat) (c : Chan) : (s.setChan r c).saved = s.saved := rfl
@[simp] theorem State.setChan_ochre (s : State) (r : Nat) (c : Chan) : (s.setChan r c).ochre = s.ochre := rfl
@[simp] theorem State.setChan_scmd (s : State) (r : Nat) (c : Chan) : (s.setChan r c).scmd = s.scmd := rfl
@[simp] theorem State.setChan_sstat (s : State) (r : Nat) (c : Chan) : (s.setChan r c).sstat = s.sstat := rfl
@[simp] theorem State.setChan_rcbptr (s : State) (r : Nat) (c : Chan) : (s.setChan r c).rcbptr = s.rcbptr := rfl
@[simp] theorem State.setChan_faultq (s : State) (r : Nat) (c : Chan) : (s.setChan r c).faultq = s.faultq := rfl
@[simp] theorem State.setChan_rcbs (s : State) (r : Nat) (c : Chan) : (s.setChan r c).rcbs = s.rcbs := rfl
@[simp] theorem State.setChan_leaves (s : State) (r : Nat) (c : Chan) : (s.setChan r c).leaves = s.leaves := rfl
@[simp] theorem State.setChan_nextLid (s : State) (r : Nat) (c : Chan) : (s.setChan r c).nextLid = s.nextLid := rfl
@[simp] theorem State.setChan_launches (s : State) (r : Nat) (c : Chan) : (s.setChan r c).launches = s.launches := rfl
@[simp] theorem State.setChan_groups (s : State) (r : Nat) (c : Chan) : (s.setChan r c).groups = s.groups := rfl
@[simp] theorem State.setChan_conts (s : State) (r : Nat) (c : Chan) : (s.setChan r c).conts = s.conts := rfl
@[simp] theorem State.setChan_runqs (s : State) (r : Nat) (c : Chan) : (s.setChan r c).runqs = s.runqs := rfl
@[simp] theorem State.setChan_sems (s : State) (r : Nat) (c : Chan) : (s.setChan r c).sems = s.sems := rfl
@[simp] theorem State.setChan_bars (s : State) (r : Nat) (c : Chan) : (s.setChan r c).bars = s.bars := rfl
@[simp] theorem State.setChan_bank (s : State) (r : Nat) (c : Chan) (z : Nat) : (s.setChan r c).bank z = s.bank z := rfl
@[simp] theorem State.setChan_byte (s : State) (r : Nat) (c : Chan) (y : Nat) : (s.setChan r c).byte y = s.byte y := rfl
@[simp] theorem State.setChan_cont (s : State) (r : Nat) (c : Chan) (j : Nat) : (s.setChan r c).cont j = s.cont j := rfl
@[simp] theorem State.setChan_group (s : State) (r : Nat) (c : Chan) (j : Nat) : (s.setChan r c).group j = s.group j := rfl
@[simp] theorem State.setChan_launch (s : State) (r : Nat) (c : Chan) (j : Nat) : (s.setChan r c).launch j = s.launch j := rfl
@[simp] theorem State.setChan_sem (s : State) (r : Nat) (c : Chan) (j : Nat) : (s.setChan r c).sem j = s.sem j := rfl
@[simp] theorem State.setChan_chan (s : State) (r : Nat) (c : Chan) (j : Nat) : (s.setChan r c).chan j = if j = r then c else s.chan j := Tab.get_set ..
@[simp] theorem State.setChan_rop (s : State) (r : Nat) (c : Chan) (j : Nat) : (s.setChan r c).rop j = s.rop j := rfl
@[simp] theorem State.setChan_queue (s : State) (r : Nat) (c : Chan) (j : Nat) : (s.setChan r c).queue j = s.queue j := rfl
@[simp] theorem State.setChan_cmd (s : State) (r : Nat) (c : Chan) (j : Nat) : (s.setChan r c).cmd j = s.cmd j := rfl
@[simp] theorem State.setChan_page (s : State) (r : Nat) (c : Chan) (j : Nat) : (s.setChan r c).page j = s.page j := rfl
@[simp] theorem State.setChan_arc (s : State) (r : Nat) (c : Chan) (j : Nat) : (s.setChan r c).arc j = s.arc j := rfl

/-! ### setRop -/

@[simp] theorem State.setRop_turns (s : State) (n : Nat) (o : Option RemOp) : (s.setRop n o).turns = s.turns := rfl
@[simp] theorem State.setRop_cur (s : State) (n : Nat) (o : Option RemOp) : (s.setRop n o).cur = s.cur := rfl
@[simp] theorem State.setRop_late (s : State) (n : Nat) (o : Option RemOp) : (s.setRop n o).late = s.late := rfl
@[simp] theorem State.setRop_choice (s : State) (n : Nat) (o : Option RemOp) : (s.setRop n o).choice = s.choice := rfl
@[simp] theorem State.setRop_fresh (s : State) (n : Nat) (o : Option RemOp) : (s.setRop n o).fresh = s.fresh := rfl
@[simp] theorem State.setRop_cycle (s : State) (n : Nat) (o : Option RemOp) : (s.setRop n o).cycle = s.cycle := rfl
@[simp] theorem State.setRop_banks (s : State) (n : Nat) (o : Option RemOp) : (s.setRop n o).banks = s.banks := rfl
@[simp] theorem State.setRop_svcs (s : State) (n : Nat) (o : Option RemOp) : (s.setRop n o).svcs = s.svcs := rfl
@[simp] theorem State.setRop_active (s : State) (n : Nat) (o : Option RemOp) : (s.setRop n o).active = s.active := rfl
@[simp] theorem State.setRop_mem (s : State) (n : Nat) (o : Option RemOp) : (s.setRop n o).mem = s.mem := rfl
@[simp] theorem State.setRop_lines (s : State) (n : Nat) (o : Option RemOp) : (s.setRop n o).lines = s.lines := rfl
@[simp] theorem State.setRop_wpoison (s : State) (n : Nat) (o : Option RemOp) : (s.setRop n o).wpoison = s.wpoison := rfl
@[simp] theorem State.setRop_dirty (s : State) (n : Nat) (o : Option RemOp) : (s.setRop n o).dirty = s.dirty := rfl
@[simp] theorem State.setRop_hostLines (s : State) (n : Nat) (o : Option RemOp) : (s.setRop n o).hostLines = s.hostLines := rfl
@[simp] theorem State.setRop_hostWb (s : State) (n : Nat) (o : Option RemOp) : (s.setRop n o).hostWb = s.hostWb := rfl
@[simp] theorem State.setRop_caches (s : State) (n : Nat) (o : Option RemOp) : (s.setRop n o).caches = s.caches := rfl
@[simp] theorem State.setRop_pre (s : State) (n : Nat) (o : Option RemOp) : (s.setRop n o).pre = s.pre := rfl
@[simp] theorem State.setRop_ctl (s : State) (n : Nat) (o : Option RemOp) : (s.setRop n o).ctl = s.ctl := rfl
@[simp] theorem State.setRop_held (s : State) (n : Nat) (o : Option RemOp) : (s.setRop n o).held = s.held := rfl
@[simp] theorem State.setRop_l1tlb (s : State) (n : Nat) (o : Option RemOp) : (s.setRop n o).l1tlb = s.l1tlb := rfl
@[simp] theorem State.setRop_cltlb (s : State) (n : Nat) (o : Option RemOp) : (s.setRop n o).cltlb = s.cltlb := rfl
@[simp] theorem State.setRop_keys (s : State) (n : Nat) (o : Option RemOp) : (s.setRop n o).keys = s.keys := rfl
@[simp] theorem State.setRop_nextVer (s : State) (n : Nat) (o : Option RemOp) : (s.setRop n o).nextVer = s.nextVer := rfl
@[simp] theorem State.setRop_regions (s : State) (n : Nat) (o : Option RemOp) : (s.setRop n o).regions = s.regions := rfl
@[simp] theorem State.setRop_regstat (s : State) (n : Nat) (o : Option RemOp) : (s.setRop n o).regstat = s.regstat := rfl
@[simp] theorem State.setRop_ranges (s : State) (n : Nat) (o : Option RemOp) : (s.setRop n o).ranges = s.ranges := rfl
@[simp] theorem State.setRop_bins (s : State) (n : Nat) (o : Option RemOp) : (s.setRop n o).bins = s.bins := rfl
@[simp] theorem State.setRop_logs (s : State) (n : Nat) (o : Option RemOp) : (s.setRop n o).logs = s.logs := rfl
@[simp] theorem State.setRop_pairs (s : State) (n : Nat) (o : Option RemOp) : (s.setRop n o).pairs = s.pairs := rfl
@[simp] theorem State.setRop_peerRegions (s : State) (n : Nat) (o : Option RemOp) : (s.setRop n o).peerRegions = s.peerRegions := rfl
@[simp] theorem State.setRop_time (s : State) (n : Nat) (o : Option RemOp) : (s.setRop n o).time = s.time := rfl
@[simp] theorem State.setRop_events (s : State) (n : Nat) (o : Option RemOp) : (s.setRop n o).events = s.events := rfl
@[simp] theorem State.setRop_pkg (s : State) (n : Nat) (o : Option RemOp) : (s.setRop n o).pkg = s.pkg := rfl
@[simp] theorem State.setRop_pkgLock (s : State) (n : Nat) (o : Option RemOp) : (s.setRop n o).pkgLock = s.pkgLock := rfl
@[simp] theorem State.setRop_strapPkg (s : State) (n : Nat) (o : Option RemOp) : (s.setRop n o).strapPkg = s.strapPkg := rfl
@[simp] theorem State.setRop_bootFail (s : State) (n : Nat) (o : Option RemOp) : (s.setRop n o).bootFail = s.bootFail := rfl
@[simp] theorem State.setRop_hostOut (s : State) (n : Nat) (o : Option RemOp) : (s.setRop n o).hostOut = s.hostOut := rfl
@[simp] theorem State.setRop_rinc (s : State) (n : Nat) (o : Option RemOp) : (s.setRop n o).rinc = s.rinc := rfl
@[simp] theorem State.setRop_oinc (s : State) (n : Nat) (o : Option RemOp) : (s.setRop n o).oinc = s.oinc := rfl
@[simp] theorem State.setRop_sboot (s : State) (n : Nat) (o : Option RemOp) : (s.setRop n o).sboot = s.sboot := rfl
@[simp] theorem State.setRop_strap (s : State) (n : Nat) (o : Option RemOp) : (s.setRop n o).strap = s.strap := rfl
@[simp] theorem State.setRop_hostPorts (s : State) (n : Nat) (o : Option RemOp) : (s.setRop n o).hostPorts = s.hostPorts := rfl
@[simp] theorem State.setRop_plimit (s : State) (n : Nat) (o : Option RemOp) : (s.setRop n o).plimit = s.plimit := rfl
@[simp] theorem State.setRop_throttled (s : State) (n : Nat) (o : Option RemOp) : (s.setRop n o).throttled = s.throttled := rfl
@[simp] theorem State.setRop_power (s : State) (n : Nat) (o : Option RemOp) : (s.setRop n o).power = s.power := rfl
@[simp] theorem State.setRop_scrubActive (s : State) (n : Nat) (o : Option RemOp) : (s.setRop n o).scrubActive = s.scrubActive := rfl
@[simp] theorem State.setRop_scrubPasses (s : State) (n : Nat) (o : Option RemOp) : (s.setRop n o).scrubPasses = s.scrubPasses := rfl
@[simp] theorem State.setRop_scrubPeriod (s : State) (n : Nat) (o : Option RemOp) : (s.setRop n o).scrubPeriod = s.scrubPeriod := rfl
@[simp] theorem State.setRop_patrol (s : State) (n : Nat) (o : Option RemOp) : (s.setRop n o).patrol = s.patrol := rfl
@[simp] theorem State.setRop_nextOp (s : State) (n : Nat) (o : Option RemOp) : (s.setRop n o).nextOp = s.nextOp := rfl
@[simp] theorem State.setRop_chans (s : State) (n : Nat) (o : Option RemOp) : (s.setRop n o).chans = s.chans := rfl
@[simp] theorem State.setRop_oincs (s : State) (n : Nat) (o : Option RemOp) : (s.setRop n o).oincs = s.oincs := rfl
@[simp] theorem State.setRop_owner (s : State) (n : Nat) (o : Option RemOp) : (s.setRop n o).owner = s.owner := rfl
@[simp] theorem State.setRop_routes (s : State) (n : Nat) (o : Option RemOp) : (s.setRop n o).routes = s.routes := rfl
@[simp] theorem State.setRop_ports (s : State) (n : Nat) (o : Option RemOp) : (s.setRop n o).ports = s.ports := rfl
@[simp] theorem State.setRop_outbox (s : State) (n : Nat) (o : Option RemOp) : (s.setRop n o).outbox = s.outbox := rfl
@[simp] theorem State.setRop_lseq (s : State) (n : Nat) (o : Option RemOp) : (s.setRop n o).lseq = s.lseq := rfl
@[simp] theorem State.setRop_chainPort (s : State) (n : Nat) (o : Option RemOp) : (s.setRop n o).chainPort = s.chainPort := rfl
@[simp] theorem State.setRop_inbox (s : State) (n : Nat) (o : Option RemOp) : (s.setRop n o).inbox = s.inbox := rfl
@[simp] theorem State.setRop_cmds (s : State) (n : Nat) (o : Option RemOp) : (s.setRop n o).cmds = s.cmds := rfl
@[simp] theorem State.setRop_nextCmd (s : State) (n : Nat) (o : Option RemOp) : (s.setRop n o).nextCmd = s.nextCmd := rfl
@[simp] theorem State.setRop_queues (s : State) (n : Nat) (o : Option RemOp) : (s.setRop n o).queues = s.queues := rfl
@[simp] theorem State.setRop_pages (s : State) (n : Nat) (o : Option RemOp) : (s.setRop n o).pages = s.pages := rfl
@[simp] theorem State.setRop_arcs (s : State) (n : Nat) (o : Option RemOp) : (s.setRop n o).arcs = s.arcs := rfl
@[simp] theorem State.setRop_net (s : State) (n : Nat) (o : Option RemOp) : (s.setRop n o).net = s.net := rfl
@[simp] theorem State.setRop_saved (s : State) (n : Nat) (o : Option RemOp) : (s.setRop n o).saved = s.saved := rfl
@[simp] theorem State.setRop_ochre (s : State) (n : Nat) (o : Option RemOp) : (s.setRop n o).ochre = s.ochre := rfl
@[simp] theorem State.setRop_scmd (s : State) (n : Nat) (o : Option RemOp) : (s.setRop n o).scmd = s.scmd := rfl
@[simp] theorem State.setRop_sstat (s : State) (n : Nat) (o : Option RemOp) : (s.setRop n o).sstat = s.sstat := rfl
@[simp] theorem State.setRop_rcbptr (s : State) (n : Nat) (o : Option RemOp) : (s.setRop n o).rcbptr = s.rcbptr := rfl
@[simp] theorem State.setRop_faultq (s : State) (n : Nat) (o : Option RemOp) : (s.setRop n o).faultq = s.faultq := rfl
@[simp] theorem State.setRop_rcbs (s : State) (n : Nat) (o : Option RemOp) : (s.setRop n o).rcbs = s.rcbs := rfl
@[simp] theorem State.setRop_leaves (s : State) (n : Nat) (o : Option RemOp) : (s.setRop n o).leaves = s.leaves := rfl
@[simp] theorem State.setRop_nextLid (s : State) (n : Nat) (o : Option RemOp) : (s.setRop n o).nextLid = s.nextLid := rfl
@[simp] theorem State.setRop_launches (s : State) (n : Nat) (o : Option RemOp) : (s.setRop n o).launches = s.launches := rfl
@[simp] theorem State.setRop_groups (s : State) (n : Nat) (o : Option RemOp) : (s.setRop n o).groups = s.groups := rfl
@[simp] theorem State.setRop_conts (s : State) (n : Nat) (o : Option RemOp) : (s.setRop n o).conts = s.conts := rfl
@[simp] theorem State.setRop_runqs (s : State) (n : Nat) (o : Option RemOp) : (s.setRop n o).runqs = s.runqs := rfl
@[simp] theorem State.setRop_sems (s : State) (n : Nat) (o : Option RemOp) : (s.setRop n o).sems = s.sems := rfl
@[simp] theorem State.setRop_bars (s : State) (n : Nat) (o : Option RemOp) : (s.setRop n o).bars = s.bars := rfl
@[simp] theorem State.setRop_bank (s : State) (n : Nat) (o : Option RemOp) (z : Nat) : (s.setRop n o).bank z = s.bank z := rfl
@[simp] theorem State.setRop_byte (s : State) (n : Nat) (o : Option RemOp) (y : Nat) : (s.setRop n o).byte y = s.byte y := rfl
@[simp] theorem State.setRop_cont (s : State) (n : Nat) (o : Option RemOp) (j : Nat) : (s.setRop n o).cont j = s.cont j := rfl
@[simp] theorem State.setRop_group (s : State) (n : Nat) (o : Option RemOp) (j : Nat) : (s.setRop n o).group j = s.group j := rfl
@[simp] theorem State.setRop_launch (s : State) (n : Nat) (o : Option RemOp) (j : Nat) : (s.setRop n o).launch j = s.launch j := rfl
@[simp] theorem State.setRop_sem (s : State) (n : Nat) (o : Option RemOp) (j : Nat) : (s.setRop n o).sem j = s.sem j := rfl
@[simp] theorem State.setRop_chan (s : State) (n : Nat) (o : Option RemOp) (j : Nat) : (s.setRop n o).chan j = s.chan j := rfl
@[simp] theorem State.setRop_rop (s : State) (n : Nat) (o : Option RemOp) (j : Nat) : (s.setRop n o).rop j = if j = n then o else s.rop j := Tab.get_set ..
@[simp] theorem State.setRop_queue (s : State) (n : Nat) (o : Option RemOp) (j : Nat) : (s.setRop n o).queue j = s.queue j := rfl
@[simp] theorem State.setRop_cmd (s : State) (n : Nat) (o : Option RemOp) (j : Nat) : (s.setRop n o).cmd j = s.cmd j := rfl
@[simp] theorem State.setRop_page (s : State) (n : Nat) (o : Option RemOp) (j : Nat) : (s.setRop n o).page j = s.page j := rfl
@[simp] theorem State.setRop_arc (s : State) (n : Nat) (o : Option RemOp) (j : Nat) : (s.setRop n o).arc j = s.arc j := rfl

/-! ### setQueue -/

@[simp] theorem State.setQueue_turns (s : State) (k : Nat) (q : Queue) : (s.setQueue k q).turns = s.turns := rfl
@[simp] theorem State.setQueue_cur (s : State) (k : Nat) (q : Queue) : (s.setQueue k q).cur = s.cur := rfl
@[simp] theorem State.setQueue_late (s : State) (k : Nat) (q : Queue) : (s.setQueue k q).late = s.late := rfl
@[simp] theorem State.setQueue_choice (s : State) (k : Nat) (q : Queue) : (s.setQueue k q).choice = s.choice := rfl
@[simp] theorem State.setQueue_fresh (s : State) (k : Nat) (q : Queue) : (s.setQueue k q).fresh = s.fresh := rfl
@[simp] theorem State.setQueue_cycle (s : State) (k : Nat) (q : Queue) : (s.setQueue k q).cycle = s.cycle := rfl
@[simp] theorem State.setQueue_banks (s : State) (k : Nat) (q : Queue) : (s.setQueue k q).banks = s.banks := rfl
@[simp] theorem State.setQueue_svcs (s : State) (k : Nat) (q : Queue) : (s.setQueue k q).svcs = s.svcs := rfl
@[simp] theorem State.setQueue_active (s : State) (k : Nat) (q : Queue) : (s.setQueue k q).active = s.active := rfl
@[simp] theorem State.setQueue_mem (s : State) (k : Nat) (q : Queue) : (s.setQueue k q).mem = s.mem := rfl
@[simp] theorem State.setQueue_lines (s : State) (k : Nat) (q : Queue) : (s.setQueue k q).lines = s.lines := rfl
@[simp] theorem State.setQueue_wpoison (s : State) (k : Nat) (q : Queue) : (s.setQueue k q).wpoison = s.wpoison := rfl
@[simp] theorem State.setQueue_dirty (s : State) (k : Nat) (q : Queue) : (s.setQueue k q).dirty = s.dirty := rfl
@[simp] theorem State.setQueue_hostLines (s : State) (k : Nat) (q : Queue) : (s.setQueue k q).hostLines = s.hostLines := rfl
@[simp] theorem State.setQueue_hostWb (s : State) (k : Nat) (q : Queue) : (s.setQueue k q).hostWb = s.hostWb := rfl
@[simp] theorem State.setQueue_caches (s : State) (k : Nat) (q : Queue) : (s.setQueue k q).caches = s.caches := rfl
@[simp] theorem State.setQueue_pre (s : State) (k : Nat) (q : Queue) : (s.setQueue k q).pre = s.pre := rfl
@[simp] theorem State.setQueue_ctl (s : State) (k : Nat) (q : Queue) : (s.setQueue k q).ctl = s.ctl := rfl
@[simp] theorem State.setQueue_held (s : State) (k : Nat) (q : Queue) : (s.setQueue k q).held = s.held := rfl
@[simp] theorem State.setQueue_l1tlb (s : State) (k : Nat) (q : Queue) : (s.setQueue k q).l1tlb = s.l1tlb := rfl
@[simp] theorem State.setQueue_cltlb (s : State) (k : Nat) (q : Queue) : (s.setQueue k q).cltlb = s.cltlb := rfl
@[simp] theorem State.setQueue_keys (s : State) (k : Nat) (q : Queue) : (s.setQueue k q).keys = s.keys := rfl
@[simp] theorem State.setQueue_nextVer (s : State) (k : Nat) (q : Queue) : (s.setQueue k q).nextVer = s.nextVer := rfl
@[simp] theorem State.setQueue_regions (s : State) (k : Nat) (q : Queue) : (s.setQueue k q).regions = s.regions := rfl
@[simp] theorem State.setQueue_regstat (s : State) (k : Nat) (q : Queue) : (s.setQueue k q).regstat = s.regstat := rfl
@[simp] theorem State.setQueue_ranges (s : State) (k : Nat) (q : Queue) : (s.setQueue k q).ranges = s.ranges := rfl
@[simp] theorem State.setQueue_bins (s : State) (k : Nat) (q : Queue) : (s.setQueue k q).bins = s.bins := rfl
@[simp] theorem State.setQueue_logs (s : State) (k : Nat) (q : Queue) : (s.setQueue k q).logs = s.logs := rfl
@[simp] theorem State.setQueue_pairs (s : State) (k : Nat) (q : Queue) : (s.setQueue k q).pairs = s.pairs := rfl
@[simp] theorem State.setQueue_peerRegions (s : State) (k : Nat) (q : Queue) : (s.setQueue k q).peerRegions = s.peerRegions := rfl
@[simp] theorem State.setQueue_time (s : State) (k : Nat) (q : Queue) : (s.setQueue k q).time = s.time := rfl
@[simp] theorem State.setQueue_events (s : State) (k : Nat) (q : Queue) : (s.setQueue k q).events = s.events := rfl
@[simp] theorem State.setQueue_pkg (s : State) (k : Nat) (q : Queue) : (s.setQueue k q).pkg = s.pkg := rfl
@[simp] theorem State.setQueue_pkgLock (s : State) (k : Nat) (q : Queue) : (s.setQueue k q).pkgLock = s.pkgLock := rfl
@[simp] theorem State.setQueue_strapPkg (s : State) (k : Nat) (q : Queue) : (s.setQueue k q).strapPkg = s.strapPkg := rfl
@[simp] theorem State.setQueue_bootFail (s : State) (k : Nat) (q : Queue) : (s.setQueue k q).bootFail = s.bootFail := rfl
@[simp] theorem State.setQueue_hostOut (s : State) (k : Nat) (q : Queue) : (s.setQueue k q).hostOut = s.hostOut := rfl
@[simp] theorem State.setQueue_rinc (s : State) (k : Nat) (q : Queue) : (s.setQueue k q).rinc = s.rinc := rfl
@[simp] theorem State.setQueue_oinc (s : State) (k : Nat) (q : Queue) : (s.setQueue k q).oinc = s.oinc := rfl
@[simp] theorem State.setQueue_sboot (s : State) (k : Nat) (q : Queue) : (s.setQueue k q).sboot = s.sboot := rfl
@[simp] theorem State.setQueue_strap (s : State) (k : Nat) (q : Queue) : (s.setQueue k q).strap = s.strap := rfl
@[simp] theorem State.setQueue_hostPorts (s : State) (k : Nat) (q : Queue) : (s.setQueue k q).hostPorts = s.hostPorts := rfl
@[simp] theorem State.setQueue_plimit (s : State) (k : Nat) (q : Queue) : (s.setQueue k q).plimit = s.plimit := rfl
@[simp] theorem State.setQueue_throttled (s : State) (k : Nat) (q : Queue) : (s.setQueue k q).throttled = s.throttled := rfl
@[simp] theorem State.setQueue_power (s : State) (k : Nat) (q : Queue) : (s.setQueue k q).power = s.power := rfl
@[simp] theorem State.setQueue_scrubActive (s : State) (k : Nat) (q : Queue) : (s.setQueue k q).scrubActive = s.scrubActive := rfl
@[simp] theorem State.setQueue_scrubPasses (s : State) (k : Nat) (q : Queue) : (s.setQueue k q).scrubPasses = s.scrubPasses := rfl
@[simp] theorem State.setQueue_scrubPeriod (s : State) (k : Nat) (q : Queue) : (s.setQueue k q).scrubPeriod = s.scrubPeriod := rfl
@[simp] theorem State.setQueue_patrol (s : State) (k : Nat) (q : Queue) : (s.setQueue k q).patrol = s.patrol := rfl
@[simp] theorem State.setQueue_rops (s : State) (k : Nat) (q : Queue) : (s.setQueue k q).rops = s.rops := rfl
@[simp] theorem State.setQueue_nextOp (s : State) (k : Nat) (q : Queue) : (s.setQueue k q).nextOp = s.nextOp := rfl
@[simp] theorem State.setQueue_chans (s : State) (k : Nat) (q : Queue) : (s.setQueue k q).chans = s.chans := rfl
@[simp] theorem State.setQueue_oincs (s : State) (k : Nat) (q : Queue) : (s.setQueue k q).oincs = s.oincs := rfl
@[simp] theorem State.setQueue_owner (s : State) (k : Nat) (q : Queue) : (s.setQueue k q).owner = s.owner := rfl
@[simp] theorem State.setQueue_routes (s : State) (k : Nat) (q : Queue) : (s.setQueue k q).routes = s.routes := rfl
@[simp] theorem State.setQueue_ports (s : State) (k : Nat) (q : Queue) : (s.setQueue k q).ports = s.ports := rfl
@[simp] theorem State.setQueue_outbox (s : State) (k : Nat) (q : Queue) : (s.setQueue k q).outbox = s.outbox := rfl
@[simp] theorem State.setQueue_lseq (s : State) (k : Nat) (q : Queue) : (s.setQueue k q).lseq = s.lseq := rfl
@[simp] theorem State.setQueue_chainPort (s : State) (k : Nat) (q : Queue) : (s.setQueue k q).chainPort = s.chainPort := rfl
@[simp] theorem State.setQueue_inbox (s : State) (k : Nat) (q : Queue) : (s.setQueue k q).inbox = s.inbox := rfl
@[simp] theorem State.setQueue_cmds (s : State) (k : Nat) (q : Queue) : (s.setQueue k q).cmds = s.cmds := rfl
@[simp] theorem State.setQueue_nextCmd (s : State) (k : Nat) (q : Queue) : (s.setQueue k q).nextCmd = s.nextCmd := rfl
@[simp] theorem State.setQueue_pages (s : State) (k : Nat) (q : Queue) : (s.setQueue k q).pages = s.pages := rfl
@[simp] theorem State.setQueue_arcs (s : State) (k : Nat) (q : Queue) : (s.setQueue k q).arcs = s.arcs := rfl
@[simp] theorem State.setQueue_net (s : State) (k : Nat) (q : Queue) : (s.setQueue k q).net = s.net := rfl
@[simp] theorem State.setQueue_saved (s : State) (k : Nat) (q : Queue) : (s.setQueue k q).saved = s.saved := rfl
@[simp] theorem State.setQueue_ochre (s : State) (k : Nat) (q : Queue) : (s.setQueue k q).ochre = s.ochre := rfl
@[simp] theorem State.setQueue_scmd (s : State) (k : Nat) (q : Queue) : (s.setQueue k q).scmd = s.scmd := rfl
@[simp] theorem State.setQueue_sstat (s : State) (k : Nat) (q : Queue) : (s.setQueue k q).sstat = s.sstat := rfl
@[simp] theorem State.setQueue_rcbptr (s : State) (k : Nat) (q : Queue) : (s.setQueue k q).rcbptr = s.rcbptr := rfl
@[simp] theorem State.setQueue_faultq (s : State) (k : Nat) (q : Queue) : (s.setQueue k q).faultq = s.faultq := rfl
@[simp] theorem State.setQueue_rcbs (s : State) (k : Nat) (q : Queue) : (s.setQueue k q).rcbs = s.rcbs := rfl
@[simp] theorem State.setQueue_leaves (s : State) (k : Nat) (q : Queue) : (s.setQueue k q).leaves = s.leaves := rfl
@[simp] theorem State.setQueue_nextLid (s : State) (k : Nat) (q : Queue) : (s.setQueue k q).nextLid = s.nextLid := rfl
@[simp] theorem State.setQueue_launches (s : State) (k : Nat) (q : Queue) : (s.setQueue k q).launches = s.launches := rfl
@[simp] theorem State.setQueue_groups (s : State) (k : Nat) (q : Queue) : (s.setQueue k q).groups = s.groups := rfl
@[simp] theorem State.setQueue_conts (s : State) (k : Nat) (q : Queue) : (s.setQueue k q).conts = s.conts := rfl
@[simp] theorem State.setQueue_runqs (s : State) (k : Nat) (q : Queue) : (s.setQueue k q).runqs = s.runqs := rfl
@[simp] theorem State.setQueue_sems (s : State) (k : Nat) (q : Queue) : (s.setQueue k q).sems = s.sems := rfl
@[simp] theorem State.setQueue_bars (s : State) (k : Nat) (q : Queue) : (s.setQueue k q).bars = s.bars := rfl
@[simp] theorem State.setQueue_bank (s : State) (k : Nat) (q : Queue) (z : Nat) : (s.setQueue k q).bank z = s.bank z := rfl
@[simp] theorem State.setQueue_byte (s : State) (k : Nat) (q : Queue) (y : Nat) : (s.setQueue k q).byte y = s.byte y := rfl
@[simp] theorem State.setQueue_cont (s : State) (k : Nat) (q : Queue) (j : Nat) : (s.setQueue k q).cont j = s.cont j := rfl
@[simp] theorem State.setQueue_group (s : State) (k : Nat) (q : Queue) (j : Nat) : (s.setQueue k q).group j = s.group j := rfl
@[simp] theorem State.setQueue_launch (s : State) (k : Nat) (q : Queue) (j : Nat) : (s.setQueue k q).launch j = s.launch j := rfl
@[simp] theorem State.setQueue_sem (s : State) (k : Nat) (q : Queue) (j : Nat) : (s.setQueue k q).sem j = s.sem j := rfl
@[simp] theorem State.setQueue_chan (s : State) (k : Nat) (q : Queue) (j : Nat) : (s.setQueue k q).chan j = s.chan j := rfl
@[simp] theorem State.setQueue_rop (s : State) (k : Nat) (q : Queue) (j : Nat) : (s.setQueue k q).rop j = s.rop j := rfl
@[simp] theorem State.setQueue_queue (s : State) (k : Nat) (q : Queue) (j : Nat) : (s.setQueue k q).queue j = if j = k then q else s.queue j := Tab.get_set ..
@[simp] theorem State.setQueue_cmd (s : State) (k : Nat) (q : Queue) (j : Nat) : (s.setQueue k q).cmd j = s.cmd j := rfl
@[simp] theorem State.setQueue_page (s : State) (k : Nat) (q : Queue) (j : Nat) : (s.setQueue k q).page j = s.page j := rfl
@[simp] theorem State.setQueue_arc (s : State) (k : Nat) (q : Queue) (j : Nat) : (s.setQueue k q).arc j = s.arc j := rfl

/-! ### setCmd -/

@[simp] theorem State.setCmd_turns (s : State) (n : Nat) (c : Option Cmd) : (s.setCmd n c).turns = s.turns := rfl
@[simp] theorem State.setCmd_cur (s : State) (n : Nat) (c : Option Cmd) : (s.setCmd n c).cur = s.cur := rfl
@[simp] theorem State.setCmd_late (s : State) (n : Nat) (c : Option Cmd) : (s.setCmd n c).late = s.late := rfl
@[simp] theorem State.setCmd_choice (s : State) (n : Nat) (c : Option Cmd) : (s.setCmd n c).choice = s.choice := rfl
@[simp] theorem State.setCmd_fresh (s : State) (n : Nat) (c : Option Cmd) : (s.setCmd n c).fresh = s.fresh := rfl
@[simp] theorem State.setCmd_cycle (s : State) (n : Nat) (c : Option Cmd) : (s.setCmd n c).cycle = s.cycle := rfl
@[simp] theorem State.setCmd_banks (s : State) (n : Nat) (c : Option Cmd) : (s.setCmd n c).banks = s.banks := rfl
@[simp] theorem State.setCmd_svcs (s : State) (n : Nat) (c : Option Cmd) : (s.setCmd n c).svcs = s.svcs := rfl
@[simp] theorem State.setCmd_active (s : State) (n : Nat) (c : Option Cmd) : (s.setCmd n c).active = s.active := rfl
@[simp] theorem State.setCmd_mem (s : State) (n : Nat) (c : Option Cmd) : (s.setCmd n c).mem = s.mem := rfl
@[simp] theorem State.setCmd_lines (s : State) (n : Nat) (c : Option Cmd) : (s.setCmd n c).lines = s.lines := rfl
@[simp] theorem State.setCmd_wpoison (s : State) (n : Nat) (c : Option Cmd) : (s.setCmd n c).wpoison = s.wpoison := rfl
@[simp] theorem State.setCmd_dirty (s : State) (n : Nat) (c : Option Cmd) : (s.setCmd n c).dirty = s.dirty := rfl
@[simp] theorem State.setCmd_hostLines (s : State) (n : Nat) (c : Option Cmd) : (s.setCmd n c).hostLines = s.hostLines := rfl
@[simp] theorem State.setCmd_hostWb (s : State) (n : Nat) (c : Option Cmd) : (s.setCmd n c).hostWb = s.hostWb := rfl
@[simp] theorem State.setCmd_caches (s : State) (n : Nat) (c : Option Cmd) : (s.setCmd n c).caches = s.caches := rfl
@[simp] theorem State.setCmd_pre (s : State) (n : Nat) (c : Option Cmd) : (s.setCmd n c).pre = s.pre := rfl
@[simp] theorem State.setCmd_ctl (s : State) (n : Nat) (c : Option Cmd) : (s.setCmd n c).ctl = s.ctl := rfl
@[simp] theorem State.setCmd_held (s : State) (n : Nat) (c : Option Cmd) : (s.setCmd n c).held = s.held := rfl
@[simp] theorem State.setCmd_l1tlb (s : State) (n : Nat) (c : Option Cmd) : (s.setCmd n c).l1tlb = s.l1tlb := rfl
@[simp] theorem State.setCmd_cltlb (s : State) (n : Nat) (c : Option Cmd) : (s.setCmd n c).cltlb = s.cltlb := rfl
@[simp] theorem State.setCmd_keys (s : State) (n : Nat) (c : Option Cmd) : (s.setCmd n c).keys = s.keys := rfl
@[simp] theorem State.setCmd_nextVer (s : State) (n : Nat) (c : Option Cmd) : (s.setCmd n c).nextVer = s.nextVer := rfl
@[simp] theorem State.setCmd_regions (s : State) (n : Nat) (c : Option Cmd) : (s.setCmd n c).regions = s.regions := rfl
@[simp] theorem State.setCmd_regstat (s : State) (n : Nat) (c : Option Cmd) : (s.setCmd n c).regstat = s.regstat := rfl
@[simp] theorem State.setCmd_ranges (s : State) (n : Nat) (c : Option Cmd) : (s.setCmd n c).ranges = s.ranges := rfl
@[simp] theorem State.setCmd_bins (s : State) (n : Nat) (c : Option Cmd) : (s.setCmd n c).bins = s.bins := rfl
@[simp] theorem State.setCmd_logs (s : State) (n : Nat) (c : Option Cmd) : (s.setCmd n c).logs = s.logs := rfl
@[simp] theorem State.setCmd_pairs (s : State) (n : Nat) (c : Option Cmd) : (s.setCmd n c).pairs = s.pairs := rfl
@[simp] theorem State.setCmd_peerRegions (s : State) (n : Nat) (c : Option Cmd) : (s.setCmd n c).peerRegions = s.peerRegions := rfl
@[simp] theorem State.setCmd_time (s : State) (n : Nat) (c : Option Cmd) : (s.setCmd n c).time = s.time := rfl
@[simp] theorem State.setCmd_events (s : State) (n : Nat) (c : Option Cmd) : (s.setCmd n c).events = s.events := rfl
@[simp] theorem State.setCmd_pkg (s : State) (n : Nat) (c : Option Cmd) : (s.setCmd n c).pkg = s.pkg := rfl
@[simp] theorem State.setCmd_pkgLock (s : State) (n : Nat) (c : Option Cmd) : (s.setCmd n c).pkgLock = s.pkgLock := rfl
@[simp] theorem State.setCmd_strapPkg (s : State) (n : Nat) (c : Option Cmd) : (s.setCmd n c).strapPkg = s.strapPkg := rfl
@[simp] theorem State.setCmd_bootFail (s : State) (n : Nat) (c : Option Cmd) : (s.setCmd n c).bootFail = s.bootFail := rfl
@[simp] theorem State.setCmd_hostOut (s : State) (n : Nat) (c : Option Cmd) : (s.setCmd n c).hostOut = s.hostOut := rfl
@[simp] theorem State.setCmd_rinc (s : State) (n : Nat) (c : Option Cmd) : (s.setCmd n c).rinc = s.rinc := rfl
@[simp] theorem State.setCmd_oinc (s : State) (n : Nat) (c : Option Cmd) : (s.setCmd n c).oinc = s.oinc := rfl
@[simp] theorem State.setCmd_sboot (s : State) (n : Nat) (c : Option Cmd) : (s.setCmd n c).sboot = s.sboot := rfl
@[simp] theorem State.setCmd_strap (s : State) (n : Nat) (c : Option Cmd) : (s.setCmd n c).strap = s.strap := rfl
@[simp] theorem State.setCmd_hostPorts (s : State) (n : Nat) (c : Option Cmd) : (s.setCmd n c).hostPorts = s.hostPorts := rfl
@[simp] theorem State.setCmd_plimit (s : State) (n : Nat) (c : Option Cmd) : (s.setCmd n c).plimit = s.plimit := rfl
@[simp] theorem State.setCmd_throttled (s : State) (n : Nat) (c : Option Cmd) : (s.setCmd n c).throttled = s.throttled := rfl
@[simp] theorem State.setCmd_power (s : State) (n : Nat) (c : Option Cmd) : (s.setCmd n c).power = s.power := rfl
@[simp] theorem State.setCmd_scrubActive (s : State) (n : Nat) (c : Option Cmd) : (s.setCmd n c).scrubActive = s.scrubActive := rfl
@[simp] theorem State.setCmd_scrubPasses (s : State) (n : Nat) (c : Option Cmd) : (s.setCmd n c).scrubPasses = s.scrubPasses := rfl
@[simp] theorem State.setCmd_scrubPeriod (s : State) (n : Nat) (c : Option Cmd) : (s.setCmd n c).scrubPeriod = s.scrubPeriod := rfl
@[simp] theorem State.setCmd_patrol (s : State) (n : Nat) (c : Option Cmd) : (s.setCmd n c).patrol = s.patrol := rfl
@[simp] theorem State.setCmd_rops (s : State) (n : Nat) (c : Option Cmd) : (s.setCmd n c).rops = s.rops := rfl
@[simp] theorem State.setCmd_nextOp (s : State) (n : Nat) (c : Option Cmd) : (s.setCmd n c).nextOp = s.nextOp := rfl
@[simp] theorem State.setCmd_chans (s : State) (n : Nat) (c : Option Cmd) : (s.setCmd n c).chans = s.chans := rfl
@[simp] theorem State.setCmd_oincs (s : State) (n : Nat) (c : Option Cmd) : (s.setCmd n c).oincs = s.oincs := rfl
@[simp] theorem State.setCmd_owner (s : State) (n : Nat) (c : Option Cmd) : (s.setCmd n c).owner = s.owner := rfl
@[simp] theorem State.setCmd_routes (s : State) (n : Nat) (c : Option Cmd) : (s.setCmd n c).routes = s.routes := rfl
@[simp] theorem State.setCmd_ports (s : State) (n : Nat) (c : Option Cmd) : (s.setCmd n c).ports = s.ports := rfl
@[simp] theorem State.setCmd_outbox (s : State) (n : Nat) (c : Option Cmd) : (s.setCmd n c).outbox = s.outbox := rfl
@[simp] theorem State.setCmd_lseq (s : State) (n : Nat) (c : Option Cmd) : (s.setCmd n c).lseq = s.lseq := rfl
@[simp] theorem State.setCmd_chainPort (s : State) (n : Nat) (c : Option Cmd) : (s.setCmd n c).chainPort = s.chainPort := rfl
@[simp] theorem State.setCmd_inbox (s : State) (n : Nat) (c : Option Cmd) : (s.setCmd n c).inbox = s.inbox := rfl
@[simp] theorem State.setCmd_nextCmd (s : State) (n : Nat) (c : Option Cmd) : (s.setCmd n c).nextCmd = s.nextCmd := rfl
@[simp] theorem State.setCmd_queues (s : State) (n : Nat) (c : Option Cmd) : (s.setCmd n c).queues = s.queues := rfl
@[simp] theorem State.setCmd_pages (s : State) (n : Nat) (c : Option Cmd) : (s.setCmd n c).pages = s.pages := rfl
@[simp] theorem State.setCmd_arcs (s : State) (n : Nat) (c : Option Cmd) : (s.setCmd n c).arcs = s.arcs := rfl
@[simp] theorem State.setCmd_net (s : State) (n : Nat) (c : Option Cmd) : (s.setCmd n c).net = s.net := rfl
@[simp] theorem State.setCmd_saved (s : State) (n : Nat) (c : Option Cmd) : (s.setCmd n c).saved = s.saved := rfl
@[simp] theorem State.setCmd_ochre (s : State) (n : Nat) (c : Option Cmd) : (s.setCmd n c).ochre = s.ochre := rfl
@[simp] theorem State.setCmd_scmd (s : State) (n : Nat) (c : Option Cmd) : (s.setCmd n c).scmd = s.scmd := rfl
@[simp] theorem State.setCmd_sstat (s : State) (n : Nat) (c : Option Cmd) : (s.setCmd n c).sstat = s.sstat := rfl
@[simp] theorem State.setCmd_rcbptr (s : State) (n : Nat) (c : Option Cmd) : (s.setCmd n c).rcbptr = s.rcbptr := rfl
@[simp] theorem State.setCmd_faultq (s : State) (n : Nat) (c : Option Cmd) : (s.setCmd n c).faultq = s.faultq := rfl
@[simp] theorem State.setCmd_rcbs (s : State) (n : Nat) (c : Option Cmd) : (s.setCmd n c).rcbs = s.rcbs := rfl
@[simp] theorem State.setCmd_leaves (s : State) (n : Nat) (c : Option Cmd) : (s.setCmd n c).leaves = s.leaves := rfl
@[simp] theorem State.setCmd_nextLid (s : State) (n : Nat) (c : Option Cmd) : (s.setCmd n c).nextLid = s.nextLid := rfl
@[simp] theorem State.setCmd_launches (s : State) (n : Nat) (c : Option Cmd) : (s.setCmd n c).launches = s.launches := rfl
@[simp] theorem State.setCmd_groups (s : State) (n : Nat) (c : Option Cmd) : (s.setCmd n c).groups = s.groups := rfl
@[simp] theorem State.setCmd_conts (s : State) (n : Nat) (c : Option Cmd) : (s.setCmd n c).conts = s.conts := rfl
@[simp] theorem State.setCmd_runqs (s : State) (n : Nat) (c : Option Cmd) : (s.setCmd n c).runqs = s.runqs := rfl
@[simp] theorem State.setCmd_sems (s : State) (n : Nat) (c : Option Cmd) : (s.setCmd n c).sems = s.sems := rfl
@[simp] theorem State.setCmd_bars (s : State) (n : Nat) (c : Option Cmd) : (s.setCmd n c).bars = s.bars := rfl
@[simp] theorem State.setCmd_bank (s : State) (n : Nat) (c : Option Cmd) (z : Nat) : (s.setCmd n c).bank z = s.bank z := rfl
@[simp] theorem State.setCmd_byte (s : State) (n : Nat) (c : Option Cmd) (y : Nat) : (s.setCmd n c).byte y = s.byte y := rfl
@[simp] theorem State.setCmd_cont (s : State) (n : Nat) (c : Option Cmd) (j : Nat) : (s.setCmd n c).cont j = s.cont j := rfl
@[simp] theorem State.setCmd_group (s : State) (n : Nat) (c : Option Cmd) (j : Nat) : (s.setCmd n c).group j = s.group j := rfl
@[simp] theorem State.setCmd_launch (s : State) (n : Nat) (c : Option Cmd) (j : Nat) : (s.setCmd n c).launch j = s.launch j := rfl
@[simp] theorem State.setCmd_sem (s : State) (n : Nat) (c : Option Cmd) (j : Nat) : (s.setCmd n c).sem j = s.sem j := rfl
@[simp] theorem State.setCmd_chan (s : State) (n : Nat) (c : Option Cmd) (j : Nat) : (s.setCmd n c).chan j = s.chan j := rfl
@[simp] theorem State.setCmd_rop (s : State) (n : Nat) (c : Option Cmd) (j : Nat) : (s.setCmd n c).rop j = s.rop j := rfl
@[simp] theorem State.setCmd_queue (s : State) (n : Nat) (c : Option Cmd) (j : Nat) : (s.setCmd n c).queue j = s.queue j := rfl
@[simp] theorem State.setCmd_cmd (s : State) (n : Nat) (c : Option Cmd) (j : Nat) : (s.setCmd n c).cmd j = if j = n then c else s.cmd j := Tab.get_set ..
@[simp] theorem State.setCmd_page (s : State) (n : Nat) (c : Option Cmd) (j : Nat) : (s.setCmd n c).page j = s.page j := rfl
@[simp] theorem State.setCmd_arc (s : State) (n : Nat) (c : Option Cmd) (j : Nat) : (s.setCmd n c).arc j = s.arc j := rfl

/-! ### setPage -/

@[simp] theorem State.setPage_turns (s : State) (p : Nat) (x : Page) : (s.setPage p x).turns = s.turns := rfl
@[simp] theorem State.setPage_cur (s : State) (p : Nat) (x : Page) : (s.setPage p x).cur = s.cur := rfl
@[simp] theorem State.setPage_late (s : State) (p : Nat) (x : Page) : (s.setPage p x).late = s.late := rfl
@[simp] theorem State.setPage_choice (s : State) (p : Nat) (x : Page) : (s.setPage p x).choice = s.choice := rfl
@[simp] theorem State.setPage_fresh (s : State) (p : Nat) (x : Page) : (s.setPage p x).fresh = s.fresh := rfl
@[simp] theorem State.setPage_cycle (s : State) (p : Nat) (x : Page) : (s.setPage p x).cycle = s.cycle := rfl
@[simp] theorem State.setPage_banks (s : State) (p : Nat) (x : Page) : (s.setPage p x).banks = s.banks := rfl
@[simp] theorem State.setPage_svcs (s : State) (p : Nat) (x : Page) : (s.setPage p x).svcs = s.svcs := rfl
@[simp] theorem State.setPage_active (s : State) (p : Nat) (x : Page) : (s.setPage p x).active = s.active := rfl
@[simp] theorem State.setPage_mem (s : State) (p : Nat) (x : Page) : (s.setPage p x).mem = s.mem := rfl
@[simp] theorem State.setPage_lines (s : State) (p : Nat) (x : Page) : (s.setPage p x).lines = s.lines := rfl
@[simp] theorem State.setPage_wpoison (s : State) (p : Nat) (x : Page) : (s.setPage p x).wpoison = s.wpoison := rfl
@[simp] theorem State.setPage_dirty (s : State) (p : Nat) (x : Page) : (s.setPage p x).dirty = s.dirty := rfl
@[simp] theorem State.setPage_hostLines (s : State) (p : Nat) (x : Page) : (s.setPage p x).hostLines = s.hostLines := rfl
@[simp] theorem State.setPage_hostWb (s : State) (p : Nat) (x : Page) : (s.setPage p x).hostWb = s.hostWb := rfl
@[simp] theorem State.setPage_caches (s : State) (p : Nat) (x : Page) : (s.setPage p x).caches = s.caches := rfl
@[simp] theorem State.setPage_pre (s : State) (p : Nat) (x : Page) : (s.setPage p x).pre = s.pre := rfl
@[simp] theorem State.setPage_ctl (s : State) (p : Nat) (x : Page) : (s.setPage p x).ctl = s.ctl := rfl
@[simp] theorem State.setPage_held (s : State) (p : Nat) (x : Page) : (s.setPage p x).held = s.held := rfl
@[simp] theorem State.setPage_l1tlb (s : State) (p : Nat) (x : Page) : (s.setPage p x).l1tlb = s.l1tlb := rfl
@[simp] theorem State.setPage_cltlb (s : State) (p : Nat) (x : Page) : (s.setPage p x).cltlb = s.cltlb := rfl
@[simp] theorem State.setPage_keys (s : State) (p : Nat) (x : Page) : (s.setPage p x).keys = s.keys := rfl
@[simp] theorem State.setPage_nextVer (s : State) (p : Nat) (x : Page) : (s.setPage p x).nextVer = s.nextVer := rfl
@[simp] theorem State.setPage_regions (s : State) (p : Nat) (x : Page) : (s.setPage p x).regions = s.regions := rfl
@[simp] theorem State.setPage_regstat (s : State) (p : Nat) (x : Page) : (s.setPage p x).regstat = s.regstat := rfl
@[simp] theorem State.setPage_ranges (s : State) (p : Nat) (x : Page) : (s.setPage p x).ranges = s.ranges := rfl
@[simp] theorem State.setPage_bins (s : State) (p : Nat) (x : Page) : (s.setPage p x).bins = s.bins := rfl
@[simp] theorem State.setPage_logs (s : State) (p : Nat) (x : Page) : (s.setPage p x).logs = s.logs := rfl
@[simp] theorem State.setPage_pairs (s : State) (p : Nat) (x : Page) : (s.setPage p x).pairs = s.pairs := rfl
@[simp] theorem State.setPage_peerRegions (s : State) (p : Nat) (x : Page) : (s.setPage p x).peerRegions = s.peerRegions := rfl
@[simp] theorem State.setPage_time (s : State) (p : Nat) (x : Page) : (s.setPage p x).time = s.time := rfl
@[simp] theorem State.setPage_events (s : State) (p : Nat) (x : Page) : (s.setPage p x).events = s.events := rfl
@[simp] theorem State.setPage_pkg (s : State) (p : Nat) (x : Page) : (s.setPage p x).pkg = s.pkg := rfl
@[simp] theorem State.setPage_pkgLock (s : State) (p : Nat) (x : Page) : (s.setPage p x).pkgLock = s.pkgLock := rfl
@[simp] theorem State.setPage_strapPkg (s : State) (p : Nat) (x : Page) : (s.setPage p x).strapPkg = s.strapPkg := rfl
@[simp] theorem State.setPage_bootFail (s : State) (p : Nat) (x : Page) : (s.setPage p x).bootFail = s.bootFail := rfl
@[simp] theorem State.setPage_hostOut (s : State) (p : Nat) (x : Page) : (s.setPage p x).hostOut = s.hostOut := rfl
@[simp] theorem State.setPage_rinc (s : State) (p : Nat) (x : Page) : (s.setPage p x).rinc = s.rinc := rfl
@[simp] theorem State.setPage_oinc (s : State) (p : Nat) (x : Page) : (s.setPage p x).oinc = s.oinc := rfl
@[simp] theorem State.setPage_sboot (s : State) (p : Nat) (x : Page) : (s.setPage p x).sboot = s.sboot := rfl
@[simp] theorem State.setPage_strap (s : State) (p : Nat) (x : Page) : (s.setPage p x).strap = s.strap := rfl
@[simp] theorem State.setPage_hostPorts (s : State) (p : Nat) (x : Page) : (s.setPage p x).hostPorts = s.hostPorts := rfl
@[simp] theorem State.setPage_plimit (s : State) (p : Nat) (x : Page) : (s.setPage p x).plimit = s.plimit := rfl
@[simp] theorem State.setPage_throttled (s : State) (p : Nat) (x : Page) : (s.setPage p x).throttled = s.throttled := rfl
@[simp] theorem State.setPage_power (s : State) (p : Nat) (x : Page) : (s.setPage p x).power = s.power := rfl
@[simp] theorem State.setPage_scrubActive (s : State) (p : Nat) (x : Page) : (s.setPage p x).scrubActive = s.scrubActive := rfl
@[simp] theorem State.setPage_scrubPasses (s : State) (p : Nat) (x : Page) : (s.setPage p x).scrubPasses = s.scrubPasses := rfl
@[simp] theorem State.setPage_scrubPeriod (s : State) (p : Nat) (x : Page) : (s.setPage p x).scrubPeriod = s.scrubPeriod := rfl
@[simp] theorem State.setPage_patrol (s : State) (p : Nat) (x : Page) : (s.setPage p x).patrol = s.patrol := rfl
@[simp] theorem State.setPage_rops (s : State) (p : Nat) (x : Page) : (s.setPage p x).rops = s.rops := rfl
@[simp] theorem State.setPage_nextOp (s : State) (p : Nat) (x : Page) : (s.setPage p x).nextOp = s.nextOp := rfl
@[simp] theorem State.setPage_chans (s : State) (p : Nat) (x : Page) : (s.setPage p x).chans = s.chans := rfl
@[simp] theorem State.setPage_oincs (s : State) (p : Nat) (x : Page) : (s.setPage p x).oincs = s.oincs := rfl
@[simp] theorem State.setPage_owner (s : State) (p : Nat) (x : Page) : (s.setPage p x).owner = s.owner := rfl
@[simp] theorem State.setPage_routes (s : State) (p : Nat) (x : Page) : (s.setPage p x).routes = s.routes := rfl
@[simp] theorem State.setPage_ports (s : State) (p : Nat) (x : Page) : (s.setPage p x).ports = s.ports := rfl
@[simp] theorem State.setPage_outbox (s : State) (p : Nat) (x : Page) : (s.setPage p x).outbox = s.outbox := rfl
@[simp] theorem State.setPage_lseq (s : State) (p : Nat) (x : Page) : (s.setPage p x).lseq = s.lseq := rfl
@[simp] theorem State.setPage_chainPort (s : State) (p : Nat) (x : Page) : (s.setPage p x).chainPort = s.chainPort := rfl
@[simp] theorem State.setPage_inbox (s : State) (p : Nat) (x : Page) : (s.setPage p x).inbox = s.inbox := rfl
@[simp] theorem State.setPage_cmds (s : State) (p : Nat) (x : Page) : (s.setPage p x).cmds = s.cmds := rfl
@[simp] theorem State.setPage_nextCmd (s : State) (p : Nat) (x : Page) : (s.setPage p x).nextCmd = s.nextCmd := rfl
@[simp] theorem State.setPage_queues (s : State) (p : Nat) (x : Page) : (s.setPage p x).queues = s.queues := rfl
@[simp] theorem State.setPage_arcs (s : State) (p : Nat) (x : Page) : (s.setPage p x).arcs = s.arcs := rfl
@[simp] theorem State.setPage_net (s : State) (p : Nat) (x : Page) : (s.setPage p x).net = s.net := rfl
@[simp] theorem State.setPage_saved (s : State) (p : Nat) (x : Page) : (s.setPage p x).saved = s.saved := rfl
@[simp] theorem State.setPage_ochre (s : State) (p : Nat) (x : Page) : (s.setPage p x).ochre = s.ochre := rfl
@[simp] theorem State.setPage_scmd (s : State) (p : Nat) (x : Page) : (s.setPage p x).scmd = s.scmd := rfl
@[simp] theorem State.setPage_sstat (s : State) (p : Nat) (x : Page) : (s.setPage p x).sstat = s.sstat := rfl
@[simp] theorem State.setPage_rcbptr (s : State) (p : Nat) (x : Page) : (s.setPage p x).rcbptr = s.rcbptr := rfl
@[simp] theorem State.setPage_faultq (s : State) (p : Nat) (x : Page) : (s.setPage p x).faultq = s.faultq := rfl
@[simp] theorem State.setPage_rcbs (s : State) (p : Nat) (x : Page) : (s.setPage p x).rcbs = s.rcbs := rfl
@[simp] theorem State.setPage_leaves (s : State) (p : Nat) (x : Page) : (s.setPage p x).leaves = s.leaves := rfl
@[simp] theorem State.setPage_nextLid (s : State) (p : Nat) (x : Page) : (s.setPage p x).nextLid = s.nextLid := rfl
@[simp] theorem State.setPage_launches (s : State) (p : Nat) (x : Page) : (s.setPage p x).launches = s.launches := rfl
@[simp] theorem State.setPage_groups (s : State) (p : Nat) (x : Page) : (s.setPage p x).groups = s.groups := rfl
@[simp] theorem State.setPage_conts (s : State) (p : Nat) (x : Page) : (s.setPage p x).conts = s.conts := rfl
@[simp] theorem State.setPage_runqs (s : State) (p : Nat) (x : Page) : (s.setPage p x).runqs = s.runqs := rfl
@[simp] theorem State.setPage_sems (s : State) (p : Nat) (x : Page) : (s.setPage p x).sems = s.sems := rfl
@[simp] theorem State.setPage_bars (s : State) (p : Nat) (x : Page) : (s.setPage p x).bars = s.bars := rfl
@[simp] theorem State.setPage_bank (s : State) (p : Nat) (x : Page) (z : Nat) : (s.setPage p x).bank z = s.bank z := rfl
@[simp] theorem State.setPage_byte (s : State) (p : Nat) (x : Page) (y : Nat) : (s.setPage p x).byte y = s.byte y := rfl
@[simp] theorem State.setPage_cont (s : State) (p : Nat) (x : Page) (j : Nat) : (s.setPage p x).cont j = s.cont j := rfl
@[simp] theorem State.setPage_group (s : State) (p : Nat) (x : Page) (j : Nat) : (s.setPage p x).group j = s.group j := rfl
@[simp] theorem State.setPage_launch (s : State) (p : Nat) (x : Page) (j : Nat) : (s.setPage p x).launch j = s.launch j := rfl
@[simp] theorem State.setPage_sem (s : State) (p : Nat) (x : Page) (j : Nat) : (s.setPage p x).sem j = s.sem j := rfl
@[simp] theorem State.setPage_chan (s : State) (p : Nat) (x : Page) (j : Nat) : (s.setPage p x).chan j = s.chan j := rfl
@[simp] theorem State.setPage_rop (s : State) (p : Nat) (x : Page) (j : Nat) : (s.setPage p x).rop j = s.rop j := rfl
@[simp] theorem State.setPage_queue (s : State) (p : Nat) (x : Page) (j : Nat) : (s.setPage p x).queue j = s.queue j := rfl
@[simp] theorem State.setPage_cmd (s : State) (p : Nat) (x : Page) (j : Nat) : (s.setPage p x).cmd j = s.cmd j := rfl
@[simp] theorem State.setPage_page (s : State) (p : Nat) (x : Page) (j : Nat) : (s.setPage p x).page j = if j = p then some x else s.page j := Tab.get_set none s.pages p j (some x)
@[simp] theorem State.setPage_arc (s : State) (p : Nat) (x : Page) (j : Nat) : (s.setPage p x).arc j = s.arc j := rfl

/-! ### setArc -/

@[simp] theorem State.setArc_turns (s : State) (k : Nat) (a : Arc) : (s.setArc k a).turns = s.turns := rfl
@[simp] theorem State.setArc_cur (s : State) (k : Nat) (a : Arc) : (s.setArc k a).cur = s.cur := rfl
@[simp] theorem State.setArc_late (s : State) (k : Nat) (a : Arc) : (s.setArc k a).late = s.late := rfl
@[simp] theorem State.setArc_choice (s : State) (k : Nat) (a : Arc) : (s.setArc k a).choice = s.choice := rfl
@[simp] theorem State.setArc_fresh (s : State) (k : Nat) (a : Arc) : (s.setArc k a).fresh = s.fresh := rfl
@[simp] theorem State.setArc_cycle (s : State) (k : Nat) (a : Arc) : (s.setArc k a).cycle = s.cycle := rfl
@[simp] theorem State.setArc_banks (s : State) (k : Nat) (a : Arc) : (s.setArc k a).banks = s.banks := rfl
@[simp] theorem State.setArc_svcs (s : State) (k : Nat) (a : Arc) : (s.setArc k a).svcs = s.svcs := rfl
@[simp] theorem State.setArc_active (s : State) (k : Nat) (a : Arc) : (s.setArc k a).active = s.active := rfl
@[simp] theorem State.setArc_mem (s : State) (k : Nat) (a : Arc) : (s.setArc k a).mem = s.mem := rfl
@[simp] theorem State.setArc_lines (s : State) (k : Nat) (a : Arc) : (s.setArc k a).lines = s.lines := rfl
@[simp] theorem State.setArc_wpoison (s : State) (k : Nat) (a : Arc) : (s.setArc k a).wpoison = s.wpoison := rfl
@[simp] theorem State.setArc_dirty (s : State) (k : Nat) (a : Arc) : (s.setArc k a).dirty = s.dirty := rfl
@[simp] theorem State.setArc_hostLines (s : State) (k : Nat) (a : Arc) : (s.setArc k a).hostLines = s.hostLines := rfl
@[simp] theorem State.setArc_hostWb (s : State) (k : Nat) (a : Arc) : (s.setArc k a).hostWb = s.hostWb := rfl
@[simp] theorem State.setArc_caches (s : State) (k : Nat) (a : Arc) : (s.setArc k a).caches = s.caches := rfl
@[simp] theorem State.setArc_pre (s : State) (k : Nat) (a : Arc) : (s.setArc k a).pre = s.pre := rfl
@[simp] theorem State.setArc_ctl (s : State) (k : Nat) (a : Arc) : (s.setArc k a).ctl = s.ctl := rfl
@[simp] theorem State.setArc_held (s : State) (k : Nat) (a : Arc) : (s.setArc k a).held = s.held := rfl
@[simp] theorem State.setArc_l1tlb (s : State) (k : Nat) (a : Arc) : (s.setArc k a).l1tlb = s.l1tlb := rfl
@[simp] theorem State.setArc_cltlb (s : State) (k : Nat) (a : Arc) : (s.setArc k a).cltlb = s.cltlb := rfl
@[simp] theorem State.setArc_keys (s : State) (k : Nat) (a : Arc) : (s.setArc k a).keys = s.keys := rfl
@[simp] theorem State.setArc_nextVer (s : State) (k : Nat) (a : Arc) : (s.setArc k a).nextVer = s.nextVer := rfl
@[simp] theorem State.setArc_regions (s : State) (k : Nat) (a : Arc) : (s.setArc k a).regions = s.regions := rfl
@[simp] theorem State.setArc_regstat (s : State) (k : Nat) (a : Arc) : (s.setArc k a).regstat = s.regstat := rfl
@[simp] theorem State.setArc_ranges (s : State) (k : Nat) (a : Arc) : (s.setArc k a).ranges = s.ranges := rfl
@[simp] theorem State.setArc_bins (s : State) (k : Nat) (a : Arc) : (s.setArc k a).bins = s.bins := rfl
@[simp] theorem State.setArc_logs (s : State) (k : Nat) (a : Arc) : (s.setArc k a).logs = s.logs := rfl
@[simp] theorem State.setArc_pairs (s : State) (k : Nat) (a : Arc) : (s.setArc k a).pairs = s.pairs := rfl
@[simp] theorem State.setArc_peerRegions (s : State) (k : Nat) (a : Arc) : (s.setArc k a).peerRegions = s.peerRegions := rfl
@[simp] theorem State.setArc_time (s : State) (k : Nat) (a : Arc) : (s.setArc k a).time = s.time := rfl
@[simp] theorem State.setArc_events (s : State) (k : Nat) (a : Arc) : (s.setArc k a).events = s.events := rfl
@[simp] theorem State.setArc_pkg (s : State) (k : Nat) (a : Arc) : (s.setArc k a).pkg = s.pkg := rfl
@[simp] theorem State.setArc_pkgLock (s : State) (k : Nat) (a : Arc) : (s.setArc k a).pkgLock = s.pkgLock := rfl
@[simp] theorem State.setArc_strapPkg (s : State) (k : Nat) (a : Arc) : (s.setArc k a).strapPkg = s.strapPkg := rfl
@[simp] theorem State.setArc_bootFail (s : State) (k : Nat) (a : Arc) : (s.setArc k a).bootFail = s.bootFail := rfl
@[simp] theorem State.setArc_hostOut (s : State) (k : Nat) (a : Arc) : (s.setArc k a).hostOut = s.hostOut := rfl
@[simp] theorem State.setArc_rinc (s : State) (k : Nat) (a : Arc) : (s.setArc k a).rinc = s.rinc := rfl
@[simp] theorem State.setArc_oinc (s : State) (k : Nat) (a : Arc) : (s.setArc k a).oinc = s.oinc := rfl
@[simp] theorem State.setArc_sboot (s : State) (k : Nat) (a : Arc) : (s.setArc k a).sboot = s.sboot := rfl
@[simp] theorem State.setArc_strap (s : State) (k : Nat) (a : Arc) : (s.setArc k a).strap = s.strap := rfl
@[simp] theorem State.setArc_hostPorts (s : State) (k : Nat) (a : Arc) : (s.setArc k a).hostPorts = s.hostPorts := rfl
@[simp] theorem State.setArc_plimit (s : State) (k : Nat) (a : Arc) : (s.setArc k a).plimit = s.plimit := rfl
@[simp] theorem State.setArc_throttled (s : State) (k : Nat) (a : Arc) : (s.setArc k a).throttled = s.throttled := rfl
@[simp] theorem State.setArc_power (s : State) (k : Nat) (a : Arc) : (s.setArc k a).power = s.power := rfl
@[simp] theorem State.setArc_scrubActive (s : State) (k : Nat) (a : Arc) : (s.setArc k a).scrubActive = s.scrubActive := rfl
@[simp] theorem State.setArc_scrubPasses (s : State) (k : Nat) (a : Arc) : (s.setArc k a).scrubPasses = s.scrubPasses := rfl
@[simp] theorem State.setArc_scrubPeriod (s : State) (k : Nat) (a : Arc) : (s.setArc k a).scrubPeriod = s.scrubPeriod := rfl
@[simp] theorem State.setArc_patrol (s : State) (k : Nat) (a : Arc) : (s.setArc k a).patrol = s.patrol := rfl
@[simp] theorem State.setArc_rops (s : State) (k : Nat) (a : Arc) : (s.setArc k a).rops = s.rops := rfl
@[simp] theorem State.setArc_nextOp (s : State) (k : Nat) (a : Arc) : (s.setArc k a).nextOp = s.nextOp := rfl
@[simp] theorem State.setArc_chans (s : State) (k : Nat) (a : Arc) : (s.setArc k a).chans = s.chans := rfl
@[simp] theorem State.setArc_oincs (s : State) (k : Nat) (a : Arc) : (s.setArc k a).oincs = s.oincs := rfl
@[simp] theorem State.setArc_owner (s : State) (k : Nat) (a : Arc) : (s.setArc k a).owner = s.owner := rfl
@[simp] theorem State.setArc_routes (s : State) (k : Nat) (a : Arc) : (s.setArc k a).routes = s.routes := rfl
@[simp] theorem State.setArc_ports (s : State) (k : Nat) (a : Arc) : (s.setArc k a).ports = s.ports := rfl
@[simp] theorem State.setArc_outbox (s : State) (k : Nat) (a : Arc) : (s.setArc k a).outbox = s.outbox := rfl
@[simp] theorem State.setArc_lseq (s : State) (k : Nat) (a : Arc) : (s.setArc k a).lseq = s.lseq := rfl
@[simp] theorem State.setArc_chainPort (s : State) (k : Nat) (a : Arc) : (s.setArc k a).chainPort = s.chainPort := rfl
@[simp] theorem State.setArc_inbox (s : State) (k : Nat) (a : Arc) : (s.setArc k a).inbox = s.inbox := rfl
@[simp] theorem State.setArc_cmds (s : State) (k : Nat) (a : Arc) : (s.setArc k a).cmds = s.cmds := rfl
@[simp] theorem State.setArc_nextCmd (s : State) (k : Nat) (a : Arc) : (s.setArc k a).nextCmd = s.nextCmd := rfl
@[simp] theorem State.setArc_queues (s : State) (k : Nat) (a : Arc) : (s.setArc k a).queues = s.queues := rfl
@[simp] theorem State.setArc_pages (s : State) (k : Nat) (a : Arc) : (s.setArc k a).pages = s.pages := rfl
@[simp] theorem State.setArc_net (s : State) (k : Nat) (a : Arc) : (s.setArc k a).net = s.net := rfl
@[simp] theorem State.setArc_saved (s : State) (k : Nat) (a : Arc) : (s.setArc k a).saved = s.saved := rfl
@[simp] theorem State.setArc_ochre (s : State) (k : Nat) (a : Arc) : (s.setArc k a).ochre = s.ochre := rfl
@[simp] theorem State.setArc_scmd (s : State) (k : Nat) (a : Arc) : (s.setArc k a).scmd = s.scmd := rfl
@[simp] theorem State.setArc_sstat (s : State) (k : Nat) (a : Arc) : (s.setArc k a).sstat = s.sstat := rfl
@[simp] theorem State.setArc_rcbptr (s : State) (k : Nat) (a : Arc) : (s.setArc k a).rcbptr = s.rcbptr := rfl
@[simp] theorem State.setArc_faultq (s : State) (k : Nat) (a : Arc) : (s.setArc k a).faultq = s.faultq := rfl
@[simp] theorem State.setArc_rcbs (s : State) (k : Nat) (a : Arc) : (s.setArc k a).rcbs = s.rcbs := rfl
@[simp] theorem State.setArc_leaves (s : State) (k : Nat) (a : Arc) : (s.setArc k a).leaves = s.leaves := rfl
@[simp] theorem State.setArc_nextLid (s : State) (k : Nat) (a : Arc) : (s.setArc k a).nextLid = s.nextLid := rfl
@[simp] theorem State.setArc_launches (s : State) (k : Nat) (a : Arc) : (s.setArc k a).launches = s.launches := rfl
@[simp] theorem State.setArc_groups (s : State) (k : Nat) (a : Arc) : (s.setArc k a).groups = s.groups := rfl
@[simp] theorem State.setArc_conts (s : State) (k : Nat) (a : Arc) : (s.setArc k a).conts = s.conts := rfl
@[simp] theorem State.setArc_runqs (s : State) (k : Nat) (a : Arc) : (s.setArc k a).runqs = s.runqs := rfl
@[simp] theorem State.setArc_sems (s : State) (k : Nat) (a : Arc) : (s.setArc k a).sems = s.sems := rfl
@[simp] theorem State.setArc_bars (s : State) (k : Nat) (a : Arc) : (s.setArc k a).bars = s.bars := rfl
@[simp] theorem State.setArc_bank (s : State) (k : Nat) (a : Arc) (z : Nat) : (s.setArc k a).bank z = s.bank z := rfl
@[simp] theorem State.setArc_byte (s : State) (k : Nat) (a : Arc) (y : Nat) : (s.setArc k a).byte y = s.byte y := rfl
@[simp] theorem State.setArc_cont (s : State) (k : Nat) (a : Arc) (j : Nat) : (s.setArc k a).cont j = s.cont j := rfl
@[simp] theorem State.setArc_group (s : State) (k : Nat) (a : Arc) (j : Nat) : (s.setArc k a).group j = s.group j := rfl
@[simp] theorem State.setArc_launch (s : State) (k : Nat) (a : Arc) (j : Nat) : (s.setArc k a).launch j = s.launch j := rfl
@[simp] theorem State.setArc_sem (s : State) (k : Nat) (a : Arc) (j : Nat) : (s.setArc k a).sem j = s.sem j := rfl
@[simp] theorem State.setArc_chan (s : State) (k : Nat) (a : Arc) (j : Nat) : (s.setArc k a).chan j = s.chan j := rfl
@[simp] theorem State.setArc_rop (s : State) (k : Nat) (a : Arc) (j : Nat) : (s.setArc k a).rop j = s.rop j := rfl
@[simp] theorem State.setArc_queue (s : State) (k : Nat) (a : Arc) (j : Nat) : (s.setArc k a).queue j = s.queue j := rfl
@[simp] theorem State.setArc_cmd (s : State) (k : Nat) (a : Arc) (j : Nat) : (s.setArc k a).cmd j = s.cmd j := rfl
@[simp] theorem State.setArc_page (s : State) (k : Nat) (a : Arc) (j : Nat) : (s.setArc k a).page j = s.page j := rfl
@[simp] theorem State.setArc_arc (s : State) (k : Nat) (a : Arc) (j : Nat) : (s.setArc k a).arc j = if j = k then some a else s.arc j := Tab.get_set none s.arcs k j (some a)

end Sys2Proof.Machine
end

