-- ==== Sys2Proof/Laws/Memory.lean ====
section
/-! SUPPORT. Every operation that writes memory keeps its canonical form, and what the bytes read as after a write. -/
namespace Sys2Proof.Machine

/-! ### Memory as a list of cells -/

theorem memWf_memSet (m : List Host.Cell) (k : Nat) (b : Byte) (h : memWf m = true) : memWf (memSet m k b) = true :=
  Tab.wf_set _ m k b h

theorem memWf_memPut (m : List Host.Cell) (k n v : Nat) (h : memWf m = true) : memWf (memPut m k n v) = true := by
  induction n generalizing m k v with
  | zero => exact h
  | succ n ih => exact ih _ _ _ (memWf_memSet m k _ h)

theorem memWf_filter (p : Host.Cell → Bool) (m : List Host.Cell) (h : memWf m = true) : memWf (m.filter p) = true :=
  Tab.wf_filter _ p m h

theorem memWf_foldN (n : Nat) (k : Nat → Nat) (f : Nat → Byte) (m : List Host.Cell) (h : memWf m = true) :
    memWf (foldN n (fun i m => memSet m (k i) (f i)) m) = true := by
  induction n with
  | zero => exact h
  | succ n ih => exact memWf_memSet _ _ _ ih

/-- Memory after a write of `n` bytes from `k` on: those bytes are the bytes of `v`, lowest first, and every other byte reads as before. -/
theorem memPut_get (m : List Host.Cell) (k n v a : Nat) :
    Tab.get (0 : Byte) (memPut m k n v) a =
      if k ≤ a ∧ a < k + n then BitVec.ofNat 8 (v / 256 ^ (a - k)) else Tab.get 0 m a := by
  induction n generalizing m k v with
  | zero => simp only [memPut]; rw [if_neg (by omega)]
  | succ n ih =>
    rw [memPut, ih, memSet, Tab.get_set]
    by_cases hk : a = k
    · subst hk; rw [if_neg (by omega)]; simp
    · by_cases h : k + 1 ≤ a ∧ a < k + 1 + n
      · rw [if_pos h, if_pos (by omega), show a - k = (a - (k + 1)) + 1 by omega, Nat.pow_succ', Nat.div_div_eq_div_mul]
      · rw [if_neg h, if_neg hk, if_neg (by omega)]

/-- A read of `n` bytes sees only those bytes. -/
theorem memGet_congr (m m' : List Host.Cell) (k n : Nat)
    (h : ∀ a, k ≤ a → a < k + n → Tab.get (0 : Byte) m a = Tab.get 0 m' a) : memGet m k n = memGet m' k n := by
  induction n generalizing k with
  | zero => rfl
  | succ n ih =>
    rw [memGet, memGet, h k (by omega) (by omega), ih (k + 1) fun a h1 h2 => h a (by omega) (by omega)]

/-- A read of `n` bytes is below 256^n. -/
theorem memGet_lt (m : List Host.Cell) (k n : Nat) : memGet m k n < 256 ^ n := by
  induction n generalizing k with
  | zero => simp [memGet]
  | succ n ih =>
    have := ih (k + 1)
    have := (Tab.get (0 : Byte) m k).isLt
    rw [memGet, Nat.pow_succ']
    omega

/-- A read of the bytes just written gives the value written. -/
theorem memGet_memPut (m : List Host.Cell) (k n v : Nat) : memGet (memPut m k n v) k n = v % 256 ^ n := by
  induction n generalizing m k v with
  | zero => simp [memGet, Nat.mod_one]
  | succ n ih =>
    have h0 : Tab.get (0 : Byte) (memPut m k (n + 1) v) k = BitVec.ofNat 8 v := by rw [memPut_get]; simp
    rw [memGet, h0, memPut, ih, Nat.pow_succ', Nat.mod_mul]
    simp

/-- A read that does not overlap a write gives what it gave before. -/
theorem memGet_memPut_disjoint (m : List Host.Cell) (k n v a j : Nat) (h : a + j ≤ k ∨ k + n ≤ a) :
    memGet (memPut m k n v) a j = memGet m a j :=
  memGet_congr _ _ _ _ fun x h1 h2 => by rw [memPut_get, if_neg (by omega)]

/-! ### The operations of the machine -/

@[simp] theorem State.mem_makeDirty (s : State) (l : Nat) : (s.makeDirty l).mem = s.mem := by
  unfold State.makeDirty; split <;> rfl

@[simp] theorem State.mem_found (s : State) (l : Nat) : (s.found l).mem = s.mem := rfl
@[simp] theorem State.mem_recache (s : State) (c : Caches) : (s.recache c).mem = s.mem := rfl

/-- What a write of one line's bytes leaves in memory. -/
@[simp] theorem State.mem_rawWrite (s : State) (k n v : Nat) (t : Option KeyTag) (y : By) :
    (s.rawWrite k n v t y).mem = memPut s.mem k n v := by
  simp only [State.rawWrite, State.mem_recache, State.mem_makeDirty]; split <;> rfl

theorem State.byte_rawWrite (s : State) (k n v a : Nat) (t : Option KeyTag) (y : By) :
    (s.rawWrite k n v t y).byte a = if k ≤ a ∧ a < k + n then BitVec.ofNat 8 (v / 256 ^ (a - k)) else s.byte a := by
  simp only [State.byte, State.mem_rawWrite, memPut_get]

theorem State.num_rawWrite (s : State) (k n v : Nat) (t : Option KeyTag) (y : By) :
    (s.rawWrite k n v t y).num k n = v % 256 ^ n := by
  simp only [State.num, State.mem_rawWrite, memGet_memPut]

theorem memWf_rawWrite (s : State) (k n v : Nat) (t : Option KeyTag) (h : memWf s.mem = true) (y : By := .home) :
    memWf (s.rawWrite k n v t y).mem = true := by
  rw [State.mem_rawWrite]; exact memWf_memPut _ _ _ _ h

theorem memWf_hostFill (s : State) (l : Nat) (h : memWf s.mem = true) : memWf (s.hostFill l).mem = true := by
  unfold State.hostFill; split
  · exact memWf_foldN _ _ _ _ h
  · exact h

theorem State.mem_markPoison (s : State) (k n : Nat) (p : Nat → Bool) : (s.markPoison k n p).mem = s.mem := by
  unfold State.markPoison; split <;> rfl

theorem State.mem_fail (s : State) (a kind : Nat) : (s.fail a kind).mem = s.mem := by
  unfold State.fail; split <;> rfl

theorem State.mem_writeBack (s : State) (l : Nat) : (s.writeBack l).mem = s.mem := by
  unfold State.writeBack; simp only; split <;> rfl

theorem memWf_restoreLine (s : State) (l : Nat) (h : memWf s.mem = true) : memWf (s.restoreLine l).mem = true := by
  unfold State.restoreLine; split
  · exact memWf_memPut _ _ _ _ h
  · exact h

theorem memWf_placeWord (s : State) (r va v : Nat) (h : memWf s.mem = true) : memWf (s.placeWord r va v).mem = true := by
  unfold State.placeWord; split
  · exact h
  · exact memWf_rawWrite _ _ _ _ _ (memWf_memPut _ _ _ _ h)

/-! ### Waking and semaphores -/

@[simp] theorem State.mem_bump (s : State) (c i e n : Nat) : (s.bump c i e n).mem = s.mem := rfl
@[simp] theorem State.mem_regStatus (s : State) (i b : Nat) : (s.regStatus i b).mem = s.mem := rfl
@[simp] theorem State.mem_setBins (s : State) (i : Nat) (l : List Bin) : (s.setBins i l).mem = s.mem := rfl

@[simp] theorem State.mem_preKeep (s : State) (r : Nat) (p : PreRead → Bool) : (s.preKeep r p).mem = s.mem := rfl
@[simp] theorem State.mem_preBarw (s : State) (r k n : Nat) : (s.preBarw r k n).mem = s.mem := rfl
@[simp] theorem State.mem_preAcquire (s : State) (r scope : Nat) : (s.preAcquire r scope).mem = s.mem := by
  unfold State.preAcquire; split <;> rfl

@[simp] theorem State.mem_place (s : State) (c : Nat) : (s.place c).mem = s.mem := by
  unfold State.place; split <;> rfl

@[simp] theorem State.mem_wake (s : State) (w : Who) : (s.wake w).mem = s.mem := by
  cases w with
  | cont c => simp [State.wake]
  | svc n => simp [State.wake, State.svcResume]

@[simp] theorem State.mem_wakeAll (s : State) (l : List Who) : (s.wakeAll l).mem = s.mem := by
  unfold State.wakeAll
  induction l generalizing s with
  | nil => rfl
  | cons w l ih => rw [List.foldl_cons, ih, State.mem_wake]

theorem State.mem_foldl {α : Type} (f : State → α → State) (l : List α) (s : State) (hf : ∀ s a, (f s a).mem = s.mem) :
    (l.foldl f s).mem = s.mem := by
  induction l generalizing s with
  | nil => rfl
  | cons a l ih => rw [List.foldl_cons, ih, hf]

@[simp] theorem State.mem_wakeMet (s : State) (n : Nat) : (s.wakeMet n).mem = s.mem := by
  simp only [State.wakeMet, State.mem_wakeAll]
  rw [State.mem_foldl _ _ _ fun s w => by simp]
  rfl

@[simp] theorem State.mem_semSignal (s : State) (n v : Nat) : (s.semSignal n v).mem = s.mem := by
  rw [State.semSignal, State.mem_wakeMet]; rfl

@[simp] theorem State.mem_semValue (s : State) (n v : Nat) : (s.semValue n v).mem = s.mem := by
  rw [State.semValue, State.mem_wakeMet]; rfl

/-! ### Update regions -/

theorem memWf_applyKey (s : State) (i slice pa : Nat) (ps : List Partial) (h : memWf s.mem = true) :
    memWf (s.applyKey i slice pa ps).mem = true := by
  unfold State.applyKey
  simp only
  split
  · exact h
  · split
    · simp only [State.mem_recache, State.mem_makeDirty]; exact h
    · rw [State.mem_regStatus]; exact memWf_rawWrite _ _ _ _ _ h

theorem memWf_foldl {α : Type} (f : State → α → State) (l : List α) (s : State)
    (hf : ∀ s a, memWf s.mem = true → memWf (f s a).mem = true) (h : memWf s.mem = true) : memWf (l.foldl f s).mem = true := by
  induction l generalizing s with
  | nil => exact h
  | cons a l ih => exact ih _ (hf s a h)

theorem memWf_applyKeys (s : State) (i slice : Nat) (ps : List Partial) (h : memWf s.mem = true) :
    memWf (s.applyKeys i slice ps).mem = true :=
  memWf_foldl _ _ _ (fun s _ h => memWf_applyKey s _ _ _ _ h) h

theorem memWf_applyBlock (s : State) (block : Nat) (h : memWf s.mem = true) : memWf (s.applyBlock block).mem = true := by
  unfold State.applyBlock
  split
  · exact h
  · simp only
    split
    · exact h
    · rw [State.mem_bump]; exact memWf_applyKeys _ _ _ _ h

theorem memWf_applyAt (s : State) (a n : Nat) (h : memWf s.mem = true) : memWf (s.applyAt a n).mem = true := by
  unfold State.applyAt
  simp only
  split
  · split
    · exact memWf_applyBlock _ _ h
    · exact memWf_applyBlock _ _ (memWf_applyBlock _ _ h)
  · exact h

theorem memWf_applyRegion (s : State) (i : Nat) (h : memWf s.mem = true) : memWf (s.applyRegion i).mem = true := by
  unfold State.applyRegion
  simp only
  exact memWf_foldl State.applyBlock (s.pendingBlocks i) s (fun s b h => memWf_applyBlock s b h) h

theorem memWf_sysRead (s : State) (a n f : Nat) (h : memWf s.mem = true) : memWf (s.sysRead a n f).mem = true := by
  induction f generalizing s a n with
  | zero => exact h
  | succ f ih =>
    unfold State.sysRead
    split
    · exact h
    · exact ih _ _ _ (memWf_applyAt s _ _ h)

theorem memWf_sysWrite (s : State) (a n v f : Nat) (h : memWf s.mem = true) (y : By := .home) :
    memWf (s.sysWrite a n v f y).mem = true := by
  induction f generalizing s a n v with
  | zero => exact h
  | succ f ih =>
    unfold State.sysWrite
    split
    · exact h
    · exact ih _ _ _ _ (memWf_rawWrite _ _ _ _ _ (memWf_applyAt _ _ _ h) _)

/-! ### Fault records -/

theorem memWf_appendRecord (s : State) (d : Nat) (r : FaultRec) (h : memWf s.mem = true) : memWf (s.appendRecord d r).mem = true := by
  unfold State.appendRecord
  simp only
  split
  · exact h
  · have h1 := memWf_sysRead s (paLocal (d / 64 * 64)) 40 1 h
    split
    · exact h1
    · split
      · split
        · split
          · rw [State.mem_semSignal]; exact memWf_sysWrite _ _ _ _ _ (memWf_sysWrite _ _ _ _ _ h1)
          · exact memWf_sysWrite _ _ _ _ _ (memWf_sysWrite _ _ _ _ _ h1)
        · exact h1
      · exact memWf_sysWrite _ _ _ _ _ h1

theorem memWf_faultqRecord (s : State) (r : FaultRec) (h : memWf s.mem = true) : memWf (s.faultqRecord r).mem = true := by
  unfold State.faultqRecord
  split
  · exact memWf_appendRecord _ _ _ h
  · exact h

theorem memWf_domainRecord (s : State) (gid : Nat) (r : FaultRec) (h : memWf s.mem = true) :
    memWf (s.domainRecord gid r).mem = true := by
  unfold State.domainRecord
  simp only
  split
  · exact memWf_faultqRecord _ _ h
  · exact memWf_appendRecord _ _ _ h

theorem memWf_spillRecords (s : State) (i slice : Nat) (l : List Partial) (h : memWf s.mem = true) :
    memWf (s.spillRecords i slice l).1.mem = true := by
  induction l generalizing s with
  | nil => exact h
  | cons p l ih =>
    unfold State.spillRecords
    simp only
    split
    · apply ih
      rw [State.mem_bump]
      exact memWf_sysWrite _ _ _ _ _ h
    · exact h

theorem memWf_spillBin (s : State) (slice : Nat) (b : Bin) (h : memWf s.mem = true) : memWf (s.spillBin slice b).mem = true := by
  unfold State.spillBin
  simp only
  split
  · exact h
  · split
    · rw [State.mem_regStatus]; exact memWf_spillRecords _ _ _ _ h
    · rw [State.mem_regStatus, State.mem_bump]
      apply memWf_applyKeys
      rw [State.mem_regStatus]
      exact memWf_spillRecords _ _ _ _ h

/-! ### Reads and writes at a local address -/

theorem State.mem_devRead (s : State) (g : DevReg) : (s.devRead g).2.mem = s.mem := by cases g <;> rfl

theorem State.mem_devWrite (s : State) (g : DevReg) (v m : Nat) : (s.devWrite g v m).mem = s.mem := by
  cases g <;> simp only [State.devWrite]
  case bankCtl => unfold State.bankWrite; simp only; repeat' split
                  all_goals rfl
  case signal => split <;> simp
  case value => split <;> simp
  case range => split <;> rfl
  case scmd => unfold State.scmdWrite; split <;> rfl
  case pkgid => unfold State.pkgidWrite; split <;> rfl
  all_goals rfl

theorem memWf_readAt (s : State) (c pa n : Nat) (core cnt : Option Nat) (h : memWf s.mem = true) :
    memWf (s.readAt c pa n core cnt).2.2.mem = true := by
  unfold State.readAt
  generalize paLocal pa = a
  by_cases hd : isDevice a = true
  · rw [if_pos hd]
    cases devReg a with
    | none => exact h
    | some g =>
      have e : memWf (s.devRead g).2.mem = true := by rw [State.mem_devRead]; exact h
      exact e
  · rw [if_neg hd]; exact memWf_applyAt _ _ _ (memWf_hostFill _ _ h)

theorem memWf_writeAt (s : State) (c pa n v key : Nat) (y : By) (h : memWf s.mem = true) (ver : Option Nat := none) :
    memWf (s.writeAt c pa n v key y ver).mem = true := by
  unfold State.writeAt
  simp only
  split
  · split
    · rw [State.mem_devWrite]; exact h
    · exact h
  · rw [State.mem_rawWrite]; exact memWf_memPut _ _ _ _ (memWf_applyAt _ _ _ (memWf_hostFill _ _ h))

theorem memWf_hostWrite (s : State) (d v be : Nat) (h : memWf s.mem = true) : memWf (s.hostWrite d v be).mem = true := by
  unfold State.hostWrite
  have e (x : State) : (if be = 2 ^ 64 - 1 then x else x.found (d / 64)).mem = x.mem := by split <;> rfl
  simp only [State.mem_recache, State.mem_makeDirty, e]
  exact memWf_memPut _ _ _ _ (memWf_applyAt _ _ _ h)

/-- Memory is in canonical form at reset. -/
theorem memWf_reset : memWf State.reset.mem = true := by decide +kernel

end Sys2Proof.Machine
end

