-- ==== Sys2Proof/Laws/PerInstr.lean ====
section
/-! SUPPORT. Statements made for every instruction, one lemma for each constructor of Instr. -/
namespace Sys2Proof.Laws.Encodes

/-- An instruction has words, with a literal exactly when it is an X form; an event has none (03_encoding R60, R74). -/
def Statement (i : Instr) : Prop :=
  match encode i with
  | none => i.isEvent = true
  | some (w, l) => i.isEvent = false ∧ needsLit w = l.isSome

theorem add (d : BitVec 5) (a : BitVec 5) (b : BitVec 5) : Statement (.add d a b) := ⟨rfl, needsLit_encR .. |>.trans rfl⟩
theorem sub (d : BitVec 5) (a : BitVec 5) (b : BitVec 5) : Statement (.sub d a b) := ⟨rfl, needsLit_encR .. |>.trans rfl⟩
theorem mul (d : BitVec 5) (a : BitVec 5) (b : BitVec 5) : Statement (.mul d a b) := ⟨rfl, needsLit_encR .. |>.trans rfl⟩
theorem mulh (d : BitVec 5) (a : BitVec 5) (b : BitVec 5) : Statement (.mulh d a b) := ⟨rfl, needsLit_encR .. |>.trans rfl⟩
theorem mulhu (d : BitVec 5) (a : BitVec 5) (b : BitVec 5) : Statement (.mulhu d a b) := ⟨rfl, needsLit_encR .. |>.trans rfl⟩
theorem div (d : BitVec 5) (a : BitVec 5) (b : BitVec 5) : Statement (.div d a b) := ⟨rfl, needsLit_encR .. |>.trans rfl⟩
theorem divu (d : BitVec 5) (a : BitVec 5) (b : BitVec 5) : Statement (.divu d a b) := ⟨rfl, needsLit_encR .. |>.trans rfl⟩
theorem rem (d : BitVec 5) (a : BitVec 5) (b : BitVec 5) : Statement (.rem d a b) := ⟨rfl, needsLit_encR .. |>.trans rfl⟩
theorem remu (d : BitVec 5) (a : BitVec 5) (b : BitVec 5) : Statement (.remu d a b) := ⟨rfl, needsLit_encR .. |>.trans rfl⟩
theorem and (d : BitVec 5) (a : BitVec 5) (b : BitVec 5) : Statement (.and d a b) := ⟨rfl, needsLit_encR .. |>.trans rfl⟩
theorem or (d : BitVec 5) (a : BitVec 5) (b : BitVec 5) : Statement (.or d a b) := ⟨rfl, needsLit_encR .. |>.trans rfl⟩
theorem xor (d : BitVec 5) (a : BitVec 5) (b : BitVec 5) : Statement (.xor d a b) := ⟨rfl, needsLit_encR .. |>.trans rfl⟩
theorem andn (d : BitVec 5) (a : BitVec 5) (b : BitVec 5) : Statement (.andn d a b) := ⟨rfl, needsLit_encR .. |>.trans rfl⟩
theorem orn (d : BitVec 5) (a : BitVec 5) (b : BitVec 5) : Statement (.orn d a b) := ⟨rfl, needsLit_encR .. |>.trans rfl⟩
theorem shl (d : BitVec 5) (a : BitVec 5) (b : BitVec 5) : Statement (.shl d a b) := ⟨rfl, needsLit_encR .. |>.trans rfl⟩
theorem shr (d : BitVec 5) (a : BitVec 5) (b : BitVec 5) : Statement (.shr d a b) := ⟨rfl, needsLit_encR .. |>.trans rfl⟩
theorem sra (d : BitVec 5) (a : BitVec 5) (b : BitVec 5) : Statement (.sra d a b) := ⟨rfl, needsLit_encR .. |>.trans rfl⟩
theorem ror (d : BitVec 5) (a : BitVec 5) (b : BitVec 5) : Statement (.ror d a b) := ⟨rfl, needsLit_encR .. |>.trans rfl⟩
theorem min (d : BitVec 5) (a : BitVec 5) (b : BitVec 5) : Statement (.min d a b) := ⟨rfl, needsLit_encR .. |>.trans rfl⟩
theorem max (d : BitVec 5) (a : BitVec 5) (b : BitVec 5) : Statement (.max d a b) := ⟨rfl, needsLit_encR .. |>.trans rfl⟩
theorem minu (d : BitVec 5) (a : BitVec 5) (b : BitVec 5) : Statement (.minu d a b) := ⟨rfl, needsLit_encR .. |>.trans rfl⟩
theorem maxu (d : BitVec 5) (a : BitVec 5) (b : BitVec 5) : Statement (.maxu d a b) := ⟨rfl, needsLit_encR .. |>.trans rfl⟩
theorem slt (d : BitVec 5) (a : BitVec 5) (b : BitVec 5) : Statement (.slt d a b) := ⟨rfl, needsLit_encR .. |>.trans rfl⟩
theorem sltu (d : BitVec 5) (a : BitVec 5) (b : BitVec 5) : Statement (.sltu d a b) := ⟨rfl, needsLit_encR .. |>.trans rfl⟩
theorem seq (d : BitVec 5) (a : BitVec 5) (b : BitVec 5) : Statement (.seq d a b) := ⟨rfl, needsLit_encR .. |>.trans rfl⟩
theorem sne (d : BitVec 5) (a : BitVec 5) (b : BitVec 5) : Statement (.sne d a b) := ⟨rfl, needsLit_encR .. |>.trans rfl⟩
theorem sel (d : BitVec 5) (a : BitVec 5) (b : BitVec 5) : Statement (.sel d a b) := ⟨rfl, needsLit_encR .. |>.trans rfl⟩
theorem clz (d : BitVec 5) (a : BitVec 5) (w : BitVec 3) : Statement (.clz d a w) := ⟨rfl, needsLit_encR .. |>.trans rfl⟩
theorem ctz (d : BitVec 5) (a : BitVec 5) (w : BitVec 3) : Statement (.ctz d a w) := ⟨rfl, needsLit_encR .. |>.trans rfl⟩
theorem popc (d : BitVec 5) (a : BitVec 5) (w : BitVec 3) : Statement (.popc d a w) := ⟨rfl, needsLit_encR .. |>.trans rfl⟩
theorem brev (d : BitVec 5) (a : BitVec 5) (w : BitVec 3) : Statement (.brev d a w) := ⟨rfl, needsLit_encR .. |>.trans rfl⟩
theorem bswap (d : BitVec 5) (a : BitVec 5) (w : BitVec 3) : Statement (.bswap d a w) := ⟨rfl, needsLit_encR .. |>.trans rfl⟩
theorem addw (d : BitVec 5) (a : BitVec 5) (b : BitVec 5) : Statement (.addw d a b) := ⟨rfl, needsLit_encR .. |>.trans rfl⟩
theorem subw (d : BitVec 5) (a : BitVec 5) (b : BitVec 5) : Statement (.subw d a b) := ⟨rfl, needsLit_encR .. |>.trans rfl⟩
theorem mulw (d : BitVec 5) (a : BitVec 5) (b : BitVec 5) : Statement (.mulw d a b) := ⟨rfl, needsLit_encR .. |>.trans rfl⟩
theorem lea (d : BitVec 5) (a : BitVec 5) (b : BitVec 5) (h : BitVec 3) : Statement (.lea d a b h) := ⟨rfl, needsLit_encR .. |>.trans rfl⟩
theorem clamp (d : BitVec 5) (a : BitVec 5) (b : BitVec 5) : Statement (.clamp d a b) := ⟨rfl, needsLit_encR .. |>.trans rfl⟩
theorem idx2 (d : BitVec 5) (a : BitVec 5) (b : BitVec 5) : Statement (.idx2 d a b) := ⟨rfl, needsLit_encR .. |>.trans rfl⟩
theorem addi (d : BitVec 5) (a : BitVec 5) (i : BitVec 16) : Statement (.addi d a i) := ⟨rfl, needsLit_encI .. |>.trans rfl⟩
theorem andi (d : BitVec 5) (a : BitVec 5) (i : BitVec 16) : Statement (.andi d a i) := ⟨rfl, needsLit_encI .. |>.trans rfl⟩
theorem ori (d : BitVec 5) (a : BitVec 5) (i : BitVec 16) : Statement (.ori d a i) := ⟨rfl, needsLit_encI .. |>.trans rfl⟩
theorem xori (d : BitVec 5) (a : BitVec 5) (i : BitVec 16) : Statement (.xori d a i) := ⟨rfl, needsLit_encI .. |>.trans rfl⟩
theorem slti (d : BitVec 5) (a : BitVec 5) (i : BitVec 16) : Statement (.slti d a i) := ⟨rfl, needsLit_encI .. |>.trans rfl⟩
theorem sltiu (d : BitVec 5) (a : BitVec 5) (i : BitVec 16) : Statement (.sltiu d a i) := ⟨rfl, needsLit_encI .. |>.trans rfl⟩
theorem shli (d : BitVec 5) (a : BitVec 5) (n : BitVec 8) : Statement (.shli d a n) := ⟨rfl, needsLit_encI .. |>.trans rfl⟩
theorem shri (d : BitVec 5) (a : BitVec 5) (n : BitVec 8) : Statement (.shri d a n) := ⟨rfl, needsLit_encI .. |>.trans rfl⟩
theorem srai (d : BitVec 5) (a : BitVec 5) (n : BitVec 8) : Statement (.srai d a n) := ⟨rfl, needsLit_encI .. |>.trans rfl⟩
theorem li (d : BitVec 5) (i : BitVec 16) : Statement (.li d i) := ⟨rfl, needsLit_encI .. |>.trans rfl⟩
theorem lui (d : BitVec 5) (i : BitVec 16) : Statement (.lui d i) := ⟨rfl, needsLit_encI .. |>.trans rfl⟩
theorem movk (d : BitVec 5) (h : BitVec 2) (i : BitVec 16) : Statement (.movk d h i) := ⟨rfl, needsLit_encI .. |>.trans rfl⟩
theorem movkW (d : BitVec 5) (h : BitVec 1) (lit : BitVec 32) : Statement (.movkW d h lit) := ⟨rfl, needsLit_encX2 .. |>.trans rfl⟩
theorem ext (d : BitVec 5) (a : BitVec 5) (l : BitVec 6) (p : BitVec 6) : Statement (.ext d a l p) := ⟨rfl, needsLit_encI .. |>.trans rfl⟩
theorem extS (d : BitVec 5) (a : BitVec 5) (l : BitVec 6) (p : BitVec 6) : Statement (.extS d a l p) := ⟨rfl, needsLit_encI .. |>.trans rfl⟩
theorem ins (d : BitVec 5) (a : BitVec 5) (l : BitVec 6) (p : BitVec 6) : Statement (.ins d a l p) := ⟨rfl, needsLit_encI .. |>.trans rfl⟩
theorem vadd (d : BitVec 4) (a : BitVec 4) (b : BitVec 4) (k : BitVec 3) (e : BitVec 3) : Statement (.vadd d a b k e) := ⟨rfl, needsLit_encV .. |>.trans rfl⟩
theorem vsub (d : BitVec 4) (a : BitVec 4) (b : BitVec 4) (k : BitVec 3) (e : BitVec 3) : Statement (.vsub d a b k e) := ⟨rfl, needsLit_encV .. |>.trans rfl⟩
theorem vmul (d : BitVec 4) (a : BitVec 4) (b : BitVec 4) (k : BitVec 3) (e : BitVec 3) : Statement (.vmul d a b k e) := ⟨rfl, needsLit_encV .. |>.trans rfl⟩
theorem vmulh (d : BitVec 4) (a : BitVec 4) (b : BitVec 4) (k : BitVec 3) (e : BitVec 3) : Statement (.vmulh d a b k e) := ⟨rfl, needsLit_encV .. |>.trans rfl⟩
theorem vmin (d : BitVec 4) (a : BitVec 4) (b : BitVec 4) (k : BitVec 3) (e : BitVec 3) : Statement (.vmin d a b k e) := ⟨rfl, needsLit_encV .. |>.trans rfl⟩
theorem vmax (d : BitVec 4) (a : BitVec 4) (b : BitVec 4) (k : BitVec 3) (e : BitVec 3) : Statement (.vmax d a b k e) := ⟨rfl, needsLit_encV .. |>.trans rfl⟩
theorem vand (d : BitVec 4) (a : BitVec 4) (b : BitVec 4) (k : BitVec 3) (e : BitVec 3) : Statement (.vand d a b k e) := ⟨rfl, needsLit_encV .. |>.trans rfl⟩
theorem vor (d : BitVec 4) (a : BitVec 4) (b : BitVec 4) (k : BitVec 3) (e : BitVec 3) : Statement (.vor d a b k e) := ⟨rfl, needsLit_encV .. |>.trans rfl⟩
theorem vxor (d : BitVec 4) (a : BitVec 4) (b : BitVec 4) (k : BitVec 3) (e : BitVec 3) : Statement (.vxor d a b k e) := ⟨rfl, needsLit_encV .. |>.trans rfl⟩
theorem vshl (d : BitVec 4) (a : BitVec 4) (b : BitVec 4) (k : BitVec 3) (e : BitVec 3) : Statement (.vshl d a b k e) := ⟨rfl, needsLit_encV .. |>.trans rfl⟩
theorem vshr (d : BitVec 4) (a : BitVec 4) (b : BitVec 4) (k : BitVec 3) (e : BitVec 3) : Statement (.vshr d a b k e) := ⟨rfl, needsLit_encV .. |>.trans rfl⟩
theorem vsra (d : BitVec 4) (a : BitVec 4) (b : BitVec 4) (k : BitVec 3) (e : BitVec 3) : Statement (.vsra d a b k e) := ⟨rfl, needsLit_encV .. |>.trans rfl⟩
theorem vcmpEq (d : BitVec 3) (a : BitVec 4) (b : BitVec 4) (k : BitVec 3) (e : BitVec 3) : Statement (.vcmpEq d a b k e) := ⟨rfl, needsLit_encV .. |>.trans rfl⟩
theorem vcmpNe (d : BitVec 3) (a : BitVec 4) (b : BitVec 4) (k : BitVec 3) (e : BitVec 3) : Statement (.vcmpNe d a b k e) := ⟨rfl, needsLit_encV .. |>.trans rfl⟩
theorem vcmpLt (d : BitVec 3) (a : BitVec 4) (b : BitVec 4) (k : BitVec 3) (e : BitVec 3) : Statement (.vcmpLt d a b k e) := ⟨rfl, needsLit_encV .. |>.trans rfl⟩
theorem vcmpLe (d : BitVec 3) (a : BitVec 4) (b : BitVec 4) (k : BitVec 3) (e : BitVec 3) : Statement (.vcmpLe d a b k e) := ⟨rfl, needsLit_encV .. |>.trans rfl⟩
theorem vcmpLtu (d : BitVec 3) (a : BitVec 4) (b : BitVec 4) (k : BitVec 3) (e : BitVec 1) : Statement (.vcmpLtu d a b k e) := ⟨rfl, needsLit_encV .. |>.trans rfl⟩
theorem vcmpLeu (d : BitVec 3) (a : BitVec 4) (b : BitVec 4) (k : BitVec 3) (e : BitVec 1) : Statement (.vcmpLeu d a b k e) := ⟨rfl, needsLit_encV .. |>.trans rfl⟩
theorem vsel (d : BitVec 4) (a : BitVec 4) (b : BitVec 4) (k : BitVec 3) (e : BitVec 3) : Statement (.vsel d a b k e) := ⟨rfl, needsLit_encV .. |>.trans rfl⟩
theorem vmovv (d : BitVec 4) (a : BitVec 4) (k : BitVec 3) (e : BitVec 3) : Statement (.vmovv d a k e) := ⟨rfl, needsLit_encV .. |>.trans rfl⟩
theorem viota (d : BitVec 4) (k : BitVec 3) (e : BitVec 1) : Statement (.viota d k e) := ⟨rfl, needsLit_encV .. |>.trans rfl⟩
theorem vperm (d : BitVec 4) (a : BitVec 4) (b : BitVec 4) (e : BitVec 3) : Statement (.vperm d a b e) := ⟨rfl, needsLit_encV .. |>.trans rfl⟩
theorem vcompress (d : BitVec 4) (a : BitVec 4) (k : BitVec 3) (e : BitVec 3) : Statement (.vcompress d a k e) := ⟨rfl, needsLit_encV .. |>.trans rfl⟩
theorem vredAdd (d : BitVec 4) (a : BitVec 4) (k : BitVec 3) (e : BitVec 1) : Statement (.vredAdd d a k e) := ⟨rfl, needsLit_encV .. |>.trans rfl⟩
theorem vredMin (d : BitVec 4) (a : BitVec 4) (k : BitVec 3) (e : BitVec 1) : Statement (.vredMin d a k e) := ⟨rfl, needsLit_encV .. |>.trans rfl⟩
theorem vredMax (d : BitVec 4) (a : BitVec 4) (k : BitVec 3) (e : BitVec 1) : Statement (.vredMax d a k e) := ⟨rfl, needsLit_encV .. |>.trans rfl⟩
theorem vredMinu (d : BitVec 4) (a : BitVec 4) (k : BitVec 3) (e : BitVec 1) : Statement (.vredMinu d a k e) := ⟨rfl, needsLit_encV .. |>.trans rfl⟩
theorem vredMaxu (d : BitVec 4) (a : BitVec 4) (k : BitVec 3) (e : BitVec 1) : Statement (.vredMaxu d a k e) := ⟨rfl, needsLit_encV .. |>.trans rfl⟩
theorem vredAnd (d : BitVec 4) (a : BitVec 4) (k : BitVec 3) (e : BitVec 1) : Statement (.vredAnd d a k e) := ⟨rfl, needsLit_encV .. |>.trans rfl⟩
theorem vredOr (d : BitVec 4) (a : BitVec 4) (k : BitVec 3) (e : BitVec 1) : Statement (.vredOr d a k e) := ⟨rfl, needsLit_encV .. |>.trans rfl⟩
theorem vredXor (d : BitVec 4) (a : BitVec 4) (k : BitVec 3) (e : BitVec 1) : Statement (.vredXor d a k e) := ⟨rfl, needsLit_encV .. |>.trans rfl⟩
theorem vredFadd (d : BitVec 4) (a : BitVec 4) (k : BitVec 3) : Statement (.vredFadd d a k) := ⟨rfl, needsLit_encV .. |>.trans rfl⟩
theorem vredFmin (d : BitVec 4) (a : BitVec 4) (k : BitVec 3) : Statement (.vredFmin d a k) := ⟨rfl, needsLit_encV .. |>.trans rfl⟩
theorem vredFmax (d : BitVec 4) (a : BitVec 4) (k : BitVec 3) : Statement (.vredFmax d a k) := ⟨rfl, needsLit_encV .. |>.trans rfl⟩
theorem vscanAdd (d : BitVec 4) (a : BitVec 4) (k : BitVec 3) (e : BitVec 1) : Statement (.vscanAdd d a k e) := ⟨rfl, needsLit_encV .. |>.trans rfl⟩
theorem vscanMin (d : BitVec 4) (a : BitVec 4) (k : BitVec 3) (e : BitVec 1) : Statement (.vscanMin d a k e) := ⟨rfl, needsLit_encV .. |>.trans rfl⟩
theorem vscanMax (d : BitVec 4) (a : BitVec 4) (k : BitVec 3) (e : BitVec 1) : Statement (.vscanMax d a k e) := ⟨rfl, needsLit_encV .. |>.trans rfl⟩
theorem vscanMinu (d : BitVec 4) (a : BitVec 4) (k : BitVec 3) (e : BitVec 1) : Statement (.vscanMinu d a k e) := ⟨rfl, needsLit_encV .. |>.trans rfl⟩
theorem vscanMaxu (d : BitVec 4) (a : BitVec 4) (k : BitVec 3) (e : BitVec 1) : Statement (.vscanMaxu d a k e) := ⟨rfl, needsLit_encV .. |>.trans rfl⟩
theorem vscanAnd (d : BitVec 4) (a : BitVec 4) (k : BitVec 3) (e : BitVec 1) : Statement (.vscanAnd d a k e) := ⟨rfl, needsLit_encV .. |>.trans rfl⟩
theorem vscanOr (d : BitVec 4) (a : BitVec 4) (k : BitVec 3) (e : BitVec 1) : Statement (.vscanOr d a k e) := ⟨rfl, needsLit_encV .. |>.trans rfl⟩
theorem vscanXor (d : BitVec 4) (a : BitVec 4) (k : BitVec 3) (e : BitVec 1) : Statement (.vscanXor d a k e) := ⟨rfl, needsLit_encV .. |>.trans rfl⟩
theorem vscanFadd (d : BitVec 4) (a : BitVec 4) (k : BitVec 3) : Statement (.vscanFadd d a k) := ⟨rfl, needsLit_encV .. |>.trans rfl⟩
theorem vscanFmin (d : BitVec 4) (a : BitVec 4) (k : BitVec 3) : Statement (.vscanFmin d a k) := ⟨rfl, needsLit_encV .. |>.trans rfl⟩
theorem vscanFmax (d : BitVec 4) (a : BitVec 4) (k : BitVec 3) : Statement (.vscanFmax d a k) := ⟨rfl, needsLit_encV .. |>.trans rfl⟩
theorem vfadd (d : BitVec 4) (a : BitVec 4) (b : BitVec 4) (k : BitVec 3) (e : BitVec 3) : Statement (.vfadd d a b k e) := ⟨rfl, needsLit_encV .. |>.trans rfl⟩
theorem vfmul (d : BitVec 4) (a : BitVec 4) (b : BitVec 4) (k : BitVec 3) (e : BitVec 3) : Statement (.vfmul d a b k e) := ⟨rfl, needsLit_encV .. |>.trans rfl⟩
theorem vfma (d : BitVec 4) (a : BitVec 4) (b : BitVec 4) (k : BitVec 3) (e : BitVec 3) : Statement (.vfma d a b k e) := ⟨rfl, needsLit_encV .. |>.trans rfl⟩
theorem vfmin (d : BitVec 4) (a : BitVec 4) (b : BitVec 4) (k : BitVec 3) (e : BitVec 3) : Statement (.vfmin d a b k e) := ⟨rfl, needsLit_encV .. |>.trans rfl⟩
theorem vfmax (d : BitVec 4) (a : BitVec 4) (b : BitVec 4) (k : BitVec 3) (e : BitVec 3) : Statement (.vfmax d a b k e) := ⟨rfl, needsLit_encV .. |>.trans rfl⟩
theorem vcvt (d : BitVec 4) (a : BitVec 4) (s : BitVec 4) (k : BitVec 3) (r : BitVec 3) (t : BitVec 4) : Statement (.vcvt d a s k r t) := ⟨rfl, needsLit_encV .. |>.trans rfl⟩
theorem kand (d : BitVec 3) (a : BitVec 3) (b : BitVec 3) : Statement (.kand d a b) := ⟨rfl, needsLit_encV .. |>.trans rfl⟩
theorem kor (d : BitVec 3) (a : BitVec 3) (b : BitVec 3) : Statement (.kor d a b) := ⟨rfl, needsLit_encV .. |>.trans rfl⟩
theorem knot (d : BitVec 3) (a : BitVec 3) : Statement (.knot d a) := ⟨rfl, needsLit_encV .. |>.trans rfl⟩
theorem kmov (d : BitVec 3) (a : BitVec 3) : Statement (.kmov d a) := ⟨rfl, needsLit_encV .. |>.trans rfl⟩
theorem vbcast (d : BitVec 4) (a : BitVec 5) (w : BitVec 1) : Statement (.vbcast d a w) := ⟨rfl, needsLit_encR .. |>.trans rfl⟩
theorem vmovg (d : BitVec 5) (a : BitVec 4) (l : BitVec 4) (w : BitVec 1) : Statement (.vmovg d a l w) := ⟨rfl, needsLit_encR .. |>.trans rfl⟩
theorem kmovKg (d : BitVec 3) (a : BitVec 5) : Statement (.kmovKg d a) := ⟨rfl, needsLit_encR .. |>.trans rfl⟩
theorem kmovGk (d : BitVec 5) (a : BitVec 3) : Statement (.kmovGk d a) := ⟨rfl, needsLit_encR .. |>.trans rfl⟩
theorem beq (a : BitVec 5) (b : BitVec 5) (o : BitVec 16) : Statement (.beq a b o) := ⟨rfl, needsLit_encB .. |>.trans rfl⟩
theorem bne (a : BitVec 5) (b : BitVec 5) (o : BitVec 16) : Statement (.bne a b o) := ⟨rfl, needsLit_encB .. |>.trans rfl⟩
theorem blt (a : BitVec 5) (b : BitVec 5) (o : BitVec 16) : Statement (.blt a b o) := ⟨rfl, needsLit_encB .. |>.trans rfl⟩
theorem bge (a : BitVec 5) (b : BitVec 5) (o : BitVec 16) : Statement (.bge a b o) := ⟨rfl, needsLit_encB .. |>.trans rfl⟩
theorem bltu (a : BitVec 5) (b : BitVec 5) (o : BitVec 16) : Statement (.bltu a b o) := ⟨rfl, needsLit_encB .. |>.trans rfl⟩
theorem bgeu (a : BitVec 5) (b : BitVec 5) (o : BitVec 16) : Statement (.bgeu a b o) := ⟨rfl, needsLit_encB .. |>.trans rfl⟩
theorem bqb (a : BitVec 5) (o : BitVec 16) : Statement (.bqb a o) := ⟨rfl, needsLit_encB .. |>.trans rfl⟩
theorem j (o : BitVec 26) : Statement (.j o) := ⟨rfl, needsLit_encJ .. |>.trans rfl⟩
theorem jal (o : BitVec 26) : Statement (.jal o) := ⟨rfl, needsLit_encJ .. |>.trans rfl⟩
theorem nop : Statement (.nop) := ⟨rfl, needsLit_encR .. |>.trans rfl⟩
theorem jr (a : BitVec 5) : Statement (.jr a) := ⟨rfl, needsLit_encR .. |>.trans rfl⟩
theorem jalr (d : BitVec 5) (a : BitVec 5) : Statement (.jalr d a) := ⟨rfl, needsLit_encR .. |>.trans rfl⟩
theorem susp : Statement (.susp) := ⟨rfl, needsLit_encR .. |>.trans rfl⟩
theorem spawn (a : BitVec 5) (u : BitVec 1) : Statement (.spawn a u) := ⟨rfl, needsLit_encR .. |>.trans rfl⟩
theorem exit : Statement (.exit) := ⟨rfl, needsLit_encR .. |>.trans rfl⟩
theorem wakeat (a : BitVec 5) : Statement (.wakeat a) := ⟨rfl, needsLit_encR .. |>.trans rfl⟩
theorem trap (i : BitVec 8) : Statement (.trap i) := ⟨rfl, needsLit_encR .. |>.trans rfl⟩
theorem sysc (i : BitVec 8) : Statement (.sysc i) := ⟨rfl, needsLit_encR .. |>.trans rfl⟩
theorem eret : Statement (.eret) := ⟨rfl, needsLit_encR .. |>.trans rfl⟩
theorem csrr (d : BitVec 5) (i : BitVec 8) : Statement (.csrr d i) := ⟨rfl, needsLit_encR .. |>.trans rfl⟩
theorem csrw (a : BitVec 5) (i : BitVec 8) : Statement (.csrw a i) := ⟨rfl, needsLit_encR .. |>.trans rfl⟩
theorem csrx (d : BitVec 5) (a : BitVec 5) (i : BitVec 8) : Statement (.csrx d a i) := ⟨rfl, needsLit_encR .. |>.trans rfl⟩
theorem ld (t : BitVec 5) (b : BitVec 5) (s : BitVec 2) (x : BitVec 1) (o : BitVec 1) (c : BitVec 2) (f : BitVec 9) : Statement (.ld t b s x o c f) := ⟨rfl, needsLit_encM .. |>.trans rfl⟩
theorem st (t : BitVec 5) (b : BitVec 5) (s : BitVec 2) (o : BitVec 1) (c : BitVec 2) (f : BitVec 9) : Statement (.st t b s o c f) := ⟨rfl, needsLit_encM .. |>.trans rfl⟩
theorem ldrc (t : BitVec 5) (b : BitVec 5) (s : BitVec 2) (x : BitVec 1) (n : BitVec 4) (f : BitVec 9) : Statement (.ldrc t b s x n f) := ⟨rfl, needsLit_encM .. |>.trans rfl⟩
theorem pref (l : BitVec 1) (b : BitVec 5) (f : BitVec 9) : Statement (.pref l b f) := ⟨rfl, needsLit_encM .. |>.trans rfl⟩
theorem discard (b : BitVec 5) (f : BitVec 9) : Statement (.discard b f) := ⟨rfl, needsLit_encM .. |>.trans rfl⟩
theorem fence (o : BitVec 2) (c : BitVec 2) : Statement (.fence o c) := ⟨rfl, needsLit_encM .. |>.trans rfl⟩
theorem cas (t : BitVec 5) (b : BitVec 5) (z : BitVec 1) (o : BitVec 2) (c : BitVec 2) (s : BitVec 5) : Statement (.cas t b z o c s) := ⟨rfl, needsLit_encM .. |>.trans rfl⟩
theorem swap (t : BitVec 5) (b : BitVec 5) (z : BitVec 1) (o : BitVec 2) (c : BitVec 2) (s : BitVec 5) : Statement (.swap t b z o c s) := ⟨rfl, needsLit_encM .. |>.trans rfl⟩
theorem fadd (t : BitVec 5) (b : BitVec 5) (z : BitVec 1) (o : BitVec 2) (c : BitVec 2) (s : BitVec 5) : Statement (.fadd t b z o c s) := ⟨rfl, needsLit_encM .. |>.trans rfl⟩
theorem upd (t : BitVec 5) (b : BitVec 5) (z : BitVec 1) (f : BitVec 9) : Statement (.upd t b z f) := ⟨rfl, needsLit_encM .. |>.trans rfl⟩
theorem uflush (b : BitVec 5) (f : BitVec 9) : Statement (.uflush b f) := ⟨rfl, needsLit_encM .. |>.trans rfl⟩
theorem ldv (t : BitVec 4) (b : BitVec 5) (o : BitVec 1) (c : BitVec 2) (f : BitVec 9) : Statement (.ldv t b o c f) := ⟨rfl, needsLit_encM .. |>.trans rfl⟩
theorem stv (t : BitVec 4) (b : BitVec 5) (o : BitVec 1) (c : BitVec 2) (f : BitVec 9) : Statement (.stv t b o c f) := ⟨rfl, needsLit_encM .. |>.trans rfl⟩
theorem ldgv (d : BitVec 4) (a : BitVec 4) (k : BitVec 3) (e : BitVec 1) (h : BitVec 3) (b : BitVec 5) : Statement (.ldgv d a k e h b) := ⟨rfl, needsLit_encV .. |>.trans rfl⟩
theorem stsv (d : BitVec 4) (a : BitVec 4) (k : BitVec 3) (e : BitVec 1) (h : BitVec 3) (b : BitVec 5) : Statement (.stsv d a k e h b) := ⟨rfl, needsLit_encV .. |>.trans rfl⟩
theorem vupd (d : BitVec 4) (a : BitVec 4) (k : BitVec 3) (e : BitVec 3) (h : BitVec 3) (b : BitVec 5) : Statement (.vupd d a k e h b) := ⟨rfl, needsLit_encV .. |>.trans rfl⟩
theorem cpy (d : BitVec 5) (s : BitVec 5) (b : BitVec 5) (c : BitVec 5) : Statement (.cpy d s b c) := ⟨rfl, needsLit_encE .. |>.trans rfl⟩
theorem mcast (d : BitVec 5) (s : BitVec 5) (b : BitVec 5) (c : BitVec 5) : Statement (.mcast d s b c) := ⟨rfl, needsLit_encE .. |>.trans rfl⟩
theorem strm (d : BitVec 5) (s : BitVec 5) (b : BitVec 5) (c : BitVec 5) : Statement (.strm d s b c) := ⟨rfl, needsLit_encE .. |>.trans rfl⟩
theorem gath (d : BitVec 5) (s : BitVec 5) (b : BitVec 5) (c : BitVec 5) : Statement (.gath d s b c) := ⟨rfl, needsLit_encE .. |>.trans rfl⟩
theorem waitp (d : BitVec 5) : Statement (.waitp d) := ⟨rfl, needsLit_encE .. |>.trans rfl⟩
theorem rqry (d : BitVec 5) (a : BitVec 5) : Statement (.rqry d a) := ⟨rfl, needsLit_encR .. |>.trans rfl⟩
theorem vpush (r : BitVec 4) (q : BitVec 6) (k : BitVec 3) (s : BitVec 1) (p : BitVec 4) : Statement (.vpush r q k s p) := ⟨rfl, needsLit_encQ .. |>.trans rfl⟩
theorem spush (r : BitVec 5) (q : BitVec 6) (w : BitVec 1) (p : BitVec 4) : Statement (.spush r q w p) := ⟨rfl, needsLit_encQ .. |>.trans rfl⟩
theorem mpush (r : BitVec 5) (q : BitVec 6) (c : BitVec 8) : Statement (.mpush r q c) := ⟨rfl, needsLit_encQ .. |>.trans rfl⟩
theorem qflush (q : BitVec 6) : Statement (.qflush q) := ⟨rfl, needsLit_encQ .. |>.trans rfl⟩
theorem vpop (r : BitVec 4) (q : BitVec 6) (k : BitVec 3) (m : BitVec 3) (d : BitVec 3) : Statement (.vpop r q k m d) := ⟨rfl, needsLit_encQ .. |>.trans rfl⟩
theorem spop (r : BitVec 5) (q : BitVec 6) : Statement (.spop r q) := ⟨rfl, needsLit_encQ .. |>.trans rfl⟩
theorem qstat (r : BitVec 5) (q : BitVec 6) (x : BitVec 1) (s : BitVec 7) : Statement (.qstat r q x s) := ⟨rfl, needsLit_encQ .. |>.trans rfl⟩
theorem qwait (r : BitVec 5) (q : BitVec 6) (m : BitVec 2) : Statement (.qwait r q m) := ⟨rfl, needsLit_encQ .. |>.trans rfl⟩
theorem semw (a : BitVec 5) (b : BitVec 5) : Statement (.semw a b) := ⟨rfl, needsLit_encR .. |>.trans rfl⟩
theorem sems (a : BitVec 5) (b : BitVec 5) : Statement (.sems a b) := ⟨rfl, needsLit_encR .. |>.trans rfl⟩
theorem semr (d : BitVec 5) (a : BitVec 5) : Statement (.semr d a) := ⟨rfl, needsLit_encR .. |>.trans rfl⟩
theorem bari (a : BitVec 5) (b : BitVec 5) (k : BitVec 1) : Statement (.bari a b k) := ⟨rfl, needsLit_encR .. |>.trans rfl⟩
theorem bara (a : BitVec 5) (b : BitVec 5) : Statement (.bara a b) := ⟨rfl, needsLit_encR .. |>.trans rfl⟩
theorem barw (a : BitVec 5) : Statement (.barw a) := ⟨rfl, needsLit_encR .. |>.trans rfl⟩
theorem rdtime (d : BitVec 5) : Statement (.rdtime d) := ⟨rfl, needsLit_encR .. |>.trans rfl⟩
theorem rdperf (d : BitVec 5) (a : BitVec 5) : Statement (.rdperf d a) := ⟨rfl, needsLit_encR .. |>.trans rfl⟩
theorem tinvAll : Statement (.tinvAll) := ⟨rfl, needsLit_encR .. |>.trans rfl⟩
theorem tinvCtx (a : BitVec 5) : Statement (.tinvCtx a) := ⟨rfl, needsLit_encR .. |>.trans rfl⟩
theorem tinvPage (a : BitVec 5) (b : BitVec 5) : Statement (.tinvPage a b) := ⟨rfl, needsLit_encR .. |>.trans rfl⟩
theorem extw (a : BitVec 5) (b : BitVec 5) : Statement (.extw a b) := ⟨rfl, needsLit_encR .. |>.trans rfl⟩
theorem urtw (a : BitVec 5) (b : BitVec 5) : Statement (.urtw a b) := ⟨rfl, needsLit_encR .. |>.trans rfl⟩
theorem keyopCreate (d : BitVec 5) (a : BitVec 5) : Statement (.keyopCreate d a) := ⟨rfl, needsLit_encR .. |>.trans rfl⟩
theorem keyopRotate (d : BitVec 5) (a : BitVec 5) : Statement (.keyopRotate d a) := ⟨rfl, needsLit_encR .. |>.trans rfl⟩
theorem keyopDestroy (d : BitVec 5) (a : BitVec 5) : Statement (.keyopDestroy d a) := ⟨rfl, needsLit_encR .. |>.trans rfl⟩
theorem keyopQuery (d : BitVec 5) (a : BitVec 5) : Statement (.keyopQuery d a) := ⟨rfl, needsLit_encR .. |>.trans rfl⟩
theorem launch (a : BitVec 5) : Statement (.launch a) := ⟨rfl, needsLit_encR .. |>.trans rfl⟩
theorem xr (f : AluOp) (d a : BitVec 5) (m : BitVec 3) (lit : BitVec 32) : Statement (.xr f d a m lit) := ⟨rfl, needsLit_encR .. |>.trans rfl⟩
theorem xi (f : ImmOp) (d a : BitVec 5) (lit : BitVec 32) : Statement (.xi f d a lit) := ⟨rfl, needsLit_encX2 .. |>.trans rfl⟩
theorem xm (f : MemOp) (t b : BitVec 5) (s : BitVec 2) (x : BitVec 1) (o c : BitVec 2) (lit : BitVec 32) : Statement (.xm f t b s x o c lit) := ⟨rfl, needsLit_encM .. |>.trans rfl⟩
theorem xq (q : BitVec 6) (lit : BitVec 32) : Statement (.xq q lit) := ⟨rfl, needsLit_encQ .. |>.trans rfl⟩
theorem illegalInstruction (r : Nat) : Statement (.illegalInstruction r) := rfl
theorem fetchFault (r : Nat) : Statement (.fetchFault r) := rfl
theorem pendingExceptionEntry (r : Nat) : Statement (.pendingExceptionEntry r) := rfl
theorem qparkThreshold (r : Nat) : Statement (.qparkThreshold r) := rfl
theorem rparkThreshold (r : Nat) : Statement (.rparkThreshold r) := rfl
theorem parkDrainComplete (r : Nat) : Statement (.parkDrainComplete r) := rfl
theorem bankReturn (r : Nat) : Statement (.bankReturn r) := rfl
theorem memoryRequestComplete (q : ReqSel) : Statement (.memoryRequestComplete q) := rfl
theorem suspensionWriteback (r : Nat) : Statement (.suspensionWriteback r) := rfl
theorem wakeTimeReached (c : Nat) : Statement (.wakeTimeReached c) := rfl
theorem continuationDispatch (r : Nat) : Statement (.continuationDispatch r) := rfl
theorem bankControlWrite (c b : Nat) (v : BitVec 64) : Statement (.bankControlWrite c b v) := rfl
theorem bankModeChangeDone (c b : Nat) : Statement (.bankModeChangeDone c b) := rfl
theorem updatePairAccept (n : Nat) : Statement (.updatePairAccept n) := rfl
theorem regionStatusClear (i : Nat) (v : BitVec 64) : Statement (.regionStatusClear i v) := rfl
theorem batchTimerClose (r n : Nat) : Statement (.batchTimerClose r n) := rfl
theorem streamBeatPush (c : Nat) : Statement (.streamBeatPush c) := rfl
theorem engineComplete (c : Nat) : Statement (.engineComplete c) := rfl
theorem engineFault (c : Nat) : Statement (.engineFault c) := rfl
theorem promiseMissed (r : Nat) : Statement (.promiseMissed r) := rfl
theorem barwTimeout (w : Who) : Statement (.barwTimeout w) := rfl
theorem semaphoreSignalWrite (n : Nat) (v : BitVec 64) : Statement (.semaphoreSignalWrite n v) := rfl
theorem semaphoreValueWrite (n : Nat) (v : BitVec 64) : Statement (.semaphoreValueWrite n v) := rfl
theorem ownerSerialRequest (m : Nat) : Statement (.ownerSerialRequest m) := rfl
theorem ownerAckMessage (m : Nat) : Statement (.ownerAckMessage m) := rfl
theorem ownerRqry (m : Nat) : Statement (.ownerRqry m) := rfl
theorem ownerReadRequest (m : Nat) : Statement (.ownerReadRequest m) := rfl
theorem remoteReply (m : Nat) : Statement (.remoteReply m) := rfl
theorem busyResend (o : Nat) : Statement (.busyResend o) := rfl
theorem retransmitTimer (o : Nat) : Statement (.retransmitTimer o) := rfl
theorem retransmitExhausted (o : Nat) : Statement (.retransmitExhausted o) := rfl
theorem ackMessageSend (r : Nat) : Statement (.ackMessageSend r) := rfl
theorem floorExpire (n : Nat) : Statement (.floorExpire n) := rfl
theorem queueStallEnd (r : Nat) : Statement (.queueStallEnd r) := rfl
theorem chainBeatReceive (m : Nat) : Statement (.chainBeatReceive m) := rfl
theorem chainAckReceive (m : Nat) : Statement (.chainAckReceive m) := rfl
theorem chainRetransmit (q : Nat) : Statement (.chainRetransmit q) := rfl
theorem chainRetransmitExhausted (q : Nat) : Statement (.chainRetransmitExhausted q) := rfl
theorem chainKeepalive (q : Nat) : Statement (.chainKeepalive q) := rfl
theorem chainConsumerTimeout (q : Nat) : Statement (.chainConsumerTimeout q) := rfl
theorem chainFaultNotice (m : Nat) : Statement (.chainFaultNotice m) := rfl
theorem stageFire (p u n : Nat) : Statement (.stageFire p u n) := rfl
theorem scratchUnitCycle (p u : Nat) : Statement (.scratchUnitCycle p u) := rfl
theorem ochreTokenStep (d : Nat) : Statement (.ochreTokenStep d) := rfl
theorem matrixFireStart (p : Nat) : Statement (.matrixFireStart p) := rfl
theorem matrixFireEnd (p : Nat) : Statement (.matrixFireEnd p) := rfl
theorem matrixMarkerStep (p : Nat) : Statement (.matrixMarkerStep p) := rfl
theorem matrixDrainRow (p b : Nat) : Statement (.matrixDrainRow p b) := rfl
theorem matrixUncorrectableError (p : Nat) : Statement (.matrixUncorrectableError p) := rfl
theorem patrolStep : Statement (.patrolStep) := rfl
theorem formatRangeWrite (n : Nat) (v : BitVec 64) : Statement (.formatRangeWrite n v) := rfl
theorem formatRangeHeldWrite (n i : Nat) (v : BitVec 64) : Statement (.formatRangeHeldWrite n i v) := rfl
theorem launchTake (leaf : Nat) : Statement (.launchTake leaf) := rfl
theorem launchWaitMet (lid : Nat) : Statement (.launchWaitMet lid) := rfl
theorem stagingComplete (lid : Nat) : Statement (.stagingComplete lid) := rfl
theorem groupPlace (lid g c p : Nat) : Statement (.groupPlace lid g c p) := rfl
theorem groupConfigAck (lid g : Nat) : Statement (.groupConfigAck lid g) := rfl
theorem groupDone (lid g : Nat) : Statement (.groupDone lid g) := rfl
theorem launchComplete (lid : Nat) : Statement (.launchComplete lid) := rfl
theorem pageWaitPriority (lid : Nat) : Statement (.pageWaitPriority lid) := rfl
theorem groupIdlePark (lid g : Nat) : Statement (.groupIdlePark lid g) := rfl
theorem groupSaveComplete (lid g : Nat) : Statement (.groupSaveComplete lid g) := rfl
theorem groupUnpark (lid g c p : Nat) : Statement (.groupUnpark lid g c p) := rfl
theorem preemptDeadline (r : Nat) : Statement (.preemptDeadline r) := rfl
theorem sync (n : Nat) : Statement (.sync n) := rfl
theorem preempt (n : Nat) : Statement (.preempt n) := rfl
theorem resume (n : Nat) : Statement (.resume n) := rfl
theorem evict (n : Nat) : Statement (.evict n) := rfl
theorem restore (n : Nat) : Statement (.restore n) := rfl
theorem restoreany (n : Nat) : Statement (.restoreany n) := rfl
theorem endcont (n : Nat) : Statement (.endcont n) := rfl
theorem endgroup (n : Nat) : Statement (.endgroup n) := rfl
theorem answer (n : Nat) : Statement (.answer n) := rfl
theorem scmdRefused (n : Nat) (v : BitVec 64) : Statement (.scmdRefused n v) := rfl
theorem hostCxlMemRead (a : BitVec 64) : Statement (.hostCxlMemRead a) := rfl
theorem hostCxlMemWrite (a : BitVec 64) (v : BitVec 512) (be : BitVec 64) : Statement (.hostCxlMemWrite a v be) := rfl
theorem hostSnoop (a : BitVec 64) (own : Bool) : Statement (.hostSnoop a own) := rfl
theorem hostBar0Access (wr : Bool) (a : BitVec 64) (n : Nat) (v : BitVec 64) : Statement (.hostBar0Access wr a n v) := rfl
theorem hostPortUp (p w : Nat) : Statement (.hostPortUp p w) := rfl
theorem hostPortDown (p : Nat) : Statement (.hostPortDown p) := rfl
theorem fabricFlitReceive (p : Nat) (ok : Bool) (ms : List Msg) : Statement (.fabricFlitReceive p ok ms) := rfl
theorem fabricPortUp (p lanes : Nat) : Statement (.fabricPortUp p lanes) := rfl
theorem fabricPortDown (p : Nat) : Statement (.fabricPortDown p) := rfl
theorem routingTableWrite (p : Nat) (v : BitVec 64) : Statement (.routingTableWrite p v) := rfl
theorem packageReset (ok : Bool) : Statement (.packageReset ok) := rfl
theorem pkgidWrite (v : BitVec 64) : Statement (.pkgidWrite v) := rfl
theorem plimitWrite (v : BitVec 64) : Statement (.plimitWrite v) := rfl
theorem scrubctlWrite (v : BitVec 64) : Statement (.scrubctlWrite v) := rfl
theorem sbootWrite (n : Nat) (v : BitVec 64) : Statement (.sbootWrite n v) := rfl
theorem strapWrite (n : Nat) (v : BitVec 64) : Statement (.strapWrite n v) := rfl
theorem throttleChange (on : Bool) (now : Nat) : Statement (.throttleChange on now) := rfl
theorem spdmGetVersion (req : List Byte) : Statement (.spdmGetVersion req) := rfl
theorem spdmGetCapabilities (req : List Byte) : Statement (.spdmGetCapabilities req) := rfl
theorem spdmNegotiateAlgorithms (req : List Byte) : Statement (.spdmNegotiateAlgorithms req) := rfl
theorem spdmGetDigests (req : List Byte) : Statement (.spdmGetDigests req) := rfl
theorem spdmGetCertificate (req : List Byte) : Statement (.spdmGetCertificate req) := rfl
theorem spdmChallenge (req : List Byte) : Statement (.spdmChallenge req) := rfl
theorem spdmGetMeasurements (req : List Byte) : Statement (.spdmGetMeasurements req) := rfl
theorem deviceRegisterWrite (a : BitVec 64) (v : BitVec 64) : Statement (.deviceRegisterWrite a v) := rfl
theorem stagingFault (lid : Nat) : Statement (.stagingFault lid) := rfl

end Sys2Proof.Laws.Encodes
end

