-- ==== Sys2Proof/Tests/Slice0.lean ====
section
/-! SUPPORT. Tests: words written out from the spec's encodings, ill-formed terms, single steps, and for each statement states that
meet its hypotheses. -/
section

-- One test after another: tests that are evaluated side by side take a stack each.
set_option Elab.async false

namespace Sys2Proof.Tests

open Sys2Proof.Machine

/-! ### A small world -/

/-- An extent entry: VA base and length in units of 64 KiB, physical base, permissions U X W R, KIND and KEY (16_tables R393). -/
def ext (va n pa perm kind key : Nat) : Nat :=
  1 + va + n * 2 ^ 64 + pa * 2 ^ 128 + (perm * 4 + kind * 64 + key * 2 ^ 12) * 2 ^ 192

/-- Memory of this package as plain, update and atomic memory, that of package 5 likewise, device space and cluster scratch, for user and
privileged code alike. -/
def exts : List Nat :=
  [ext 0 0x800000 0 15 0 0, ext 0x40000000000 0x800000 0 15 1 0, ext 0x50000000000 0x800000 0 15 2 0,
    ext 0x100000000000 0x100000 (5 * 2 ^ 42) 15 0 0, ext 0x110000000000 0x100000 (5 * 2 ^ 42) 15 1 0,
    ext 0x120000000000 0x100000 (5 * 2 ^ 42) 15 2 0, ext 0x3f800000000 0x80000 0x3f800000000 15 3 0,
    ext 0x3f000000000 64 0x3f000000000 15 0 0]

/-- The group of the tests and its first continuation. -/
def gid : Nat := gidOf 1 0
def cid : Nat := contId gid 0

/-- The leaf at 0x4000, which is the root too: priority 2, semaphores 8 to 23, a launch queue of two slots at 0x5000 with doorbell 3. -/
def leaf : List Nat := [0, 0x801, 0, 2 + 8 * 2 ^ 8 + 16 * 2 ^ 20, 0, 0, 0, 0, 0, 0, 0, 0x5000, 1 + 3 * 2 ^ 8, 0, 0, 0]

/-- A number stored at an address of memory. -/
def put (s : State) (a n v : Nat) : State := { s with mem := memPut s.mem a n v }

/-- A user-mode bank that runs a continuation. -/
def bank : Bank := { threadReset with cont := some cid, pc := 0x10000, xtab := 0x8008, g := [(1, 0x100000), (2, 3)] }

/-- The machine with one resident group of four continuation records, the first of which runs in bank 0 of cluster 0. -/
def world : State :=
  { State.reset with
    cur := 0
    banks := [(0, bank)]
    held := [(0, [{ base := 0x8000, ents := exts }]), (128, [{ base := 0x8000, ents := exts }])]
    lines := State.reset.lines ++ ([0x100, 0x101] ++ (List.range 4).map (0x4000 + ·)).map fun l => (l, { key := some { slot := 0, ver := 0 } })
    ctl := [(0, { mode := 1 })]
    groups := [(gid, { st := .resident, lid := 1, leaf := 0x4000, home := some 0, recs := 4, carea := 0xc000 })]
    conts := [(cid, { st := .running, bank := some 0 })]
    leaves := [0x4000]
    rcbs := [(0x4000, leaf)]
    rcbptr := 0x4001
    mem := memPut State.reset.mem 0x4000 128 (leaf.foldr (fun d v => d + 2 ^ 64 * v) 0)
    launches := [(1, { st := .running, leaf := 0x4000 })]
    time := 1000000 }

/-- The world with another bank. -/
def World (b : Bank) : State := world.setBank 0 b

/-- The world with service core 0 acting. -/
def service (b : Bank) : State := { world with cur := 4096, svcs := [(0, b)] }

/-- A bank with vector and mask registers, an address in g1 and a value in g2. -/
def vb : Bank := { bank with v := [(3, 0x1122334455667788990011), (4, ofElems 32 fun i => 16 * i + (if i = 3 then 2 else 0))], k := [(1, 0x00ff), (2, 0x0009)] }
def at' (a : Nat) : State := World { vb with g := [(1, BitVec.ofNat 64 a), (2, 0x8877665544332211)] }

/-- The same with ports that lead to package 5. -/
def far (a : Nat) : State := { at' a with ports := [(3, 17), (4, 17)], routes := [(5, 2 ^ 63 + 8)] }

/-- The next state of an outcome, or another state. -/
def nextOf (o : Host.Outcome State Fault Refusal) (s : State) : State := match o with
  | .next t => t
  | _ => s

/-- An outcome is a next state. -/
def isNext (o : Host.Outcome State Fault Refusal) : Bool := match o with
  | .next _ => true
  | _ => false

/-- Service core 0 after one step from reset, with registers set and a word placed at its PC. -/
def after (w : Nat) (g : List (Nat × BitVec 64)) (v : List (Nat × BitVec 512) := []) : Bank :=
  let s := (State.reset.setBank 4096 { svcReset with g := g, v := v }).withFetchWord 32 w
  (nextOf (step s) s).bank 4096

/-- An R-format word of major 0x01, by its fields (03_encoding R60, R64). -/
def alu (f : BitVec 8) (d a b : BitVec 5) (m : BitVec 3) : Nat := (0x01#6 ++ d ++ a ++ b ++ f ++ m).toNat

/-! ### Words, field by field, from 03_encoding R60 to R74 and the examples of 05_ins_general and 06_ins_control -/

theorem test_decode_lea : decode 0x04853203 0 = .ok (.lea 4 5 6 3) := rfl
theorem test_decode_clz : decode 0x04430181 0 = .ok (.clz 2 3 1) := rfl
theorem test_decode_ext : decode 0x30e841cc 0 = .ok (.extS 7 8 7 12) := rfl
theorem test_decode_movk : decode 0x2d22beef 0 = .ok (.movk 9 2 0xbeef) := rfl
theorem test_decode_vcvt : decode 0x419d008a 0 = .ok (.vcvt 6 7 4 0 0 0xa) := rfl
theorem test_decode_kand : decode (0x11#6 ++ 1#4 ++ 2#4 ++ 3#4 ++ 0#3 ++ 0#3 ++ 0x00#8) 0 = .ok (.kand 1 2 3) := rfl
theorem test_decode_vmovg : decode (0x12#6 ++ 4#5 ++ 5#5 ++ 3#5 ++ 0x01#8 ++ 1#3) 0 = .ok (.vmovg 4 5 3 1) := rfl
theorem test_decode_bne : decode (0x19#6 ++ 1#5 ++ 2#5 ++ 0xffff#16) 0 = .ok (.bne 1 2 0xffff) := rfl
theorem test_decode_jal : decode 0x84000000 0 = .ok (.jal 0) := rfl
theorem test_decode_csrx : decode (0x22#6 ++ 1#5 ++ 2#5 ++ 0x08#5 ++ 0x1a#8 ++ 5#3) 0 = .ok (.csrx 1 2 0x45) := rfl
theorem test_decode_exit : decode 0x88000050 0 = .ok .exit := rfl
theorem test_decode_ld :
    decode (0x24#6 ++ 3#5 ++ 4#5 ++ 2#2 ++ 1#1 ++ 1#2 ++ 1#2 ++ 0x1fe#9) 0 = .ok (.ld 3 4 2 1 1 1 0x1fe) := rfl
theorem test_decode_cas : decode (0x2a#6 ++ 3#5 ++ 7#5 ++ 3#2 ++ 0#1 ++ 3#2 ++ 2#2 ++ 4#5 ++ 0#4) 0 = .ok (.cas 3 7 1 3 2 4) := rfl
theorem test_decode_fence : decode 0xa4001400 0 = .ok (.fence 2 2) := rfl
theorem test_decode_vupd : decode 0xcc841c49 0 = .ok (.vupd 2 1 3 4 2 9) := rfl
theorem test_decode_strm : decode 0xd06a5802 0 = .ok (.strm 3 10 11 0) := rfl
theorem test_decode_rqry : decode (0x35#6 ++ 1#5 ++ 2#5 ++ 0#5 ++ 0x00#8 ++ 0#3) 0 = .ok (.rqry 1 2) := rfl
theorem test_decode_mpush : decode (0x36#6 ++ 5#5 ++ 12#6 ++ 0#3 ++ 0x2#4 ++ 0x01#8) 0 = .ok (.mpush 5 12 1) := rfl
theorem test_decode_bari : decode (0x37#6 ++ 0#5 ++ 1#5 ++ 2#5 ++ 0x08#8 ++ 1#3) 0 = .ok (.bari 1 2 1) := rfl
theorem test_decode_keyop : decode 0xe0610018 0 = .ok (.keyopCreate 3 1) := rfl
theorem test_decode_xr : decode (0x3c#6 ++ 1#5 ++ 2#5 ++ 0#5 ++ 0x01#8 ++ 0#3) 0x80000000 = .ok (.xr .sub 1 2 0 0x80000000) := rfl
theorem test_decode_movkw : decode (0x3d#6 ++ 1#5 ++ 1#5 ++ 0x0b#6 ++ 0#10) 7 = .ok (.movkW 1 1 7) := rfl
theorem test_decode_xm :
    decode (0x3e#6 ++ 3#5 ++ 4#5 ++ 3#2 ++ 0#1 ++ 1#2 ++ 2#2 ++ 0x2f#6 ++ 0#3) 9 = .ok (.xm .ldv 3 4 3 0 1 2 9) := rfl
theorem test_decode_xq : decode (0x3f#6 ++ 0#5 ++ 12#6 ++ 0#3 ++ 0x2#4 ++ 0x00#8) 0x01000005 = .ok (.xq 12 0x01000005) := rfl

/-! Words that are not instructions: a reserved major, an unassigned func8, an unused field, a reserved order, an X form of
another major. -/

theorem test_refuse_major : decode 0 0 = .error .major := rfl
theorem test_refuse_func : decode (0x01#6 ++ 1#5 ++ 2#5 ++ 3#5 ++ 0x09#8 ++ 0#3) 0 = .error .func := rfl
theorem test_refuse_field : decode (0x01#6 ++ 1#5 ++ 2#5 ++ 3#5 ++ 0x00#8 ++ 1#3) 0 = .error .field := rfl
theorem test_refuse_order : decode (0x24#6 ++ 3#5 ++ 4#5 ++ 2#2 ++ 0#1 ++ 2#2 ++ 0#2 ++ 0#9) 0 = .error .order := rfl
theorem test_refuse_xq_push_63 : decode (0x3f#6 ++ 0#5 ++ 63#6 ++ 0#3 ++ 0x1#4 ++ 0x00#8) 5 = .error .field := rfl
theorem test_refuse_xm_scope :
    decode (0x3e#6 ++ 3#5 ++ 4#5 ++ 3#2 ++ 0#1 ++ 0#2 ++ 3#2 ++ 0x01#6 ++ 0#3) 9 = .error .order := rfl
theorem test_refuse_extend : decode (0x3d#6 ++ 1#5 ++ 1#5 ++ 0x08#6 ++ 0#10) 7 = .error .extend := rfl

/-! ### Ill-formed terms, one for each check of WellFormed -/

theorem test_wf_width : (Instr.clz 1 2 4).wf = false ∧ (Instr.bswap 1 2 3).wf = false := by decide
theorem test_wf_ext : (Instr.ext 1 2 63 1).wf = false ∧ (Instr.ext 1 2 63 0).wf = true := by decide
theorem test_wf_element_types : (Instr.vadd 1 2 3 0 4).wf = false ∧ (Instr.vfadd 1 2 3 0 3).wf = false ∧
    (Instr.vcmpEq 1 2 3 0 7).wf = false ∧ (Instr.vsel 1 2 3 0 7).wf = false := by decide
theorem test_wf_vcvt : (Instr.vcvt 6 7 7 0 0 0xa).wf = false ∧ (Instr.vcvt 6 7 4 0 6 0xa).wf = false ∧
    (Instr.vcvt 6 7 4 0 0 0xb).wf = false := by decide
theorem test_wf_lane : (Instr.vmovg 1 2 8 1).wf = false ∧ (Instr.vmovg 1 2 8 0).wf = true := by decide
theorem test_wf_csr : (Instr.csrr 1 7).wf = false ∧ (Instr.csrw 1 0x46).wf = false ∧ (Instr.csrx 1 2 0x0c).wf = false := by decide
theorem test_wf_memory : (Instr.ld 1 2 3 1 0 0 0).wf = false ∧ (Instr.ld 1 2 3 0 0 1 0).wf = false ∧ (Instr.st 1 2 0 1 3 0).wf = false ∧
    (Instr.ldrc 1 2 3 1 0 0).wf = false ∧ (Instr.fence 1 3).wf = false ∧ (Instr.cas 1 2 0 0 1 3).wf = false ∧
    (Instr.ldv 1 2 1 3 0).wf = false ∧ (Instr.vupd 1 2 0 5 0 3).wf = false := by decide
theorem test_wf_queue : (Instr.vpush 1 63 0 0 0).wf = false ∧ (Instr.spush 1 2 0 11).wf = false ∧ (Instr.mpush 1 2 6).wf = false ∧
    (Instr.qflush 63).wf = false ∧ (Instr.qstat 1 2 1 0).wf = false ∧ (Instr.qwait 1 2 3).wf = false := by decide
theorem test_wf_literal : (Instr.xr .sub 1 2 1 0).wf = false ∧ (Instr.xi .li 1 2 0).wf = false ∧ (Instr.xm .pref 2 3 3 0 0 0 0).wf = false ∧
    (Instr.xm .st 2 3 3 0 1 0 0).wf = false ∧ (Instr.xq 5 0).wf = false := by decide

/-! ### Single steps: the examples of 05_ins_general R120 and R133, and R76 -/

theorem test_div : (after (alu 0x05 3 1 2 0) [(1, 0x8000000000000000), (2, 0xffffffffffffffff)]).gpr 3 = 0x8000000000000000 := by
  decide +kernel
theorem test_rem : (after (alu 0x07 3 1 2 0) [(1, 0x8000000000000000), (2, 0xffffffffffffffff), (3, 9)]).gpr 3 = 0 := by decide +kernel
theorem test_divu_zero : (after (alu 0x06 3 1 0 0) [(1, 77), (3, 9)]).gpr 3 = 0 := by decide +kernel
theorem test_remu_zero : (after (alu 0x08 3 1 0 0) [(1, 77)]).gpr 3 = 77 := by decide +kernel
theorem test_shl_width : (after (alu 0x18 3 1 2 0) [(1, 5), (2, 64), (3, 9)]).gpr 3 = 0 := by decide +kernel
theorem test_sra_width : (after (alu 0x1a 3 1 2 0) [(1, 0x8000000000000001), (2, 0x100c8)]).gpr 3 = 0xffffffffffffffff := by
  decide +kernel
theorem test_ror : (after (alu 0x1b 3 1 2 0) [(1, 0x1f), (2, 68)]).gpr 3 = 0xf000000000000001 := by decide +kernel
theorem test_addw : (after (alu 0x38 3 1 2 0) [(1, 0x7fffffff), (2, 1)]).gpr 3 = 0xffffffff80000000 := by decide +kernel
theorem test_clz : (after 0x04430181 [(3, 0x100000000)]).gpr 2 = 32 := by decide +kernel
theorem test_clamp : (after (alu 0x41 3 1 2 0) [(3, 7), (1, 10), (2, 5)]).gpr 3 = 5 := by decide +kernel
theorem test_idx2 : (after (alu 0x42 3 1 2 0) [(1, 0x500000003), (2, 0x400000008)]).gpr 3 = 0x1d := by decide +kernel
theorem test_idx2_outside : (after (alu 0x42 3 1 2 0) [(1, 0x900000003), (2, 0x400000008)]).gpr 3 = 0xffffffffffffffff := by decide +kernel
theorem test_addi_pc : (after 0x08210005 []).gpr 1 = 5 ∧ (after 0x08210005 []).pc = 0x10004 := by decide +kernel
theorem test_vcvt : ((after 0x419d008a [] [(7, 0x459c40003dcccccd)]).vreg 6).toNat % 2 ^ 16 = 0x032d := by decide +kernel
theorem test_illegal_entry : (after 0 []).pc = 0x20000 ∧ (after 0 []).ecause = 1 ∧ (after 0 []).epc = 0x10000 := by decide +kernel

end Sys2Proof.Tests

/-! ### States that meet the hypotheses of the statements, clause by clause -/

open Sys2Proof

namespace Sys2Proof.Tests.Alu

open Sys2Proof.Machine

def b0 : Bank := { threadReset with cont := some 0, g := [(1, 0x8000000000000007), (2, 3), (3, 0x1234), (4, 0xffffffffffffffff), (9, 0xdeadbeef00000001)], v := [(1, BitVec.ofNat 512 (0x123456789abcdef0fedcba9876543210*2^300+0x3f8000007fc00000ff80000000000001)), (2, BitVec.ofNat 512 (2^511+0x80000000400000003f800000))], k := [(1, 0x5a5a)] }
def s0 : State := { (State.reset.setBank 0 b0) with cur := 0 }
/-- The states of the witnesses below. -/
def states : List State :=
  [s0]

end Sys2Proof.Tests.Alu

open Sys2Proof.Machine Sys2Proof.Tests in
theorem Sys2Proof.Tests.witness_IntegerArithmeticAndLogic :
    (let s := Alu.states.getD 0 world; let d : BitVec 5 := 0x01#5; let a : BitVec 5 := 0x01#5; let b : BitVec 5 := 0x01#5
     decide (s.ready [.g a.toNat, .g b.toNat] [.g d.toNat] = true)) = true := by decide +kernel

open Sys2Proof.Machine Sys2Proof.Tests in
theorem Sys2Proof.Tests.witness_CompareSelectAndIndex :
    (let s := Alu.states.getD 0 world; let d : BitVec 5 := 0x01#5; let a : BitVec 5 := 0x01#5; let b : BitVec 5 := 0x01#5
     decide (s.b.mark (.g d.toNat) = none) && decide (s.ready [.g a.toNat, .g b.toNat] [.g d.toNat] = true)) = true ∧
    (let s := Alu.states.getD 0 world; let d : BitVec 5 := 0x01#5; let a : BitVec 5 := 0x01#5; let b : BitVec 5 := 0x01#5
     decide (s.ready [.g a.toNat, .g b.toNat] [.g d.toNat] = true)) = true := by decide +kernel

open Sys2Proof.Machine Sys2Proof.Tests in
theorem Sys2Proof.Tests.witness_BitCounting :
    (let s := Alu.states.getD 0 world; let d : BitVec 5 := 0x01#5; let a : BitVec 5 := 0x01#5; let m : BitVec 3 := 0x0#3
     decide (s.ready [.g a.toNat] [.g d.toNat] = true) && decide (m.toNat < 4) && decide (m.toNat < 3)) = true := by decide +kernel

open Sys2Proof.Machine Sys2Proof.Tests in
theorem Sys2Proof.Tests.witness_ImmediateAndLiteralForms :
    (let s := Alu.states.getD 0 world; let d : BitVec 5 := 0x01#5; let a : BitVec 5 := 0x01#5; let l : BitVec 6 := 0x0c#6
     let p : BitVec 6 := 0x0c#6
     decide (s.ready [.g a.toNat] [.g d.toNat] = true) && decide (l.toNat + 1 + p.toNat ≤ 64)) = true ∧
    (let s := Alu.states.getD 0 world; let d : BitVec 5 := 0x01#5; let a : BitVec 5 := 0x01#5; let f : AluOp := Sys2Proof.AluOp.add
     let m : BitVec 3 := 0x0#3; let b : BitVec 5 := 0x03#5
     decide (s.ready [.g a.toNat] [.g d.toNat] = true) && decide ((f = .sel ∨ f = .clamp → s.b.mark (.g d.toNat) = none)) &&
       decide (b ≠ 0 ∧ b ≠ a ∧ b ≠ d ∧ s.ready [.g b.toNat] [] = true) &&
       decide (f = .lea ∨ m = 0)) = true := by decide +kernel

open Sys2Proof.Machine Sys2Proof.Tests in
theorem Sys2Proof.Tests.witness_VectorIntegerElements :
    (let s := Alu.states.getD 0 world; let d : BitVec 4 := 0x1#4; let a : BitVec 4 := 0x1#4; let b : BitVec 4 := 0x1#4
     let e : BitVec 3 := 0x0#3
     decide (s.ready [.v a.toNat, .v b.toNat] [.v d.toNat] = true) && decide (e.toNat < 4)) = true := by decide +kernel

open Sys2Proof.Machine Sys2Proof.Tests in
theorem Sys2Proof.Tests.witness_VectorFloatElements :
    (let s := Alu.states.getD 0 world; let d : BitVec 4 := 0x1#4; let a : BitVec 4 := 0x1#4; let b : BitVec 4 := 0x1#4
     let e : BitVec 3 := 0x4#3
     decide (s.b.mark (.v d.toNat) = none) && decide (s.ready [.v a.toNat, .v b.toNat] [.v d.toNat] = true) &&
       decide (4 ≤ e.toNat) && decide (e.toNat < 7)) = true := by decide +kernel

open Sys2Proof.Machine Sys2Proof.Tests in
theorem Sys2Proof.Tests.witness_VectorCompares :
    (let s := Alu.states.getD 0 world; let a : BitVec 4 := 0x1#4; let b : BitVec 4 := 0x1#4; let e : BitVec 3 := 0x2#3
     decide (s.ready [.v a.toNat, .v b.toNat] [] = true) && decide (e.toNat = 2 ∨ e.toNat = 3 ∨ e.toNat = 4) &&
       decide (e.toNat ≠ 4)) = true ∧
    (let s := Alu.states.getD 0 world; let a : BitVec 4 := 0x1#4; let b : BitVec 4 := 0x1#4; let e : BitVec 3 := 0x4#3
     decide (s.ready [.v a.toNat, .v b.toNat] [] = true) && decide (e.toNat = 2 ∨ e.toNat = 3 ∨ e.toNat = 4) &&
       decide (e.toNat = 4)) = true := by decide +kernel

open Sys2Proof.Machine Sys2Proof.Tests in
theorem Sys2Proof.Tests.witness_LaneAndMaskMoves :
    (let s := Alu.states.getD 0 world; let d : BitVec 4 := 0x1#4; let a : BitVec 4 := 0x1#4; let b : BitVec 4 := 0x1#4
     let e : BitVec 3 := 0x0#3
     decide (s.ready [.v a.toNat, .v b.toNat] [.v d.toNat] = true) && decide (e.toNat < 7)) = true ∧
    (let s := Alu.states.getD 0 world; let d : BitVec 4 := 0x1#4; let a : BitVec 4 := 0x1#4; let e : BitVec 3 := 0x0#3
     decide (s.ready [.v a.toNat] [.v d.toNat] = true) && decide (e.toNat < 7)) = true ∧
    (let s := Alu.states.getD 0 world; let d : BitVec 4 := 0x1#4; let e : BitVec 3 := 0x0#3
     decide (s.ready [] [.v d.toNat] = true) && decide (e.toNat < 7)) = true ∧
    (let s := Alu.states.getD 0 world
     decide (s.ready [] [] = true)) = true ∧
    (let s := Alu.states.getD 0 world; let d : BitVec 4 := 0x1#4; let a : BitVec 5 := 0x01#5
     decide (s.ready [.g a.toNat] [.v d.toNat] = true)) = true ∧
    (let s := Alu.states.getD 0 world; let d : BitVec 5 := 0x01#5; let a : BitVec 4 := 0x1#4; let l : BitVec 4 := 0x1#4
     decide (s.ready [.v a.toNat] [.g d.toNat] = true) && decide (l.toNat < 8)) = true ∧
    (let s := Alu.states.getD 0 world; let a : BitVec 5 := 0x01#5
     decide (s.ready [.g a.toNat] [] = true)) = true ∧
    (let s := Alu.states.getD 0 world; let d : BitVec 5 := 0x01#5
     decide (s.ready [] [.g d.toNat] = true)) = true := by decide +kernel

open Sys2Proof.Machine Sys2Proof.Tests in
theorem Sys2Proof.Tests.witness_VectorReductionsAndScans :
    (let s := Alu.states.getD 0 world; let d : BitVec 4 := 0x1#4; let a : BitVec 4 := 0x1#4
     decide (s.ready [.v a.toNat] [.v d.toNat] = true)) = true := by decide +kernel

open Sys2Proof.Machine Sys2Proof.Tests in
theorem Sys2Proof.Tests.witness_VectorConversion :
    (let s := Alu.states.getD 0 world; let d : BitVec 4 := 0x1#4; let a : BitVec 4 := 0x1#4; let src : BitVec 4 := 0x1#4
     let r : BitVec 3 := 0x0#3; let dst : BitVec 4 := 0x1#4
     decide (s.ready [.v a.toNat] [.v d.toNat] = true) && decide (cvtType src = true) && decide (r.toNat < 6) &&
       decide (cvtType dst = true)) = true := by decide +kernel

namespace Sys2Proof.Tests.Control

open Sys2Proof.Machine

def b0 : Bank := { threadReset with cont := some 0, pc := 0x10000, g := [(1, 0x8000000000000008), (2, 0x8000000000000008), (9, 0xdeadbeef00000001)], epc := 0x1237, v := [(1, 12345)], k := [(1, 0x5a5a)], stat := 0x2100 }
def s0 : State := { (State.reset.setBank 0 b0) with cur := 0 }
def m0 : Mark := {reason:=1, va:=5}
def rq : MemReq := { dst := some (.g 1 8 false), va := 0, pa := 0x100, size := 8, data := 0, key := 0, cluster := 0 }
/-- The states of the witnesses below. -/
def states : List State :=
  [s0,
    s0.setBank 0 { b0 with stat := 0x2100 ||| 1 },
    s0.setBank 0 (b0.setGpr 2 0x7ffffffffffff),
    s0.setBank 0 (b0.markG 1 m0),
    s0.setBank 0 { b0 with reqs := [rq] }]

end Sys2Proof.Tests.Control

open Sys2Proof.Machine Sys2Proof.Tests in
theorem Sys2Proof.Tests.witness_BranchesAndJumps :
    (let s := Control.states.getD 0 world; let a : BitVec 5 := 0x01#5; let b : BitVec 5 := 0x01#5
     decide (s.ready [.g a.toNat, .g b.toNat] [] = true)) = true ∧
    (let s := Control.states.getD 0 world
     decide (s.ready [] [.g 31] = true)) = true ∧
    (let s := Control.states.getD 0 world; let a : BitVec 5 := 0x01#5
     let x := s.b.gpr a.toNat
     decide (s.ready [.g a.toNat] [] = true) && decide (x.toNat % 4 = 0)) = true ∧
    (let s := Control.states.getD 0 world; let d : BitVec 5 := 0x01#5; let a : BitVec 5 := 0x01#5
     let x := s.b.gpr a.toNat
     decide (s.ready [.g a.toNat] [.g d.toNat] = true) && decide (x.toNat % 4 = 0)) = true ∧
    (let s := Control.states.getD 2 world; let d : BitVec 5 := 0x01#5; let a : BitVec 5 := 0x02#5
     let x := s.b.gpr a.toNat
     decide (s.enters = true) && decide (s.ready [.g a.toNat] [.g d.toNat] = true) && decide (x.toNat % 4 ≠ 0)) = true := by decide +kernel

open Sys2Proof.Machine Sys2Proof.Tests in
theorem Sys2Proof.Tests.witness_TrapsAndPrivilege :
    (let s := Control.states.getD 0 world
     decide (s.enters = true)) = true ∧
    (let s := Control.states.getD 1 world; let i : BitVec 8 := 0x00#8
     match exec (.trap i) s with
     | .next _ => (
     decide (s.cur < 4096) && decide (s.b.priv = true) && decide (bitAt s.faultq 0 = false)) | _ => false) = true := by decide +kernel

open Sys2Proof.Machine Sys2Proof.Tests in
theorem Sys2Proof.Tests.witness_ReturnFromException :
    (let s := Control.states.getD 1 world
     decide (s.b.priv = true)) = true ∧
    (let s := Control.states.getD 0 world
     decide (s.b.priv = false) && decide (s.enters = true)) = true := by decide +kernel

open Sys2Proof.Machine Sys2Proof.Tests in
theorem Sys2Proof.Tests.witness_AwaitedAndMarked :
    (let s := Control.states.getD 4 world; let d : BitVec 5 := 0x01#5; let a : BitVec 5 := 0x01#5; let b : BitVec 5 := 0x01#5
     decide ((s.awaits (.g d.toNat) || s.awaits (.g a.toNat) || s.awaits (.g b.toNat)) = true)) = true ∧
    (let s := Control.states.getD 3 world; let d : BitVec 5 := 0x01#5; let a : BitVec 5 := 0x01#5; let b : BitVec 5 := 0x01#5
     match s.b.mark (.g a.toNat) with
     | some _ => (
     decide (s.enters = true) && decide ((s.awaits (.g d.toNat) || s.awaits (.g a.toNat) || s.awaits (.g b.toNat)) = false)) | _ => false) = true ∧
    (let s := Control.states.getD 3 world; let d : BitVec 5 := 0x01#5; let a : BitVec 5 := 0x02#5; let b : BitVec 5 := 0x01#5
     match s.b.mark (.g b.toNat) with
     | some _ => (
     decide (s.enters = true) && decide (s.b.mark (.g a.toNat) = none) &&
       decide ((s.awaits (.g d.toNat) || s.awaits (.g a.toNat) || s.awaits (.g b.toNat)) = false)) | _ => false) = true := by decide +kernel

open Sys2Proof.Machine Sys2Proof.Tests in
theorem Sys2Proof.Tests.witness_ControlRegisters :
    (let s := Control.states.getD 0 world; let d : BitVec 5 := 0x01#5; let i : BitVec 8 := 0x00#8
     let user (w : Bool) : Bool := decide (i.toNat < 0x40) && !(w && 1 ≤ i.toNat && i.toNat ≤ 4)
     decide (s.ready [] [.g d.toNat] = true) && decide (csrAssigned i = true) && decide ((s.b.priv || user false) = true)) = true ∧
    (let s := Control.states.getD 0 world; let d : BitVec 5 := 0x01#5; let a : BitVec 5 := 0x01#5; let i : BitVec 8 := 0x00#8
     let user (w : Bool) : Bool := decide (i.toNat < 0x40) && !(w && 1 ≤ i.toNat && i.toNat ≤ 4)
     decide (s.ready [.g a.toNat] [.g d.toNat] = true) && decide (csrAssigned i = true) &&
       decide ((s.b.priv || user true) = true)) = true ∧
    (let s := Control.states.getD 0 world; let i : BitVec 8 := 0x40#8
     let user (w : Bool) : Bool := decide (i.toNat < 0x40) && !(w && 1 ≤ i.toNat && i.toNat ≤ 4)
     decide (s.b.priv = false) && decide (s.enters = true) && decide (csrAssigned i = true) && decide (user false = false)) = true ∧
    (let s := Control.states.getD 0 world; let i : BitVec 8 := 0x01#8
     let user (w : Bool) : Bool := decide (i.toNat < 0x40) && !(w && 1 ≤ i.toNat && i.toNat ≤ 4)
     decide (s.b.priv = false) && decide (s.enters = true) && decide (csrAssigned i = true) && decide (user true = false)) = true ∧
    (let s := Control.states.getD 0 world; let i : BitVec 8 := 0x07#8
     decide (s.enters = true) && decide (csrAssigned i = false)) = true ∧
    (let s := Control.states.getD 0 world; let d : BitVec 5 := 0x01#5; let a : BitVec 5 := 0x01#5; let i : BitVec 8 := 0x00#8
     let n : Nat := 0
     decide (s.ready [.g a.toNat] [.g d.toNat] = true) && decide (csrAssigned i = true) &&
       decide ((s.b.priv || csrUser i.toNat true) = true) && decide (n ≠ d.toNat)) = true := by decide +kernel

namespace Sys2Proof.Tests.Waits

open Sys2Proof.Machine

def armed : Nat := ({ expected := 3, arrived := 1, early := 0, phase := 9, armed := true, rsv := 0, tmo := 77 } : Bar).word
abbrev wr := put
/-- The states of the witnesses below. -/
def states : List State :=
  [world,
    World { bank with g := [(1, 0x50000100000)]},
    { World bank with groups := world.groups.map fun e => (e.1, { e.2 with recs := 1 })},
    service svcReset,
    service { svcReset with g := [(1, 13), (2, 5)] },
    service { svcReset with xtab := 0x8008, g := [(1, 0x50000100000),(2,4096)] },
    wr (service { svcReset with xtab := 0x8008, g := [(1, 0x50000100000),(2,4096)]}) 0x100000 16 armed,
    wr (World {bank with g := [(1, 0x50000100000)]}) 0x100000 16 armed,
    { World bank with groups := world.groups.map fun e => (e.1, { e.2 with recs := 2 }), conts := world.conts ++ [(cid + 1, { st := .waiting, place := .time 5 })] },
    { World bank with groups := world.groups.map fun e => (e.1, { e.2 with st := .preempting }) },
    World { bank with stat := 1 }]

end Sys2Proof.Tests.Waits

open Sys2Proof.Machine Sys2Proof.Tests in
theorem Sys2Proof.Tests.witness_SuspensionPoints :
    (let s := Waits.states.getD 0 world; let a : BitVec 5 := 0x02#5; let c : Nat := 1099511627776
     let x := s.b.gpr a.toNat
     decide (s.ready [.g a.toNat] [] = true) && decide (s.suspends c = true) && decide (x.toNat ≤ s.time)) = true ∧
    (let s := Waits.states.getD 0 world; let a : BitVec 5 := 0x01#5; let c : Nat := 1099511627776
     let x := s.b.gpr a.toNat
     decide (s.ready [.g a.toNat] [] = true) && decide (s.suspends c = true) && decide (s.time < x.toNat)) = true ∧
    (let s := Waits.states.getD 0 world; let c : Nat := 1099511627776; let r : Nat := 1
     decide (s.suspends c = true) && decide ((s.group (contGroup c)).spawnq = []) && decide (r ≠ s.cur)) = true ∧
    (let s := Waits.states.getD 0 world; let a : BitVec 5 := 0x01#5; let c : Nat := 1099511627776; let y : Nat := 0
     match s.freeRecord (contGroup c) with
     | some i => (
     let x := s.b.gpr a.toNat
     let e := contId (contGroup c) i
     decide (s.b.priv = false) && decide (s.ready [.g a.toNat] [] = true) && decide (s.suspends c = true) &&
       decide (x.toNat % 4 = 0) && decide (¬ s.inRecord c y) && decide (¬ s.inRecord e y)) | _ => false) = true ∧
    (let s := Waits.states.getD 2 world; let a : BitVec 5 := 0x01#5; let c : Nat := 1099511627776
     let x := s.b.gpr a.toNat
     decide (s.b.priv = false) && decide (s.ready [.g a.toNat] [] = true) && decide (s.suspends c = true) &&
       decide (s.freeRecord (contGroup c) = none) && decide (x.toNat % 4 = 0)) = true ∧
    (let s := Waits.states.getD 0 world; let a : BitVec 5 := 0x02#5; let c : Nat := 1099511627776
     let x := s.b.gpr a.toNat
     decide (s.b.priv = false) && decide (s.enters = true) && decide (s.ready [.g a.toNat] [] = true) &&
       decide (s.suspends c = true) && decide (x.toNat % 4 ≠ 0)) = true ∧
    (let s := Waits.states.getD 8 world; let a : BitVec 5 := 0x01#5; let c : Nat := 1099511627776
     decide (s.b.priv = false) && decide (s.ready [.g a.toNat] [] = true) && decide (s.suspends c = true) &&
       decide (s.freeRecord (contGroup c) = none) && decide ((s.b.gpr a.toNat).toNat % 4 = 0) &&
       decide (∃ d ∈ s.liveConts (contGroup c), d ≠ c ∧ (s.cont d).st ≠ .spawnWait)) = true ∧
    (let s := Waits.states.getD 9 world; let a : BitVec 5 := 0x01#5; let c : Nat := 1099511627776
     match s.freeRecord (contGroup c) with
     | some _ => (
     decide (s.b.priv = false) && decide (s.ready [.g a.toNat] [] = true) && decide (s.atSuspension c = true) &&
       decide ((s.group (contGroup c)).holds = true) && decide ((s.b.gpr a.toNat).toNat % 4 = 0)) | _ => false) = true ∧
    (let s := Waits.states.getD 10 world
     decide (s.cur < 4096) && decide (s.b.priv = true)) = true ∧
    (let s := Waits.states.getD 3 world
     decide (isSvc s.cur = true) && decide (s.loadsDone s.cur = true)) = true := by decide +kernel

open Sys2Proof.Machine Sys2Proof.Tests in
theorem Sys2Proof.Tests.witness_SemaphoreAndBarrierWaits :
    (let s := Waits.states.getD 0 world; let a : BitVec 5 := 0x02#5; let b : BitVec 5 := 0x01#5; let c : Nat := 1099511627776
     let y : Nat := 0
     match s.semIndex (s.b.gpr a.toNat) with
     | some _ => (
     decide (s.ready [.g a.toNat, .g b.toNat] [] = true) && decide (s.suspends c = true) && decide (¬ s.inRecord c y)) | _ => false) = true ∧
    (let s := Waits.states.getD 0 world; let a : BitVec 5 := 0x02#5; let b : BitVec 5 := 0x03#5; let c : Nat := 1099511627776
     match s.semIndex (s.b.gpr a.toNat) with
     | some n => (
     let thr := (s.b.gpr b.toNat).toNat % 2 ^ 32
     let q := s.sem n
     decide (s.ready [.g a.toNat, .g b.toNat] [] = true) && decide (s.suspends c = true) && decide (thr ≤ q.count)) | _ => false) = true ∧
    (let s := Waits.states.getD 0 world; let a : BitVec 5 := 0x02#5; let b : BitVec 5 := 0x01#5; let c : Nat := 1099511627776
     match s.semIndex (s.b.gpr a.toNat) with
     | some n => (
     let thr := (s.b.gpr b.toNat).toNat % 2 ^ 32
     let q := s.sem n
     decide (s.ready [.g a.toNat, .g b.toNat] [] = true) && decide (s.suspends c = true) && decide (q.count < thr)) | _ => false) = true ∧
    (let s := Waits.states.getD 3 world; let a : BitVec 5 := 0x01#5; let b : BitVec 5 := 0x01#5
     match s.semIndex (s.b.gpr a.toNat) with
     | some n => (
     let thr := (s.b.gpr b.toNat).toNat % 2 ^ 32
     let q := s.sem n
     decide (isSvc s.cur = true) && decide (s.ready [.g a.toNat, .g b.toNat] [] = true) && decide (thr ≤ q.count)) | _ => false) = true ∧
    (let s := Waits.states.getD 4 world; let a : BitVec 5 := 0x01#5; let b : BitVec 5 := 0x01#5
     match s.semIndex (s.b.gpr a.toNat) with
     | some n => (
     let thr := (s.b.gpr b.toNat).toNat % 2 ^ 32
     let q := s.sem n
     decide (isSvc s.cur = true) && decide (s.ready [.g a.toNat, .g b.toNat] [] = true) && decide (q.count < thr)) | _ => false) = true ∧
    (let s := Waits.states.getD 0 world; let a : BitVec 5 := 0x01#5; let b : BitVec 5 := 0x01#5
     decide (s.enters = true) && decide (s.semIndex (s.b.gpr a.toNat) = none) &&
       decide (s.ready [.g a.toNat, .g b.toNat] [] = true)) = true ∧
    (let s := Waits.states.getD 1 world; let a : BitVec 5 := 0x01#5; let c : Nat := 1099511627776; let y : Nat := 0
     let x := (s.b.gpr a.toNat).toNat
     match s.access (.bar false) x 16 0 with
     | (.ok pa _ _, u) => (
     let cl := clusterOf s.cur
     match u.readAt cl pa 16 with
     | (_, none, _) => (
     decide (s.ready [.g a.toNat] [] = true) && decide (s.suspends c = true) && decide (¬ s.inRecord c y)) | _ => false) | _ => false) = true ∧
    (let s := Waits.states.getD 1 world; let a : BitVec 5 := 0x01#5; let c : Nat := 1099511627776
     let x := (s.b.gpr a.toNat).toNat
     match s.access (.bar false) x 16 0 with
     | (.ok pa _ _, u) => (
     let cl := clusterOf s.cur
     match u.readAt cl pa 16 with
     | (_, none, v) => (
     let k := cellKey cl (paLocal pa)
     let o := barOf (v.num k 16)
     (List.range 16).all (fun j => decide (¬ s.inRecord c (k + j))) &&
     decide (s.ready [.g a.toNat] [] = true) && decide (s.suspends c = true) && decide (o.armed = false)) | _ => false) | _ => false) = true ∧
    (let s := Waits.states.getD 7 world; let a : BitVec 5 := 0x01#5; let c : Nat := 1099511627776
     let x := (s.b.gpr a.toNat).toNat
     match s.access (.bar false) x 16 0 with
     | (.ok pa _ _, u) => (
     let cl := clusterOf s.cur
     match u.readAt cl pa 16 with
     | (_, none, v) => (
     let k := cellKey cl (paLocal pa)
     let o := barOf (v.num k 16)
     (List.range 16).all (fun j => decide (¬ s.inRecord c (k + j))) &&
     decide (s.ready [.g a.toNat] [] = true) && decide (s.suspends c = true) && decide (o.armed = true)) | _ => false) | _ => false) = true ∧
    (let s := Waits.states.getD 5 world; let a : BitVec 5 := 0x01#5
     let x := (s.b.gpr a.toNat).toNat
     match s.access (.bar false) x 16 0 with
     | (.ok pa _ _, u) => (
     let cl := clusterOf s.cur
     match u.readAt cl pa 16 with
     | (w, none, _) => (
     decide (isSvc s.cur = true) && decide (s.ready [.g a.toNat] [] = true) && decide ((barOf w).armed = false)) | _ => false) | _ => false) = true ∧
    (let s := Waits.states.getD 6 world; let a : BitVec 5 := 0x01#5
     let x := (s.b.gpr a.toNat).toNat
     match s.access (.bar false) x 16 0 with
     | (.ok pa _ _, u) => (
     let cl := clusterOf s.cur
     match u.readAt cl pa 16 with
     | (w, none, _) => (
     decide (isSvc s.cur = true) && decide (s.ready [.g a.toNat] [] = true) && decide ((barOf w).armed = true)) | _ => false) | _ => false) = true := by decide +kernel

namespace Sys2Proof.Tests.PlainReads

open Sys2Proof.Machine

/-- The states of the witnesses below. -/
def states : List State :=
  [at' 0x100000]

end Sys2Proof.Tests.PlainReads

open Sys2Proof.Machine Sys2Proof.Tests in
theorem Sys2Proof.Tests.witness_PlainReads :
    (let s := PlainReads.states.getD 0 world; let pa : Nat := 0; let n : Nat := 1; let i : Nat := 0
     decide (s.plain pa = true) && decide (0 < n) && decide (paLocal pa % 64 + n ≤ 64) && decide (i < n)) = true ∧
    (let s := PlainReads.states.getD 0 world; let pa : Nat := 0; let n : Nat := 1; let va : Nat := 0
     match (s.ctxOf s.cur).exts with
     | some l => (
     match findExt l va with
     | some _ => (
     decide (s.plain pa = true) && decide (0 < n) && decide (paLocal pa % 64 + n ≤ 64) && decide (va < 2 ^ 55)) | _ => false) | _ => false) = true := by decide +kernel

namespace Sys2Proof.Tests.Loads

open Sys2Proof.Machine

/-- The states of the witnesses below. -/
def states : List State :=
  [at' 0x100040,
    { at' 0x100040 with late := true },
    far 0x100000000040]

end Sys2Proof.Tests.Loads

open Sys2Proof.Machine Sys2Proof.Tests in
theorem Sys2Proof.Tests.witness_Loads :
    (let s := Loads.states.getD 0 world; let d : BitVec 5 := 1; let b : BitVec 5 := 1; let z : BitVec 2 := 3; let _o : BitVec 1 := 0
     let _c : BitVec 2 := 0; let f : BitVec 9 := 0
     let off (k : Nat) : Word := s.b.gpr b.toNat + BitVec.ofInt 64 (f.toInt * k)
     let n := 2 ^ z.toNat
     match s.access .ld (off n).toNat n 0 with
     | (.ok pa _ _, u) => (
     decide (s.clear = true) && decide (s.ready [.g b.toNat] [] = true) && decide (s.ready [] [.g d.toNat] = true) &&
       decide (u.own pa = true) && decide (s.late = false) && decide (bitAt s.choice 3 = false)) | _ => false) = true ∧
    (let s := Loads.states.getD 0 world; let b : BitVec 5 := 1; let v : BitVec 4 := 3; let _o : BitVec 1 := 0; let _c : BitVec 2 := 0
     let f : BitVec 9 := 0
     let off (k : Nat) : Word := s.b.gpr b.toNat + BitVec.ofInt 64 (f.toInt * k)
     match s.access .ldv (off 64).toNat 64 0 with
     | (.ok pa _ _, u) => (
     decide (s.clear = true) && decide (s.ready [.g b.toNat] [] = true) && decide (s.ready [] [.v v.toNat] = true) &&
       decide (u.own pa = true) && decide (s.late = false) && decide (bitAt s.choice 3 = false)) | _ => false) = true ∧
    (let s := Loads.states.getD 1 world; let d : BitVec 5 := 1; let b : BitVec 5 := 1; let z : BitVec 2 := 3; let _o : BitVec 1 := 0
     let _c : BitVec 2 := 0; let f : BitVec 9 := 0
     let off (k : Nat) : Word := s.b.gpr b.toNat + BitVec.ofInt 64 (f.toInt * k)
     let n := 2 ^ z.toNat
     match s.access .ld (off n).toNat n 0 with
     | (.ok pa _ _, u) => (
     decide (s.clear = true) && decide (s.ready [.g b.toNat] [] = true) && decide (s.ready [] [.g d.toNat] = true) &&
       decide (u.own pa = true) && decide (s.late = true)) | _ => false) = true ∧
    (let s := Loads.states.getD 1 world; let b : BitVec 5 := 1; let v : BitVec 4 := 3; let _o : BitVec 1 := 0; let _c : BitVec 2 := 0
     let f : BitVec 9 := 0
     let off (k : Nat) : Word := s.b.gpr b.toNat + BitVec.ofInt 64 (f.toInt * k)
     match s.access .ldv (off 64).toNat 64 0 with
     | (.ok pa _ _, u) => (
     decide (s.clear = true) && decide (s.ready [.g b.toNat] [] = true) && decide (s.ready [] [.v v.toNat] = true) &&
       decide (u.own pa = true) && decide (s.late = true)) | _ => false) = true ∧
    (let s := Loads.states.getD 2 world; let d : BitVec 5 := 1; let b : BitVec 5 := 1; let z : BitVec 2 := 3; let _o : BitVec 1 := 0
     let _c : BitVec 2 := 0; let f : BitVec 9 := 0
     let off (k : Nat) : Word := s.b.gpr b.toNat + BitVec.ofInt 64 (f.toInt * k)
     let n := 2 ^ z.toNat
     match s.access .ld (off n).toNat n 0 with
     | (.ok pa _ _, u) => (
     decide (s.clear = true) && decide (s.ready [.g b.toNat] [] = true) && decide (s.ready [] [.g d.toNat] = true) &&
       decide (u.own pa = false)) | _ => false) = true ∧
    (let s := Loads.states.getD 2 world; let b : BitVec 5 := 1; let v : BitVec 4 := 3; let _o : BitVec 1 := 0; let _c : BitVec 2 := 0
     let f : BitVec 9 := 0
     let off (k : Nat) : Word := s.b.gpr b.toNat + BitVec.ofInt 64 (f.toInt * k)
     match s.access .ldv (off 64).toNat 64 0 with
     | (.ok pa _ _, u) => (
     decide (s.clear = true) && decide (s.ready [.g b.toNat] [] = true) && decide (s.ready [] [.v v.toNat] = true) &&
       decide (u.own pa = false)) | _ => false) = true := by decide +kernel

namespace Sys2Proof.Tests.Stores

open Sys2Proof.Machine

/-- The states of the witnesses below. -/
def states : List State :=
  [at' 0x100040,
    { service { svcReset with xtab := 0x8008, g := [(1, 0x3f800600010), (2, 1000)] } with cur := 4096 },
    { at' 0x100040 with late := true },
    far 0x100000000040]

end Sys2Proof.Tests.Stores

open Sys2Proof.Machine Sys2Proof.Tests in
theorem Sys2Proof.Tests.witness_Stores :
    (let s := Stores.states.getD 0 world; let r : BitVec 5 := 2; let b : BitVec 5 := 1; let z : BitVec 2 := 3; let _o : BitVec 1 := 0
     let _c : BitVec 2 := 0; let f : BitVec 9 := 0
     let off (k : Nat) : Word := s.b.gpr b.toNat + BitVec.ofInt 64 (f.toInt * k)
     let n := 2 ^ z.toNat
     match s.access .st (off n).toNat n 0 with
     | (.ok pa _ _, u) => (
     decide (s.clear = true) && decide (s.ready [.g b.toNat] [] = true) && decide (s.ready [.g r.toNat] [] = true) &&
       decide (u.own pa = true) && decide (s.late = false) && decide (isDevice (paLocal pa) = false)) | _ => false) = true ∧
    (let s := Stores.states.getD 0 world; let b : BitVec 5 := 1; let v : BitVec 4 := 3; let _o : BitVec 1 := 0; let _c : BitVec 2 := 0
     let f : BitVec 9 := 0
     let off (k : Nat) : Word := s.b.gpr b.toNat + BitVec.ofInt 64 (f.toInt * k)
     match s.access .stv (off 64).toNat 64 0 with
     | (.ok pa _ _, u) => (
     decide (s.clear = true) && decide (s.ready [.g b.toNat] [] = true) && decide (s.ready [.v v.toNat] [] = true) &&
       decide (u.own pa = true) && decide (s.late = false) && decide (isDevice (paLocal pa) = false)) | _ => false) = true ∧
    (let s := Stores.states.getD 1 world; let r : BitVec 5 := 2; let b : BitVec 5 := 1; let z : BitVec 2 := 3; let _o : BitVec 1 := 0
     let _c : BitVec 2 := 0; let f : BitVec 9 := 0
     let off (k : Nat) : Word := s.b.gpr b.toNat + BitVec.ofInt 64 (f.toInt * k)
     let n := 2 ^ z.toNat
     match s.access .st (off n).toNat n 0 with
     | (.ok pa _ _, u) => (
     decide (s.clear = true) && decide (s.ready [.g b.toNat] [] = true) && decide (s.ready [.g r.toNat] [] = true) &&
       decide (u.own pa = true) && decide (s.late = false) && decide (isDevice (paLocal pa) = true)) | _ => false) = true ∧
    (let s := Stores.states.getD 2 world; let r : BitVec 5 := 2; let b : BitVec 5 := 1; let z : BitVec 2 := 3; let _o : BitVec 1 := 0
     let _c : BitVec 2 := 0; let f : BitVec 9 := 0
     let off (k : Nat) : Word := s.b.gpr b.toNat + BitVec.ofInt 64 (f.toInt * k)
     let n := 2 ^ z.toNat
     match s.access .st (off n).toNat n 0 with
     | (.ok pa _ _, u) => (
     decide (s.clear = true) && decide (s.ready [.g b.toNat] [] = true) && decide (s.ready [.g r.toNat] [] = true) &&
       decide (u.own pa = true) && decide (s.late = true)) | _ => false) = true ∧
    (let s := Stores.states.getD 2 world; let b : BitVec 5 := 1; let v : BitVec 4 := 3; let _o : BitVec 1 := 0; let _c : BitVec 2 := 0
     let f : BitVec 9 := 0
     let off (k : Nat) : Word := s.b.gpr b.toNat + BitVec.ofInt 64 (f.toInt * k)
     match s.access .stv (off 64).toNat 64 0 with
     | (.ok pa _ _, u) => (
     decide (s.clear = true) && decide (s.ready [.g b.toNat] [] = true) && decide (s.ready [.v v.toNat] [] = true) &&
       decide (u.own pa = true) && decide (s.late = true)) | _ => false) = true ∧
    (let s := Stores.states.getD 3 world; let r : BitVec 5 := 2; let b : BitVec 5 := 1; let z : BitVec 2 := 3; let _o : BitVec 1 := 0
     let _c : BitVec 2 := 0; let f : BitVec 9 := 0
     let off (k : Nat) : Word := s.b.gpr b.toNat + BitVec.ofInt 64 (f.toInt * k)
     let n := 2 ^ z.toNat
     match s.access .st (off n).toNat n 0 with
     | (.ok pa _ _, u) => (
     decide (s.clear = true) && decide (s.ready [.g b.toNat] [] = true) && decide (s.ready [.g r.toNat] [] = true) &&
       decide (u.own pa = false)) | _ => false) = true ∧
    (let s := Stores.states.getD 3 world; let b : BitVec 5 := 1; let v : BitVec 4 := 3; let _o : BitVec 1 := 0; let _c : BitVec 2 := 0
     let f : BitVec 9 := 0
     let off (k : Nat) : Word := s.b.gpr b.toNat + BitVec.ofInt 64 (f.toInt * k)
     match s.access .stv (off 64).toNat 64 0 with
     | (.ok pa _ _, u) => (
     decide (s.clear = true) && decide (s.ready [.g b.toNat] [] = true) && decide (s.ready [.v v.toNat] [] = true) &&
       decide (u.own pa = false)) | _ => false) = true := by decide +kernel

namespace Sys2Proof.Tests.MisalignedAccess

open Sys2Proof.Machine

/-- The states of the witnesses below. -/
def states : List State :=
  [at' 0x100041]

end Sys2Proof.Tests.MisalignedAccess

open Sys2Proof.Machine Sys2Proof.Tests in
theorem Sys2Proof.Tests.witness_MisalignedAccess :
    (let s := MisalignedAccess.states.getD 0 world; let r : BitVec 5 := 0x01#5; let b : BitVec 5 := 0x01#5
     let z : BitVec 2 := 0x2#2; let f : BitVec 9 := 0x000#9
     let off (k : Nat) : Word := s.b.gpr b.toNat + BitVec.ofInt 64 (f.toInt * k)
     let n := 2 ^ z.toNat
     decide (s.clear = true) && decide (s.enters = true) && decide (s.ready [.g b.toNat] [.g r.toNat] = true) &&
       decide ((off n).toNat % n ≠ 0)) = true ∧
    (let s := MisalignedAccess.states.getD 0 world; let r : BitVec 5 := 0x01#5; let b : BitVec 5 := 0x01#5
     let z : BitVec 2 := 0x2#2; let f : BitVec 9 := 0x000#9
     let off (k : Nat) : Word := s.b.gpr b.toNat + BitVec.ofInt 64 (f.toInt * k)
     let n := 2 ^ z.toNat
     decide (s.clear = true) && decide (s.enters = true) && decide (s.ready [.g r.toNat, .g b.toNat] [] = true) &&
       decide ((off n).toNat % n ≠ 0)) = true ∧
    (let s := MisalignedAccess.states.getD 0 world; let b : BitVec 5 := 0x01#5; let v : BitVec 4 := 0x3#4
     let f : BitVec 9 := 0x000#9
     let off (k : Nat) : Word := s.b.gpr b.toNat + BitVec.ofInt 64 (f.toInt * k)
     decide (s.clear = true) && decide (s.enters = true) && decide (s.ready [.g b.toNat] [.v v.toNat] = true) &&
       decide ((off 64).toNat % 64 ≠ 0)) = true ∧
    (let s := MisalignedAccess.states.getD 0 world; let b : BitVec 5 := 0x01#5; let v : BitVec 4 := 0x3#4
     let f : BitVec 9 := 0x000#9
     let off (k : Nat) : Word := s.b.gpr b.toNat + BitVec.ofInt 64 (f.toInt * k)
     decide (s.clear = true) && decide (s.enters = true) && decide (s.ready [.v v.toNat, .g b.toNat] [] = true) &&
       decide ((off 64).toNat % 64 ≠ 0)) = true := by decide +kernel

namespace Sys2Proof.Tests.ReadModifyWrites

open Sys2Proof.Machine

/-- The states of the witnesses below. -/
def states : List State :=
  [at' 0x50000100040,
    far 0x120000000040]

end Sys2Proof.Tests.ReadModifyWrites

open Sys2Proof.Machine Sys2Proof.Tests in
theorem Sys2Proof.Tests.witness_ReadModifyWrites :
    (let s := ReadModifyWrites.states.getD 0 world; let d : BitVec 5 := 2; let b : BitVec 5 := 1; let r : BitVec 5 := 2; let z : BitVec 1 := 1
     match s.access .rmw (s.b.gpr b.toNat).toNat (if z = 0 then 4 else 8) 0 with
     | (.ok pa _ _, u) => (
     decide (s.clear = true) && decide (s.ready [.g r.toNat, .g b.toNat] [.g d.toNat] = true) &&
       decide (s.b.mark (.g d.toNat) = none) && decide (u.own pa = true)) | _ => false) = true ∧
    (let s := ReadModifyWrites.states.getD 1 world; let d : BitVec 5 := 2; let b : BitVec 5 := 1; let r : BitVec 5 := 2; let z : BitVec 1 := 1
     match s.access .rmw (s.b.gpr b.toNat).toNat (if z = 0 then 4 else 8) 0 with
     | (.ok pa _ _, u) => (
     decide (s.clear = true) && decide (s.ready [.g r.toNat, .g b.toNat] [.g d.toNat] = true) &&
       decide (s.b.mark (.g d.toNat) = none) && decide (u.own pa = false)) | _ => false) = true := by decide +kernel

namespace Sys2Proof.Tests.IndexedAccesses

open Sys2Proof.Machine

/-- The states of the witnesses below. -/
def states : List State :=
  [at' 0x100000]

end Sys2Proof.Tests.IndexedAccesses

open Sys2Proof.Machine Sys2Proof.Tests in
theorem Sys2Proof.Tests.witness_IndexedAccesses :
    (let s := IndexedAccesses.states.getD 0 world; let d : BitVec 4 := 0x3#4; let a : BitVec 4 := 0x4#4; let k : BitVec 3 := 0x1#3
     let e : BitVec 1 := 0x0#1; let h : BitVec 3 := 0x1#3; let b : BitVec 5 := 0x01#5; let i : Nat := 8
     let w := if e = 0 then 4 else 8
     let n := 64 / w
     let key := fun y : LaneOp => cellKey (clusterOf s.cur) (paLocal y.pa)
     let on := fun i => (s.b.kreg k.toNat).getLsbD i
     let va := fun i => (s.b.gpr b.toNat + BitVec.ofNat 64 (elem (s.b.vreg a.toNat) (8 * w) i * 2 ^ h.toNat)).toNat
     match s.checkLanes .ldgv w va (fun _ => 0) ((List.range n).filter on) [] with
     | (.ok l, u) => (
     decide (s.clear = true) && decide (s.late = false) && decide (s.b.busy = none) && decide (s.b.todo = []) &&
       decide (s.ready [] [.v d.toNat] = true) && decide (s.ready [.v a.toNat, .g b.toNat] [] = true) && decide (i < n) &&
       decide (on i = false) && decide ((∀ y ∈ l, u.plain y.pa = true)) && decide ((∀ y ∈ l, u.poisonAt (key y) w = none))) | _ => false) = true ∧
    (let s := IndexedAccesses.states.getD 0 world; let d : BitVec 4 := 0x3#4; let a : BitVec 4 := 0x3#4; let k : BitVec 3 := 0x0#3
     let e : BitVec 1 := 0x0#1; let h : BitVec 3 := 0x2#3; let b : BitVec 5 := 0x01#5; let j : Nat := 0
     let w := if e = 0 then 4 else 8
     let n := 64 / w
     let on := fun i => (s.b.kreg k.toNat).getLsbD i
     let va := fun i => (s.b.gpr b.toNat + BitVec.ofNat 64 (elem (s.b.vreg a.toNat) (8 * w) i * 2 ^ h.toNat)).toNat
     let x := s.b.vreg d.toNat
     match s.checkLanes .stsv w va (elem x (8 * w)) ((List.range n).filter on) [] with
     | (.ok l, u) => (
     List.any (l) fun y => (
     let key := fun y : LaneOp => cellKey (clusterOf s.cur) (paLocal y.pa)
     decide (s.clear = true) && decide (s.late = false) && decide (s.b.busy = none) && decide (s.b.todo = []) &&
       decide (s.ready [.v d.toNat] [] = true) && decide (s.ready [.v a.toNat, .g b.toNat] [] = true) &&
       decide ((∀ y ∈ l, u.plain y.pa = true)) && decide ((∀ z ∈ l, y.lane < z.lane → key z + w ≤ key y ∨ key y + w ≤ key z)) &&
       decide (j < w))) | _ => false) = true ∧
    (let s := IndexedAccesses.states.getD 0 world; let d : BitVec 4 := 0x3#4; let a : BitVec 4 := 0x3#4; let k : BitVec 3 := 0x0#3
     let e : BitVec 1 := 0x0#1; let h : BitVec 3 := 0x2#3; let b : BitVec 5 := 0x01#5; let m : Nat := 0
     let w := if e = 0 then 4 else 8
     let n := 64 / w
     let on := fun i => (s.b.kreg k.toNat).getLsbD i
     let va := fun i => (s.b.gpr b.toNat + BitVec.ofNat 64 (elem (s.b.vreg a.toNat) (8 * w) i * 2 ^ h.toNat)).toNat
     let x := s.b.vreg d.toNat
     match s.checkLanes .stsv w va (elem x (8 * w)) ((List.range n).filter on) [] with
     | (.ok l, u) => (
     let key := fun y : LaneOp => cellKey (clusterOf s.cur) (paLocal y.pa)
     decide (s.clear = true) && decide (s.late = false) && decide (s.b.busy = none) && decide (s.b.todo = []) &&
       decide (s.ready [.v d.toNat] [] = true) && decide (s.ready [.v a.toNat, .g b.toNat] [] = true) &&
       decide ((∀ y ∈ l, u.plain y.pa = true)) && decide ((∀ y ∈ l, m < key y ∨ key y + w ≤ m))) | _ => false) = true := by decide +kernel

namespace Sys2Proof.Tests.CacheAndFence

open Sys2Proof.Machine

/-- The states of the witnesses below. -/
def states : List State :=
  [at' 0x100000]

end Sys2Proof.Tests.CacheAndFence

open Sys2Proof.Machine Sys2Proof.Tests in
theorem Sys2Proof.Tests.witness_CacheAndFence :
    (let s := CacheAndFence.states.getD 0 world; let b : BitVec 5 := 0x01#5
     decide (s.clear = true) && decide (s.ready [.g b.toNat] [] = true)) = true := by decide +kernel

namespace Sys2Proof.Tests.Updates

open Sys2Proof.Machine

def reg (op et : Nat) : Region := { d0 := 2^63 + 0x100000 + et * 256 + op * 16, d1 := 16, d2 := 0x300000, d3 := 100 }
def regw (a op et : Nat) : State := { at' a with regions := [(3, reg op et)], bins := [(homeSlice 0x100000, [{block := 0x100, keys := [{pa := 0x100000, flags := 1, acc := 77},{pa := 0x100008, flags := 1, acc := 78}] }])] }
/-- The states of the witnesses below. -/
def states : List State :=
  [regw 0x40000100000 2 2,
    { (at' 0x110000000040) with peerRegions := [(5,0,0x1000000,4)] }]

end Sys2Proof.Tests.Updates

open Sys2Proof.Machine Sys2Proof.Tests in
theorem Sys2Proof.Tests.witness_Updates :
    (let s := Updates.states.getD 1 world; let r : BitVec 5 := 0x01#5; let b : BitVec 5 := 0x01#5; let z : BitVec 1 := 0x0#1
     let f : BitVec 9 := 0x000#9
     match s.access .upd (s.b.gpr b.toNat + BitVec.ofInt 64 (f.toInt * (if z = 0 then 4 else 8))).toNat (if z = 0 then 4 else 8) 0 with
     | (.ok pa _ _, u) => (
     decide (s.clear = true) && decide (s.late = false) && decide (s.ready [.g r.toNat] [] = true) &&
       decide (s.ready [.g b.toNat] [] = true) && decide (u.own pa = false) && decide (u.regionEtype pa ≠ some 6)) | _ => false) = true ∧
    (let s := Updates.states.getD 0 world; let b : BitVec 5 := 0x01#5; let d : BitVec 4 := 0x3#4; let a : BitVec 4 := 0x3#4
     let k : BitVec 3 := 0x3#3; let e : BitVec 3 := 0x0#3; let h : BitVec 3 := 0x0#3
     let w := if e = 3 then 8 else 4
     let va := fun i => (s.b.gpr b.toNat + BitVec.ofNat 64 (elem (s.b.vreg a.toNat) (8 * w) i * 2 ^ h.toNat)).toNat
     match s.checkLanes (.vupd e.toNat) w va (elem (s.b.vreg d.toNat) (8 * w)) ((List.range (64 / w)).filter fun i => (s.b.kreg k.toNat).getLsbD i) [] with
     | (.ok l, u) => (
     decide (s.clear = true) && decide (s.late = false) && decide (s.b.busy = none) && decide (s.ready [.g b.toNat] [] = true) &&
       decide (s.ready [.v d.toNat, .v a.toNat] [] = true) && decide ((∀ y ∈ l, u.own y.pa = true))) | _ => false) = true ∧
    (let s := Updates.states.getD 0 world; let r : BitVec 5 := 0x01#5; let b : BitVec 5 := 0x01#5; let z : BitVec 1 := 0x0#1
     let f : BitVec 9 := 0x000#9
     match s.access .upd (s.b.gpr b.toNat + BitVec.ofInt 64 (f.toInt * (if z = 0 then 4 else 8))).toNat (if z = 0 then 4 else 8) 0 with
     | (.ok pa _ _, u) => (
     decide (s.clear = true) && decide (s.late = false) && decide (s.ready [.g r.toNat] [] = true) &&
       decide (s.ready [.g b.toNat] [] = true) && decide (u.own pa = true)) | _ => false) = true ∧
    ([0, 1].all (fun n =>
     let s := Updates.states.getD n world; let b : BitVec 5 := 0x01#5; let z2 : BitVec 2 := 0x2#2; let lit : BitVec 32 := 0x8#32
     match s.access .upd (s.b.gpr b.toNat + lit.signExtend 64).toNat (2 ^ z2.toNat) 0 with
     | (.ok pa _ _, u) => (
     decide (s.clear = true) && decide (s.late = false) && decide (s.ready [.g b.toNat] [] = true) &&
       decide (u.own pa = (n == 0))) | _ => false)) = true := by decide +kernel

namespace Sys2Proof.Tests.UpdateApplies

open Sys2Proof.Machine

def reg (op et : Nat) : Region := { d0 := 2^63 + 0x100000 + et * 256 + op * 16, d1 := 16, d2 := 0x300000, d3 := 100 }
def regw (a op et : Nat) : State := { at' a with regions := [(3, reg op et)], bins := [(homeSlice 0x100000, [{block := 0x100, keys := [{pa := 0x100000, flags := 1, acc := 77},{pa := 0x100008, flags := 1, acc := 78}] }])] }
/-- Every operator with an element type of its row. -/
def ops : List (Nat × Nat) :=
  [(1, 4), (1, 6), (2, 2), (3, 3), (4, 2), (5, 3), (6, 2), (7, 4), (8, 4), (9, 3), (10, 3), (11, 3), (12, 2)]
/-- The states of the witnesses below. -/
def states : List State :=
  [regw 0x40000100000 2 2] ++ ops.map fun o => { put (at' 0x40000100000) 0x100000 4 0x3f800000 with regions := [(3, reg o.1 o.2)] }

end Sys2Proof.Tests.UpdateApplies

open Sys2Proof.Machine Sys2Proof.Tests in
theorem Sys2Proof.Tests.witness_UpdateApplies :
    (let s := UpdateApplies.states.getD 0 world; let b : BitVec 5 := 0x01#5
     decide (s.clear = true) && decide (s.ready [.g b.toNat] [] = true)) = true ∧
    (let s := UpdateApplies.states.getD 0 world; let b : BitVec 5 := 0x01#5
     match s.access .uflush (s.b.gpr b.toNat).toNat 1 0 with
     | (.ok pa _ _, u) => (
     decide (u.own pa = true) && decide (isTier (paLocal pa) = true)) | _ => false) = true ∧
    ((List.range 13).all (fun n =>
     let s := UpdateApplies.states.getD (n + 1) world; let pa : Nat := 0x100000; let vs := [0x3f800000, 7]
     match s.regionAt pa with
     | some i => (
     let r := s.region i
     let w := updWidth r.etype
     let sl := homeSlice pa
     let exact : Fv → Int := fun v => match v with | .fin neg m e => signed neg m * 2 ^ (e + 149).toNat | _ => 0
     let xs := vs.map fun v => exact ((updFmt r.etype).decode v)
     decide ((r.op, r.etype) = UpdateApplies.ops.getD n (0, 0)) && decide (updRow r.op r.etype = true) && decide (pa % (w / 8) = 0) &&
       (s.binsOf sl).all (fun b => b.block != pa / 4096) && decide ((s.binsOf sl).length < 4096) &&
       (Tab.get [] s.logs i).all (fun x => x.2.pa / 4096 != pa / 4096) && decide (s.poisonAt pa (w / 8) = none) &&
       (List.range 3).all (fun j => decide (-(2 ^ 319 : Int) ≤ (xs.take j).sum ∧ (xs.take j).sum < 2 ^ 319))) | _ => false)) = true := by decide +kernel

namespace Sys2Proof.Tests.Queues

open Sys2Proof.Machine

def vb : Bank := { bank with v := [(1, 0x123456789abcdef), (3, ofElems 32 fun i => 16 * i + (if i = 3 then 2 else 0))], k := [(1, 0x00ff), (2, 0xa559)] }
def qw (b : Bank) (n : Nat) (q : Queue) : State := { World b with queues := [(queueKey gid n, q)] }
def qd (dir cap : Nat) : Nat := dir * 2^62 + cap * 2^36
def be1 : Beat := (List.range 16).foldl (fun b i => if i = 3 ∨ i = 7 ∨ i = 15 then b.put i 0 2 (0x100 + i) else if i = 9 then b.put 9 3 2 0x2000055 else if i = 12 then b.put 12 2 2 99 else b) emptyBeat
def be2 : Beat := emptyBeat.put 5 0 3 0xdead
def pkr (n q : Nat) : Packer := { q := q, n := n, beat := (List.range n).foldl (fun b i => b.put i 0 1 i) emptyBeat }
def full16 : List Beat := List.replicate 16 be1
/-- The states of the witnesses below. -/
def states : List State :=
  [qw vb 1 {d0 := qd 1 0, highw := 7, fstall := 8, lod := 9, d1 := 0x1234, disarmed := 15, beats := [be1,be2], estall := 3},
    qw { vb with packs := [pkr 14 1, pkr 2 4] } 1 {d0 := qd 1 0, beats := full16.drop 1},
    qw { vb with packs := [pkr 15 1, pkr 2 4] } 1 {d0 := qd 1 0, beats := full16},
    qw { vb with packs := [pkr 15 1, pkr 2 4] } 1 {d0 := qd 1 0, beats := full16.drop 2},
    qw { vb with packs := [pkr 1 0, pkr 2 4,pkr 3 5, pkr 4 6] } 1 {d0 := qd 1 0},
    qw vb 1 {d0 := qd 2 0, highw := 7, fstall := 8, lod := 9, d1 := 0x1234, beats := [be1,be2], popped := 0},
    qw vb 63 {d0 := qd 2 0, beats := [be1,be2], popped := 0},
    qw vb 1 {d0 := qd 2 0, beats := []},
    qw { vb with stat := 2^19 } 1 {d0 := qd 2 0, beats := [be1]}]

end Sys2Proof.Tests.Queues

open Sys2Proof.Machine Sys2Proof.Tests in
theorem Sys2Proof.Tests.witness_QueuePushes :
    (let s := Queues.states.getD 0 world; let v : BitVec 4 := 0x1#4; let n : BitVec 6 := 0x01#6
     let k := s.qk n.toNat
     let q := s.queue k
     let _ := s.partialBeat n.toNat
     let old := match s.b.packer n.toNat with | some p => [p.beat] | none => []
     decide (s.ready [.v v.toNat] [] = true) && decide (s.queueFree n.toNat 1 = true) && decide (old.length + 1 ≤ q.room)) = true ∧
    (let s := Queues.states.getD 0 world; let r : BitVec 5 := 0x00#5; let n : BitVec 6 := 0x01#6; let w : BitVec 1 := 0x0#1
     let p := s.partialBeat n.toNat
     decide (s.ready [.g r.toNat] [] = true) && decide (s.queueFree n.toNat 1 = true) &&
       decide ((s.b.packer n.toNat).isSome ∨ s.b.packs.length < 4) && decide (w = 0) && decide (p.n < 15)) = true ∧
    (let s := Queues.states.getD 3 world; let r : BitVec 5 := 0x00#5; let n : BitVec 6 := 0x01#6; let w : BitVec 1 := 0x0#1
     let k := s.qk n.toNat
     let q := s.queue k
     let p := s.partialBeat n.toNat
     decide (s.ready [.g r.toNat] [] = true) && decide (s.queueFree n.toNat 1 = true) &&
       decide ((s.b.packer n.toNat).isSome ∨ s.b.packs.length < 4) && decide (w = 0) && decide (0 < q.room) &&
       decide (p.n = 15)) = true ∧
    (let s := Queues.states.getD 0 world; let r : BitVec 5 := 0x00#5; let n : BitVec 6 := 0x01#6; let w : BitVec 1 := 0x1#1
     let p := s.partialBeat n.toNat
     decide (s.ready [.g r.toNat] [] = true) && decide (s.queueFree n.toNat 1 = true) &&
       decide ((s.b.packer n.toNat).isSome ∨ s.b.packs.length < 4) && decide (w = 1) && decide (p.n < 14)) = true ∧
    (let s := Queues.states.getD 1 world; let r : BitVec 5 := 0x00#5; let n : BitVec 6 := 0x01#6; let w : BitVec 1 := 0x1#1
     let k := s.qk n.toNat
     let q := s.queue k
     let p := s.partialBeat n.toNat
     decide (s.ready [.g r.toNat] [] = true) && decide (s.queueFree n.toNat 1 = true) &&
       decide ((s.b.packer n.toNat).isSome ∨ s.b.packs.length < 4) && decide (w = 1) && decide (0 < q.room) &&
       decide (p.n = 14)) = true ∧
    (let s := Queues.states.getD 3 world; let r : BitVec 5 := 0x00#5; let n : BitVec 6 := 0x01#6; let w : BitVec 1 := 0x1#1
     let k := s.qk n.toNat
     let q := s.queue k
     let p := s.partialBeat n.toNat
     decide (s.ready [.g r.toNat] [] = true) && decide (s.queueFree n.toNat 1 = true) &&
       decide ((s.b.packer n.toNat).isSome ∨ s.b.packs.length < 4) && decide (w = 1) && decide (0 < q.room) &&
       decide (p.n = 15)) = true ∧
    (let s := Queues.states.getD 0 world; let r : BitVec 5 := 0x00#5; let n : BitVec 6 := 0x01#6
     let k := s.qk n.toNat
     let q := s.queue k
     decide (s.ready [.g r.toNat] [] = true) && decide (s.queueFree n.toNat 1 = true) && decide (0 < q.room)) = true ∧
    (let s := Queues.states.getD 0 world; let n : BitVec 6 := 0x01#6
     let k := s.qk n.toNat
     let q := s.queue k
     decide (s.queueFree n.toNat 1 = true) && decide (0 < q.room)) = true ∧
    (let s := Queues.states.getD 0 world; let n : BitVec 6 := 0x01#6
     let k := s.qk n.toNat
     let q := s.queue k
     let _ := s.partialBeat n.toNat
     let old := match s.b.packer n.toNat with | some p => [p.beat] | none => []
     decide (s.queueFree n.toNat 1 = true) && decide (old.length ≤ q.room)) = true := by decide +kernel

open Sys2Proof.Machine Sys2Proof.Tests in
theorem Sys2Proof.Tests.witness_QueuePops :
    (let s := Queues.states.getD 6 world
     decide (s.queueFree 63 2 = true)) = true ∧
    (let s := Queues.states.getD 5 world; let v : BitVec 4 := 0x1#4; let n : BitVec 6 := 0x01#6; let km : BitVec 3 := 0x0#3
     let kd : BitVec 3 := 0x1#3; let i : Nat := 0
     match (s.queue (s.qk n.toNat)).beats with
     | _ :: _ => (
     decide (s.ready [] [.v v.toNat] = true) && decide (s.queueFree n.toNat 2 = true) && decide (kd ≠ 0) && decide (kd ≠ km) &&
       decide (i < 16)) | _ => false) = true ∧
    (let s := Queues.states.getD 5 world; let v : BitVec 4 := 0x1#4; let n : BitVec 6 := 0x01#6; let km : BitVec 3 := 0x1#3
     let i : Nat := 0
     match (s.queue (s.qk n.toNat)).beats with
     | _ :: _ => (
     decide (s.ready [] [.v v.toNat] = true) && decide (s.queueFree n.toNat 2 = true) && decide (km ≠ 0) && decide (i < 16)) | _ => false) = true := by decide +kernel

open Sys2Proof.Machine Sys2Proof.Tests in
theorem Sys2Proof.Tests.witness_QueueStatistics :
    (let s := Queues.states.getD 0 world; let d : BitVec 5 := 0x00#5; let n : BitVec 6 := 0x01#6; let clr : BitVec 1 := 0x0#1
     let sel : BitVec 7 := 0x00#7; let dir : Nat := 1
     match exec (.qstat d n clr sel) s with
     | .next _ => (
     decide (s.ready [] [.g d.toNat] = true) && decide (dir = 1 ∨ dir = 2) && decide (s.queueFree n.toNat dir = true)) | _ => false) = true ∧
    (let s := Queues.states.getD 5 world; let d : BitVec 5 := 0x00#5; let n : BitVec 6 := 0x01#6
     let k := s.qk n.toNat
     let q := s.queue k
     let want := Nat.min (s.b.gpr d.toNat).toNat q.cap
     decide (s.ready [.g d.toNat] [] = true) && decide (s.queueFree n.toNat 2 = true) && decide (want ≤ q.occ)) = true ∧
    (let s := Queues.states.getD 0 world; let d : BitVec 5 := 0x00#5; let n : BitVec 6 := 0x01#6
     let k := s.qk n.toNat
     let q := s.queue k
     let want := Nat.min (s.b.gpr d.toNat).toNat q.cap
     decide (s.ready [.g d.toNat] [] = true) && decide (s.queueFree n.toNat 1 = true) && decide (want ≤ q.room)) = true ∧
    (let s := Queues.states.getD 4 world; let d : BitVec 5 := 0x00#5; let n : BitVec 6 := 0x01#6
     let k := s.qk n.toNat
     let q := s.queue k
     decide (s.ready [.g d.toNat] [] = true) && decide (s.queueFree n.toNat 1 = true) && decide (s.b.packer n.toNat = none) &&
       decide (q.beats = [])) = true := by decide +kernel

open Sys2Proof.Machine Sys2Proof.Tests in
theorem Sys2Proof.Tests.witness_QueueStallsAndFaults :
    (let s := Queues.states.getD 2 world; let v : BitVec 4 := 0x1#4; let n : BitVec 6 := 0x01#6
     let k := s.qk n.toNat
     decide (s.ready [.v v.toNat] [] = true) && decide (s.queueFree n.toNat 1 = true) && decide ((s.queue k).room = 0)) = true ∧
    (let s := Queues.states.getD 2 world; let r : BitVec 5 := 0x00#5; let n : BitVec 6 := 0x01#6
     let k := s.qk n.toNat
     decide (s.ready [.g r.toNat] [] = true) && decide (s.queueFree n.toNat 1 = true) && decide ((s.queue k).room = 0)) = true ∧
    (let s := Queues.states.getD 7 world; let d : BitVec 5 := 0x00#5; let n : BitVec 6 := 0x01#6
     let k := s.qk n.toNat
     decide (s.ready [] [.g d.toNat] = true) && decide (s.queueFree n.toNat 2 = true) && decide ((s.queue k).beats = [])) = true ∧
    (let s := Queues.states.getD 0 world; let n : BitVec 6 := 0x3f#6
     decide (s.enters = true) && decide (s.queueOpen n.toNat 1 = false)) = true ∧
    (let s := Queues.states.getD 0 world; let n : BitVec 6 := 0x01#6
     decide (s.enters = true) && decide (s.queueOpen n.toNat 2 = false)) = true ∧
    (let s := Queues.states.getD 8 world; let n : BitVec 6 := 0x01#6
     decide (s.enters = true) && decide (s.b.graph = true) && decide (s.queueOpen n.toNat 2 = true)) = true := by decide +kernel

namespace Sys2Proof.Tests.Semaphores

open Sys2Proof.Machine

def sb (a x : Nat) : Bank := { bank with g := [(1, BitVec.ofNat 64 a), (2, BitVec.ofNat 64 x)] }
def wts : List SemWaiter := [{who := .svc 1, thr := 5},{who := .svc 2, thr := 9}, {who := .cont (cid+1), thr := 7}]
def conts2 : Tab Cont := world.conts ++ [(cid+1, {st := .waiting, place := .sem 13 7})]
/-- The states of the witnesses below. -/
def states : List State :=
  [{ World (sb 5 6) with conts := conts2, sems := [(13, {count := 2, waiters := wts})] },
    { World (sb 16 6) with conts := conts2, sems := [(13, {count := 2, waiters := wts})] }]

end Sys2Proof.Tests.Semaphores

open Sys2Proof.Machine Sys2Proof.Tests in
theorem Sys2Proof.Tests.witness_Semaphores :
    (let s := Semaphores.states.getD 0 world; let a : BitVec 5 := 0x01#5; let b : BitVec 5 := 0x01#5
     match s.semIndex (s.b.gpr a.toNat) with
     | some _ => (
     decide (s.clear = true) && decide (s.unlisted) && decide (s.ready [.g a.toNat, .g b.toNat] [] = true)) | _ => false) = true ∧
    (let s := Semaphores.states.getD 0 world; let d : BitVec 5 := 0x01#5; let a : BitVec 5 := 0x01#5
     match s.semIndex (s.b.gpr a.toNat) with
     | some _ => (
     decide (s.clear = true) && decide (s.ready [.g a.toNat] [.g d.toNat] = true)) | _ => false) = true ∧
    (let n : Nat := 0
     decide (n < 4096)) = true ∧
    (let s := Semaphores.states.getD 1 world; let a : BitVec 5 := 0x01#5; let b : BitVec 5 := 0x01#5
     decide (s.clear = true) && decide (s.enters = true) && decide (s.semIndex (s.b.gpr a.toNat) = none) &&
       decide (s.ready [.g a.toNat, .g b.toNat] [] = true)) = true ∧
    (let s := Semaphores.states.getD 1 world; let d : BitVec 5 := 0x01#5; let a : BitVec 5 := 0x01#5
     decide (s.clear = true) && decide (s.enters = true) && decide (s.semIndex (s.b.gpr a.toNat) = none) &&
       decide (s.ready [.g a.toNat] [.g d.toNat] = true)) = true := by decide +kernel

namespace Sys2Proof.Tests.BarrierObjects

open Sys2Proof.Machine

def armed (arr : Nat) (ph := 9): Nat := ({ expected := 3, arrived := arr, early := 7, phase := ph, armed := true, rsv := 5, tmo := 77 } : Bar).word
abbrev wr := put
def sb (a x : Nat) : Bank := { bank with g := [(1, BitVec.ofNat 64 a), (2, BitVec.ofNat 64 x)] }
def conts2 : Tab Cont := world.conts ++ [(cid+1, {st := .waiting, place := .sem 13 7})]
def bw (w : Who) (e : Nat) : BarWaiter := { who := w, phase := 9, expiry := e, va := 0x50000100000, epc := 0x777}
def bars2 : Tab (List BarWaiter) := [(0x100000, [bw (.svc 1) 1000000, bw (.cont (cid+1)) 999999]),(0x100010, [bw (.svc 0) 7])]
def mk (b : Bank) (w : Nat) : State := { (wr (World b) 0x100000 16 w) with conts := conts2, bars := bars2 }
/-- The states of the witnesses below. -/
def states : List State :=
  [mk (sb 0x50000100000 (2+ 5*2^32)) (armed 1),
    { far 0x120000000040 with conts := conts2 }]

end Sys2Proof.Tests.BarrierObjects

open Sys2Proof.Machine Sys2Proof.Tests in
theorem Sys2Proof.Tests.witness_BarrierObjects :
    (let s := BarrierObjects.states.getD 0 world; let a : BitVec 5 := 0x01#5; let b : BitVec 5 := 0x01#5
     match s.access (.bar true) (s.b.gpr a.toNat).toNat 16 0 with
     | (.ok _ _ _, _) => (
     decide (s.clear = true) && decide (s.unlisted) && decide (s.ready [.g a.toNat, .g b.toNat] [] = true)) | _ => false) = true ∧
    (let s := BarrierObjects.states.getD 0 world; let w : Who := Sys2Proof.Who.cont 1099511627777
     match s.barWaiter w with
     | some (_, y) => (
     match w with
     | .cont _ => (
     decide (y.expiry < s.time)) | _ => false) | _ => false) = true ∧
    (let s := BarrierObjects.states.getD 0 world; let w : Who := Sys2Proof.Who.svc 0
     match s.barWaiter w with
     | some (_, y) => (
     match w with
     | .svc n => (
     decide (y.expiry < s.time) && decide (s.loadsDone (4096 + n) = true)) | _ => false) | _ => false) = true ∧
    (let s := BarrierObjects.states.getD 1 world; let a : BitVec 5 := 1; let b : BitVec 5 := 2
     match s.access (.bar true) (s.b.gpr a.toNat).toNat 16 0 with
     | (.ok pa _ _, u) => (
     decide (s.clear = true) && decide (s.unlisted) && decide (s.ready [.g a.toNat, .g b.toNat] [] = true) &&
       decide (u.own pa = false)) | _ => false) = true := by decide +kernel

namespace Sys2Proof.Tests.TimeAndEventCounters

open Sys2Proof.Machine

def pf (x : Nat) : State := service { svcReset with xtab := 0x8008, g := [(1, BitVec.ofNat 64 x)] }
def pu (x : Nat) : State := World { bank with g := [(1, BitVec.ofNat 64 x)] }
/-- The states of the witnesses below. -/
def states : List State :=
  [pu 3,
    pf 0x100,
    pf 0x101,
    pf 0x2,
    pf 0x8010a,
    pf 0x10e,
    pf 0x201,
    pf 0x305,
    pf 0x401,
    pf 0x508,
    pu 0x100]

end Sys2Proof.Tests.TimeAndEventCounters

open Sys2Proof.Machine Sys2Proof.Tests in
theorem Sys2Proof.Tests.witness_TimeAndEventCounters :
    (let s := TimeAndEventCounters.states.getD 0 world; let d : BitVec 5 := 0x01#5; let a : BitVec 5 := 0x01#5
     let x := (s.b.gpr a.toNat).toNat
     let cls := x / 2 ^ 8 % 256
     let ev := x % 256
     let _inst := x / 2 ^ 16 % 2 ^ 16
     decide (s.ready [.g a.toNat] [.g d.toNat] = true) && decide (cls = 0 ∨ s.b.priv = true) && decide (cls = 0) && decide (ev ≤ 6)) = true ∧
    (let s := TimeAndEventCounters.states.getD 1 world; let d : BitVec 5 := 0x01#5; let a : BitVec 5 := 0x01#5
     let x := (s.b.gpr a.toNat).toNat
     let cls := x / 2 ^ 8 % 256
     let ev := x % 256
     let inst := x / 2 ^ 16 % 2 ^ 16
     decide (s.ready [.g a.toNat] [.g d.toNat] = true) && decide (cls = 0 ∨ s.b.priv = true) && decide (cls = 1) && decide (inst ≤ 9) && decide (ev = 0)) = true ∧
    (let s := TimeAndEventCounters.states.getD 2 world; let d : BitVec 5 := 0x01#5; let a : BitVec 5 := 0x01#5
     let x := (s.b.gpr a.toNat).toNat
     let cls := x / 2 ^ 8 % 256
     let ev := x % 256
     let inst := x / 2 ^ 16 % 2 ^ 16
     decide (s.ready [.g a.toNat] [.g d.toNat] = true) && decide (cls = 0 ∨ s.b.priv = true) && decide (cls = 1) && decide (inst ≤ 9) && decide (ev = 1)) = true ∧
    (let s := TimeAndEventCounters.states.getD 4 world; let d : BitVec 5 := 0x01#5; let a : BitVec 5 := 0x01#5
     let x := (s.b.gpr a.toNat).toNat
     let cls := x / 2 ^ 8 % 256
     let ev := x % 256
     let inst := x / 2 ^ 16 % 2 ^ 16
     decide (s.ready [.g a.toNat] [.g d.toNat] = true) && decide (cls = 0 ∨ s.b.priv = true) && decide (cls = 1) && decide (inst ≤ 9) && decide (2 ≤ ev) && decide (ev ≤ 0x0d)) = true ∧
    (let s := TimeAndEventCounters.states.getD 5 world; let d : BitVec 5 := 0x01#5; let a : BitVec 5 := 0x01#5
     let x := (s.b.gpr a.toNat).toNat
     let cls := x / 2 ^ 8 % 256
     let ev := x % 256
     let inst := x / 2 ^ 16 % 2 ^ 16
     decide (s.ready [.g a.toNat] [.g d.toNat] = true) && decide (cls = 0 ∨ s.b.priv = true) && decide (cls = 1) && decide (inst ≤ 9) && decide (ev = 0x0e)) = true ∧
    (let s := TimeAndEventCounters.states.getD 6 world; let d : BitVec 5 := 0x01#5; let a : BitVec 5 := 0x01#5
     let x := (s.b.gpr a.toNat).toNat
     let cls := x / 2 ^ 8 % 256
     let ev := x % 256
     let inst := x / 2 ^ 16 % 2 ^ 16
     decide (s.ready [.g a.toNat] [.g d.toNat] = true) && decide (cls = 0 ∨ s.b.priv = true) && decide (cls = 2) && decide (inst ≤ 35) && decide (ev ≤ 3)) = true ∧
    (let s := TimeAndEventCounters.states.getD 7 world; let d : BitVec 5 := 0x01#5; let a : BitVec 5 := 0x01#5
     let x := (s.b.gpr a.toNat).toNat
     let cls := x / 2 ^ 8 % 256
     let ev := x % 256
     let inst := x / 2 ^ 16 % 2 ^ 16
     decide (s.ready [.g a.toNat] [.g d.toNat] = true) && decide (cls = 0 ∨ s.b.priv = true) && decide (cls = 3) && decide (inst ≤ 143) && decide (ev ≤ 6)) = true ∧
    (let s := TimeAndEventCounters.states.getD 8 world; let d : BitVec 5 := 0x01#5; let a : BitVec 5 := 0x01#5
     let x := (s.b.gpr a.toNat).toNat
     let cls := x / 2 ^ 8 % 256
     let ev := x % 256
     let inst := x / 2 ^ 16 % 2 ^ 16
     decide (s.ready [.g a.toNat] [.g d.toNat] = true) && decide (cls = 0 ∨ s.b.priv = true) && decide (cls = 4) && decide (inst ≤ 9) && decide (ev ≤ 1)) = true ∧
    (let s := TimeAndEventCounters.states.getD 9 world; let d : BitVec 5 := 0x01#5; let a : BitVec 5 := 0x01#5
     let x := (s.b.gpr a.toNat).toNat
     let cls := x / 2 ^ 8 % 256
     let ev := x % 256
     let inst := x / 2 ^ 16 % 2 ^ 16
     decide (s.ready [.g a.toNat] [.g d.toNat] = true) && decide (cls = 0 ∨ s.b.priv = true) && decide (¬ ((cls = 0 ∧ ev ≤ 6) ∨ (cls = 1 ∧ inst ≤ 9 ∧ ev ≤ 0x0e) ∨ (cls = 2 ∧ inst ≤ 35 ∧ ev ≤ 3) ∨ (cls = 3 ∧ inst ≤ 143 ∧ ev ≤ 6) ∨ (cls = 4 ∧ inst ≤ 9 ∧ ev ≤ 1)))) = true ∧
    (let s := TimeAndEventCounters.states.getD 10 world; let d : BitVec 5 := 0x01#5; let a : BitVec 5 := 0x01#5
     let x := (s.b.gpr a.toNat).toNat
     let cls := x / 2 ^ 8 % 256
     let _ev := x % 256
     let _inst := x / 2 ^ 16 % 2 ^ 16
     decide (s.ready [.g a.toNat] [.g d.toNat] = true) && decide (cls ≠ 0) && decide (s.b.priv = false) && decide (s.enters = true)) = true := by decide +kernel

namespace Sys2Proof.Tests.TranslationsAndKeys

open Sys2Proof.Machine

def tk (n : Nat) : State := { service { svcReset with xtab := 0x8008, g := [(1, BitVec.ofNat 64 n)] } with keys := [(5, { state := .active }), (6, { state := .rotating })] }
/-- The states of the witnesses below. -/
def states : List State :=
  [tk 0,
    tk 5,
    tk 6,
    tk 7,
    { tk 5 with lines := Tab.set {} world.lines 0x4000 { key := some { slot := 5, ver := 0 } },
                regions := [(3, { d0 := 2^63 + 0x100000 + 2 * 256 + 2 * 16, d1 := 16, d2 := 0x300000, d3 := 100 })],
                bins := [(homeSlice 0x100000, [{ block := 0x100, keys := [{ pa := 0x100000, flags := 1, acc := 77 }] }])],
                dirty := [(0x4000, some { bytes := 99, info := { key := some { slot := 5, ver := 0 } } })] }]

end Sys2Proof.Tests.TranslationsAndKeys

open Sys2Proof.Machine Sys2Proof.Tests in
theorem Sys2Proof.Tests.witness_TranslationsAndKeys :
    (let s := TranslationsAndKeys.states.getD 0 world; let a : BitVec 5 := 0x01#5; let b : BitVec 5 := 0x01#5
     decide (s.b.priv = true) && decide (s.clear = true) && decide (s.quiet (fun _ => true) = true) &&
       decide (s.ready [.g a.toNat, .g b.toNat] [] = true)) = true ∧
    (let s := TranslationsAndKeys.states.getD 0 world; let a : BitVec 5 := 0x01#5; let b : BitVec 5 := 0x01#5
     let key := (s.b.gpr a.toNat).toNat % 4096
     decide (s.b.priv = true) && decide (s.clear = true) && decide (s.ready [.g a.toNat, .g b.toNat] [] = true) &&
       decide (s.quiet (· == key) = true)) = true ∧
    (let s := TranslationsAndKeys.states.getD 0 world; let d : BitVec 5 := 0x01#5; let a : BitVec 5 := 0x01#5
     let n := (s.b.gpr a.toNat).toNat % 4096
     let k := s.key n
     let live : Prop := k.state = .active ∨ k.state = .rotating
     decide (s.b.priv = true) && decide (s.clear = true) && decide (s.ready [.g a.toNat] [.g d.toNat] = true) &&
       decide (n = 0 ∨ live)) = true ∧
    (let s := TranslationsAndKeys.states.getD 3 world; let d : BitVec 5 := 0x01#5; let a : BitVec 5 := 0x01#5
     let n := (s.b.gpr a.toNat).toNat % 4096
     let k := s.key n
     let live : Prop := k.state = .active ∨ k.state = .rotating
     decide (s.b.priv = true) && decide (s.clear = true) && decide (s.ready [.g a.toNat] [.g d.toNat] = true) && decide (n ≠ 0) &&
       decide (¬ live)) = true ∧
    (let s := TranslationsAndKeys.states.getD 1 world; let d : BitVec 5 := 0x01#5; let a : BitVec 5 := 0x01#5
     let n := (s.b.gpr a.toNat).toNat % 4096
     let k := s.key n
     decide (s.b.priv = true) && decide (s.clear = true) && decide (s.ready [.g a.toNat] [.g d.toNat] = true) && decide (n ≠ 0) &&
       decide (k.state = .active)) = true ∧
    (let s := TranslationsAndKeys.states.getD 2 world; let d : BitVec 5 := 0x01#5; let a : BitVec 5 := 0x01#5
     let n := (s.b.gpr a.toNat).toNat % 4096
     let k := s.key n
     decide (s.b.priv = true) && decide (s.clear = true) && decide (s.ready [.g a.toNat] [.g d.toNat] = true) && decide (n ≠ 0) &&
       decide (k.state = .rotating)) = true ∧
    (let s := TranslationsAndKeys.states.getD 0 world; let d : BitVec 5 := 0x01#5; let a : BitVec 5 := 0x01#5
     let n := (s.b.gpr a.toNat).toNat % 4096
     let k := s.key n
     let live : Prop := k.state = .active ∨ k.state = .rotating
     decide (s.b.priv = true) && decide (s.clear = true) && decide (s.ready [.g a.toNat] [.g d.toNat] = true) &&
       decide (n = 0 ∨ ¬ live)) = true ∧
    (let s := TranslationsAndKeys.states.getD 1 world; let d : BitVec 5 := 0x01#5; let a : BitVec 5 := 0x01#5
     let n := (s.b.gpr a.toNat).toNat % 4096
     let k := s.key n
     let live : Prop := k.state = .active ∨ k.state = .rotating
     decide (s.b.priv = true) && decide (s.clear = true) && decide (s.ready [.g a.toNat] [.g d.toNat] = true) && decide (n ≠ 0) &&
       decide (live)) = true ∧
    (let s := TranslationsAndKeys.states.getD 4 world; let d : BitVec 5 := 0x01#5; let a : BitVec 5 := 0x01#5; let l : Nat := 0x4000; let j : Nat := 0
     let n := (s.b.gpr a.toNat).toNat % 4096
     match Tab.get none s.dirty l, s.regionAt (l * 64) with
     | some g, some _ => (
     decide (s.b.priv = true) && decide (s.clear = true) && decide (s.ready [.g a.toNat] [.g d.toNat] = true) && decide (n ≠ 0) &&
       decide ((s.key n).state = .active) && decide ((s.line l).key.map (·.slot) = some n) && decide (j < 64) && decide (isTier (l * 64) = true) &&
       decide (g.info.key.map (·.slot) = some n) &&
       (s.binsOf (homeSlice (l * 64))).any (fun b => b.keys.any fun p => p.pa / 64 == l)) | _, _ => false) = true ∧
    (let s := TranslationsAndKeys.states.getD 4 world; let n : Nat := 5; let y : Nat := 0
     decide (¬ (s.line (y / 64)).key.map (·.slot) = some n)) = true := by decide +kernel

namespace Sys2Proof.Tests.TableWrites

open Sys2Proof.Machine

def svb (a x : Nat) : Bank := { svcReset with xtab := 0x8008, g := [(1, BitVec.ofNat 64 a), (2, BitVec.ofNat 64 x)] }
def rec0 : Nat := ext 0 0x100 0 15 0 0
def regRec : Nat := 2^63 + 0x100000 + 2 * 256 + 2 * 16 + 16 * 2^64 + 0x300000 * 2^128 + 100 * 2^192
def tr (x : Nat) (r : Nat) : State := put (service (svb x 0x100000)) 0x100000 32 r
/-- The states of the witnesses below. -/
def states : List State :=
  [tr 0x8020 rec0,
    tr 0x8021 rec0,
    tr 3 regRec,
    {tr 3 regRec with regions := [(4, {d0 := 2^63 + 0x100000 + 2 * 256 + 2 * 16, d1 := 16, d2 := 0x300000, d3 := 100})]},
    service { svcReset with xtab := 0x8008, g := [(1, 3), (2, 0x100000000040)], record := some { va := 0x100000000040, op := 3, data := some (regRec, none) } }]

end Sys2Proof.Tests.TableWrites

open Sys2Proof.Machine Sys2Proof.Tests in
theorem Sys2Proof.Tests.witness_TableWrites :
    (let s := TableWrites.states.getD 1 world; let a : BitVec 5 := 0x01#5; let b : BitVec 5 := 0x02#5
     match s.access .record (s.b.gpr b.toNat).toNat 32 0 with
     | (.ok pr _ _, u) => (
     match u.readWide (clusterOf s.cur) pr 32 (some (coreOf s.cur)) with
     | (w, none, _) => (
     let x := (s.b.gpr a.toNat).toNat
     let dw := fun i => w / 2 ^ (64 * i) % 2 ^ 64
     let past : Prop := dw 0 % 2 = 1 ∧ 2 ^ 54 < (dw 2 / 2 ^ 16 % 2 ^ 38 + dw 1 % 2 ^ 39) * 2 ^ 16
     decide (s.b.priv = true) && decide (s.clear = true) && decide (s.quiet (fun _ => true) = true) &&
       decide (s.ready [.g a.toNat, .g b.toNat] [] = true) && decide (u.own pr = true) &&
       decide ((x % 32 ≠ 0 ∨ 2 ^ 54 ≤ x ∨ s.ownTier x = false ∨ past))) | _ => false) | _ => false) = true ∧
    (let s := TableWrites.states.getD 0 world; let a : BitVec 5 := 0x01#5; let b : BitVec 5 := 0x02#5
     match s.access .record (s.b.gpr b.toNat).toNat 32 0 with
     | (.ok pr _ _, u) => (
     match u.readWide (clusterOf s.cur) pr 32 (some (coreOf s.cur)) with
     | (w, none, v) => (
     let x := (s.b.gpr a.toNat).toNat
     let dw := fun i => w / 2 ^ (64 * i) % 2 ^ 64
     let past : Prop := dw 0 % 2 = 1 ∧ 2 ^ 54 < (dw 2 / 2 ^ 16 % 2 ^ 38 + dw 1 % 2 ^ 39) * 2 ^ 16
     let t := nextOf (exec (.extw a b) s) s
     List.any (t.held) fun e => (
     List.any (e.2) fun h => (
     decide (s.b.priv = true) && decide (s.clear = true) && decide (s.quiet (fun _ => true) = true) &&
       decide (s.ready [.g a.toNat, .g b.toNat] [] = true) && decide (u.own pr = true) && decide (x % 32 = 0) &&
       decide (x < 2 ^ 54) && decide (s.ownTier x = true) && decide (¬ past) && decide (v.inLog (paLocal x) = false) && decide (h.base = x / 2048 * 2048) &&
       decide (x % 2048 / 32 < h.ents.length)))) | _ => false) | _ => false) = true ∧
    (let s := TableWrites.states.getD 3 world; let a : BitVec 5 := 0x01#5; let b : BitVec 5 := 0x02#5
     match s.access .record (s.b.gpr b.toNat).toNat 32 0 with
     | (.ok pr _ _, u) => (
     match u.readWide (clusterOf s.cur) pr 32 (some (coreOf s.cur)) with
     | (w, none, v) => (
     let x := (s.b.gpr a.toNat).toNat
     let dw := fun i => w / 2 ^ (64 * i) % 2 ^ 64
     let r : Region := { d0 := dw 0, d1 := dw 1, d2 := dw 2, d3 := dw 3 }
     decide (s.b.priv = true) && decide (s.clear = true) &&
       decide (s.ready [.g a.toNat, .g b.toNat] [] = true) && decide (u.own pr = true) &&
       decide (v.regionRefused (x % 256) r = true)) | _ => false) | _ => false) = true ∧
    (let s := TableWrites.states.getD 0 world; let a : BitVec 5 := 0x01#5; let b : BitVec 5 := 0x02#5; let m : Nat := 0
     match s.access .record (s.b.gpr b.toNat).toNat 32 0 with
     | (.ok pr _ _, u) => (
     match u.readWide (clusterOf s.cur) pr 32 (some (coreOf s.cur)) with
     | (w, none, v) => (
     let x := (s.b.gpr a.toNat).toNat
     let dw := fun i => w / 2 ^ (64 * i) % 2 ^ 64
     let r : Region := { d0 := dw 0, d1 := dw 1, d2 := dw 2, d3 := dw 3 }
     decide (s.b.priv = true) && decide (s.clear = true) &&
       decide (s.ready [.g a.toNat, .g b.toNat] [] = true) && decide (u.own pr = true) &&
       decide (v.regionRefused (x % 256) r = false) && decide (m ≠ x % 256)) | _ => false) | _ => false) = true ∧
    (let s := TableWrites.states.getD 2 world; let a : BitVec 5 := 0x01#5; let b : BitVec 5 := 0x02#5
     match s.access .record (s.b.gpr b.toNat).toNat 32 0 with
     | (.ok pr _ _, u) => (
     match u.readWide (clusterOf s.cur) pr 32 (some (coreOf s.cur)) with
     | (w, none, v) => (
     let x := (s.b.gpr a.toNat).toNat
     let dw := fun i => w / 2 ^ (64 * i) % 2 ^ 64
     let r : Region := { d0 := dw 0, d1 := dw 1, d2 := dw 2, d3 := dw 3 }
     decide (s.b.priv = true) && decide (s.clear = true) &&
       decide (s.ready [.g a.toNat, .g b.toNat] [] = true) && decide (u.own pr = true) &&
       decide (v.regionRefused (x % 256) r = false) && decide (r.valid = true)) | _ => false) | _ => false) = true ∧
    (let s := TableWrites.states.getD 4 world; let a : BitVec 5 := 1; let b : BitVec 5 := 2
     match s.access .record (s.b.gpr b.toNat).toNat 32 0 with
     | (.ok pr _ _, u) => (
     match s.b.record with
     | some { va := va, op := _, data := some (w, none), failed := false } => (
     decide (s.b.priv = true) && decide (s.clear = true) && decide (s.ready [.g a.toNat, .g b.toNat] [] = true) &&
       decide (u.own pr = false) && decide (va = (s.b.gpr b.toNat).toNat) &&
       decide (w = TableWrites.regRec)) | _ => false) | _ => false) = true := by decide +kernel

namespace Sys2Proof.Tests.LaunchAppends

open Sys2Proof.Machine

def svb (a x : Nat) : Bank := { svcReset with xtab := 0x8008, g := [(1, BitVec.ofNat 64 a), (2, BitVec.ofNat 64 x)] }
def lr (lf : Nat) : State := put (service (svb 0x100000 0)) 0x100000 128 (lf + 2^512 * (0x1234 + 2^500))
/-- The states of the witnesses below. -/
def states : List State :=
  [lr 0x4000,
    put (lr 0x4000) 0x4068 8 (1*2^32 + 3),
    put (lr 0x4000) 0x4018 8 (2 + 0xfff * 2 ^ 8 + 16 * 2 ^ 20),
    service { svcReset with xtab := 0x8008, g := [(1, 3), (2, 0x100000000080)], record := some { va := 0x100000000080, op := 3, data := some (0x4000 + 2 ^ 512 * 0x1234, none) } },
    put (lr 0x4000) 0x4058 8 0x3f000000000]

end Sys2Proof.Tests.LaunchAppends

open Sys2Proof.Machine Sys2Proof.Tests in
theorem Sys2Proof.Tests.witness_LaunchAppends :
    (let s := LaunchAppends.states.getD 0 world; let a : BitVec 5 := 0x02#5
     match s.access .record (s.b.gpr a.toNat).toNat 128 0 with
     | (.ok pa _ _, u) => (
     match u.readWide (clusterOf s.cur) pa 128 (some (coreOf s.cur)) with
     | (w, none, v) => (
     let leaf := w % 2 ^ 64
     let z := v.leafRead leaf
     decide (s.b.priv = true) && decide (s.clear = true) && decide (s.unlisted) &&
       decide (s.ready [.g a.toNat] [] = true) && decide (u.own pa = true) && decide (z.isLeaf leaf = false)) | _ => false) | _ => false) = true ∧
    (let s := LaunchAppends.states.getD 1 world; let a : BitVec 5 := 0x01#5
     match s.access .record (s.b.gpr a.toNat).toNat 128 0 with
     | (.ok pa _ _, u) => (
     match u.readWide (clusterOf s.cur) pa 128 (some (coreOf s.cur)) with
     | (w, none, v) => (
     let leaf := w % 2 ^ 64
     let z := v.leafRead leaf
     match z.useLeaf leaf with
     | (true, x) => (
     let at' := paLocal leaf + 0x68
     let tail := x.num at' 4
     let head := x.num (at' + 4) 4
     let len := 2 ^ Nat.min (fld (x.rcb leaf 12) 4 0) 16
     decide (s.b.priv = true) && decide (s.clear = true) && decide (s.unlisted) &&
       decide (s.ready [.g a.toNat] [] = true) && decide (u.own pa = true) && decide (z.isLeaf leaf = true) &&
       decide (len ≤ (tail + 2 ^ 32 - head) % 2 ^ 32)) | _ => false) | _ => false) | _ => false) = true ∧
    (let s := LaunchAppends.states.getD 0 world; let a : BitVec 5 := 0x01#5; let j : Nat := 0
     match s.access .record (s.b.gpr a.toNat).toNat 128 0 with
     | (.ok pa _ _, u) => (
     match u.readWide (clusterOf s.cur) pa 128 (some (coreOf s.cur)) with
     | (w, none, v) => (
     let leaf := w % 2 ^ 64
     let z := v.leafRead leaf
     match z.useLeaf leaf with
     | (true, x) => (
     let at' := paLocal leaf + 0x68
     let tail := x.num at' 4
     let head := x.num (at' + 4) 4
     let len := 2 ^ Nat.min (fld (x.rcb leaf 12) 4 0) 16
     let place := x.rcb leaf 11 / 64 * 64 + tail % len * 64
     let slot := paLocal place
     decide (s.b.priv = true) && decide (s.clear = true) && decide (s.unlisted) &&
       decide (s.ready [.g a.toNat] [] = true) && decide (u.own pa = true) && decide (z.isLeaf leaf = true) &&
       decide ((tail + 2 ^ 32 - head) % 2 ^ 32 < len) && decide (x.recPlace place = true) && decide (j < 64) && decide (slot + j < at' ∨ at' + 4 ≤ slot + j)) | _ => false) | _ => false) | _ => false) = true ∧
    (let s := LaunchAppends.states.getD 2 world; let a : BitVec 5 := 1
     match s.access .record (s.b.gpr a.toNat).toNat 128 0 with
     | (.ok pa _ _, u) => (
     match u.readWide (clusterOf s.cur) pa 128 (some (coreOf s.cur)) with
     | (w, none, v) => (
     decide (s.b.priv = true) && decide (s.clear = true) && decide (s.unlisted) && decide (s.ready [.g a.toNat] [] = true) &&
       decide (u.own pa = true) && decide ((v.leafRead (w % 2 ^ 64)).isLeaf (w % 2 ^ 64) = true) &&
       decide (((v.leafRead (w % 2 ^ 64)).useLeaf (w % 2 ^ 64)).1 = false)) | _ => false) | _ => false) = true ∧
    (let s := LaunchAppends.states.getD 3 world; let a : BitVec 5 := 2
     match s.access .record (s.b.gpr a.toNat).toNat 128 0 with
     | (.ok pa _ _, u) => (
     match s.b.record with
     | some { va := va, op := _, data := some (w, none), failed := false } => (
     decide (s.b.priv = true) && decide (s.clear = true) && decide (s.unlisted) && decide (s.ready [.g a.toNat] [] = true) &&
       decide (u.own pa = false) && decide (va = (s.b.gpr a.toNat).toNat) &&
       decide ((u.leafRead (w % 2 ^ 64)).isLeaf (w % 2 ^ 64) = true)) | _ => false) | _ => false) = true ∧
    (let s := LaunchAppends.states.getD 4 world; let a : BitVec 5 := 0x01#5
     match s.access .record (s.b.gpr a.toNat).toNat 128 0 with
     | (.ok pa _ _, u) => (
     match u.readWide (clusterOf s.cur) pa 128 (some (coreOf s.cur)) with
     | (w, none, v) => (
     let leaf := w % 2 ^ 64
     let z := v.leafRead leaf
     match z.useLeaf leaf with
     | (true, x) => (
     let tail := x.num (paLocal leaf + 0x68) 4
     let head := x.num (paLocal leaf + 0x6c) 4
     let len := 2 ^ Nat.min (fld (x.rcb leaf 12) 4 0) 16
     let place := x.rcb leaf 11 / 64 * 64 + tail % len * 64
     decide (s.b.priv = true) && decide (s.clear = true) && decide (s.unlisted) && decide (s.ready [.g a.toNat] [] = true) &&
       decide (u.own pa = true) && decide (z.isLeaf leaf = true) && decide ((tail + 2 ^ 32 - head) % 2 ^ 32 < len) &&
       decide (x.recPlace place = false)) | _ => false) | _ => false) | _ => false) = true := by decide +kernel

namespace Sys2Proof.Tests.BoundaryEvents

open Sys2Proof.Machine

def sel (b : Bank) (w : Nat := 0) : State := { put (World b) 0x10000 4 w with lines := Tab.set {} world.lines 0x400 { key := some { slot := 0, ver := 0 } } }
/-- The states of the witnesses below. -/
def states : List State :=
  [sel bank 0xffffffff,
    sel { bank with pc := 0x7f0000000000 },
    sel { bank with stat := 0x40000 },
    sel { bank with stat := 0x10000, sfaults := [{ slot := 1, einfo := 2, eaddr := 3 }] },
    sel { bank with stat := 0x20000, rfaults := [{ cause := 9, einfo := 2, eaddr := 3, order := 4 }] },
    sel { bank with stat := 0x100000, qevents := [{ cause := 15, einfo := 2, eaddr := 3 }] }]

end Sys2Proof.Tests.BoundaryEvents

namespace Sys2Proof.Tests.Dispatch

open Sys2Proof.Machine

def wtg (st : ContState) (p : Place) : State := { world with conts := [(cid, {st := st, place := p})], banks := [] }
def rdy (k : Cont) (q : Nat) (s : State := world) : State := { s with conts := [(cid, k)], banks := [], runqs := [(q, [cid])], rcbs := [(0x4000, leaf.set 1 0x0a01 |>.set 2 (5*2^16) |>.set 7 5)] }
def kk : Cont := { st := .ready, pc := 0x4444, flags := 0x3f, vrm := 6, ub := false, g := [1,2,3,4,5,6] }
/-- The states of the witnesses below. -/
def states : List State :=
  [World { bank with susp := some .susp },
    wtg .waiting (.time 999),
    rdy kk 0]

end Sys2Proof.Tests.Dispatch

open Sys2Proof.Machine Sys2Proof.Tests in
theorem Sys2Proof.Tests.witness_BoundaryEvents :
    (let s := BoundaryEvents.states.getD 0 world; let r : Nat := 0
     match s.select r with
     | (.illegal _, t) => (
     let u : State := { t with cur := r }
     decide (u.enters = true)) | _ => false) = true ∧
    (let s := Dispatch.states.getD 0 world; let r : Nat := 4096
     match s.select r with
     | (.fault e, t) => (
     let u : State := { t with cur := r }
     decide (e.cause ≠ 3 ∨ 4096 ≤ r) && decide (u.enters = true)) | _ => false) = true ∧
    (let s := BoundaryEvents.states.getD 1 world; let r : Nat := 0
     match s.select r with
     | (.fault e, _) => (
     decide (e.cause = 3) && decide (r < 4096)) | _ => false) = true ∧
    (let s := BoundaryEvents.states.getD 2 world; let r : Nat := 0
     match (s.select r).1 with
     | .pending n => (
     decide (s.loadsDone r = true) && decide (r < 4096) && decide (n = 18)) | _ => false) = true ∧
    (let s := BoundaryEvents.states.getD 3 world; let r : Nat := 0
     match (s.select r).1 with
     | .pending n => (
     let b := s.bank r
     match b.sfaults with
     | _ :: _ => (
     decide (s.loadsDone r = true) && decide (r < 4096) && decide (n = 16)) | _ => false) | _ => false) = true ∧
    (let s := BoundaryEvents.states.getD 4 world; let r : Nat := 0
     match (s.select r).1 with
     | .pending n => (
     let b := s.bank r
     match b.rfaults with
     | [_] => (
     decide (s.loadsDone r = true) && decide (r < 4096) && decide (n = 17)) | _ => false) | _ => false) = true ∧
    (let s := BoundaryEvents.states.getD 5 world; let r : Nat := 0
     match (s.select r).1 with
     | .pending n => (
     let b := s.bank r
     match b.qevents with
     | _ :: _ => (
     decide (s.loadsDone r = true) && decide (r < 4096) && decide (n = 20)) | _ => false) | _ => false) = true := by decide +kernel

namespace Sys2Proof.Tests.Parking

open Sys2Proof.Machine

/-- The states of the witnesses below. -/
def states : List State :=
  [{ World { bank with stalled := some 5, stall := some { op := .spop 3 1, q := 1, full := some false } } with
      cycle := 40000, queues := [(queueKey gid 1, { d0 := 2 * 2 ^ 62 })] },
    { World { bank with waited := some (7, .regs [(false, 2)]) } with
      cycle := 40000, nextOp := 14,
      rops := [(13, some { who := 0, pkg := 5, va := 0x100000000040, lines := [1], dsts := [.g 2 8 false], body := .read 0x40 8, oinc := 3 })] },
    World { bank with park := some { kind := 0 } },
    World { bank with park := some { kind := 0, drained := true, answered := true } }]

end Sys2Proof.Tests.Parking

open Sys2Proof.Machine Sys2Proof.Tests in
theorem Sys2Proof.Tests.witness_Parking :
    (let s := Parking.states.getD 0 world; let r : Nat := 0
     let b := s.bank r
     match b.stalled with
     | some _ => (
     match b.stall with
     | some x => (
     decide (r < 4096) && decide (s.canIssue r = true) && decide (x.parks = true) && decide (s.stallReady r = false)) | _ => false) | _ => false) = true ∧
    (let s := Parking.states.getD 1 world; let r : Nat := 0
     let b := s.bank r
     match b.waited with
     | some (_, w) => (
     decide (r < 4096) && decide (s.canIssue r = true) && decide (s.stillWaits r w = true)) | _ => false) = true ∧
    (let s := Parking.states.getD 2 world; let r : Nat := 0
     let b := s.bank r
     match b.park with
     | some p => (
     decide (r < 4096) && decide (p.drained = false) && decide (b.reqs.all (fun q => q.dst.isNone) = true) &&
       decide (b.batches = [])) | _ => false) = true ∧
    (let s := Parking.states.getD 3 world; let r : Nat := 0
     let b := s.bank r
     match b.park with
     | some p => (
     match b.cont with
     | some _ => (
     decide (r < 4096) && decide (s.returnable r = true) && decide ((r % 2 = 0 ∨ s.returnable (r - 1) = false)) &&
       decide (((s.bank (if r % 2 = 0 then r + 1 else r - 1)).cont = none ∨ ((s.bank (if r % 2 = 0 then r + 1 else r - 1)).park).any (·.drained) = true)) &&
       decide (p.refused = false)) | _ => false) | _ => false) = true ∧
    (let s := Parking.states.getD 3 world; let r : Nat := 0; let q : Nat := 1
     let b := s.bank r
     match b.park with
     | some p => (
     decide (r < 4096) && decide (s.returnable r = true) && decide ((r % 2 = 0 ∨ s.returnable (r - 1) = false)) &&
       decide (((s.bank (if r % 2 = 0 then r + 1 else r - 1)).cont = none ∨ ((s.bank (if r % 2 = 0 then r + 1 else r - 1)).park).any (·.drained) = true)) &&
       decide (p.refused = false) && decide (q ≠ r)) | _ => false) = true := by decide +kernel

open Sys2Proof.Machine Sys2Proof.Tests in
theorem Sys2Proof.Tests.witness_DispatchEvents :
    (let s := Dispatch.states.getD 0 world; let r : Nat := 0; let c : Nat := 1099511627776
     decide (r < 4096) && decide ((s.bank r).susp = some .susp) && decide ({ s with cur := r }.suspends c = true)) = true ∧
    (let s := Dispatch.states.getD 1 world; let r : Nat := 0; let c : Nat := 1099511627776
     let k := s.cont c
     match k.place with
     | .time w => (
     decide (r < 4096) && decide (k.st = .waiting) && decide (w ≤ s.time)) | _ => false) = true ∧
    (let s := Dispatch.states.getD 2 world; let r : Nat := 0; let i : Nat := 0
     match s.nextCont (r / 128) with
     | some c => (
     let k := s.cont c
     decide (r < 4096) && decide ((s.bank r).cont = none) && decide (s.activeBank (r / 2) = r) &&
       decide (s.returnable (otherBank r) = false) && decide ((s.chan r).reserved = none) && decide (k.timeout = none) &&
       decide (i < 6)) | _ => false) = true ∧
    (let s := Dispatch.states.getD 2 world; let r : Nat := 0; let q : Nat := 1
     match s.nextCont (r / 128) with
     | some c => (
     let k := s.cont c
     decide (r < 4096) && decide ((s.bank r).cont = none) && decide (s.activeBank (r / 2) = r) &&
       decide (s.returnable (otherBank r) = false) && decide ((s.chan r).reserved = none) && decide (k.timeout = none) &&
       decide (q ≠ r)) | _ => false) = true := by decide +kernel

namespace Sys2Proof.Tests.Device

open Sys2Proof.Machine

def rq (d : Option Dst) (a n v : Nat) (e := 0) : MemReq := { dst := d, va := 77, pa := a, size := n, data := v, key := 0, cluster := 0, epoch := e }
def reg (op et : Nat) : Region := { d0 := 2^63 + 0x100000 + et * 256 + op * 16, d1 := 16, d2 := 0x300000, d3 := 100 }
/-- The states of the witnesses below. -/
def states : List State :=
  [World { bank with reqs := [rq (some (.g 1 8 false)) 0x100001 8 0, rq (some (.g 2 2 true)) 0x3f000000100 2 0, rq none 0x200000 4 0x12345678, rq none 0x100020 4 0x12345678 1,rq (some (.g 2 8 true)) 0x200000 8 0] },
    { world with regions := [(3, reg 2 2)], pairs := [{ who := 0, keys := [(0x100000, 5)] }], regstat := [(3, 0x1fff), (1,0x1e1f)], ctl := [(0,{mode := 1, busy := true, old := 0}),(1, {mode := 2}),(2, {mode := 1, busy := true, old := 1}),(32,{mode:=2,refused := true}),(63,{mode:=0, busy:=true,old:=2})], keys := [(5,{state := .rotating, seen := true, held := [4,5]})], patrol := 2^35-1, mem := world.mem ++ [(2^42+5, 9), (2^42+2^17*2+3, 8)] }]

end Sys2Proof.Tests.Device

open Sys2Proof.Machine Sys2Proof.Tests in
theorem Sys2Proof.Tests.witness_MemoryEvents :
    (let s := Device.states.getD 0 world; let r : Nat := 0; let n : Nat := 0; let j : Nat := 0
     let b := s.bank r
     match b.reqs[n]? with
     | some q => (
     match q.dst with
     | some (.g d _ _) => (
     let a := paLocal q.pa
     decide (d ≠ 0) && decide ((isScratch a = true ∨ (isTier a = true ∧ s.regionAt (a / 4096 * 4096) = none))) &&
       decide (a % 4096 + q.size ≤ 4096) && decide (j ≠ d)) | _ => false) | _ => false) = true ∧
    (let s := Device.states.getD 0 world; let r : Nat := 0; let n : Nat := 0; let j : Nat := 1
     let b := s.bank r
     match b.reqs[n]? with
     | some q => (
     match q.dst with
     | some (.g d _ _) => (
     let a := paLocal q.pa
     decide (d ≠ 0) && decide ((isScratch a = true ∨ (isTier a = true ∧ s.regionAt (a / 4096 * 4096) = none))) &&
       decide (a % 4096 + q.size ≤ 4096) && decide (j ≠ r)) | _ => false) | _ => false) = true ∧
    (let s := Device.states.getD 0 world; let r : Nat := 0; let n : Nat := 2; let j : Nat := 1
     let b := s.bank r
     match b.reqs[n]? with
     | some q => (
     let a := paLocal q.pa
     decide (q.dst = none) && decide (b.reqs.any (fun x => decide (x.epoch < q.epoch)) = false) &&
       decide ((isScratch a = true ∨ (isTier a = true ∧ s.regionAt (a / 4096 * 4096) = none))) &&
       decide (a % 4096 + q.size ≤ 4096) && decide (j ≠ r)) | _ => false) = true ∧
    (let s := Device.states.getD 1 world; let n : Nat := 0; let a : Nat := 1048576; let w : Nat := 5
     match s.pairs[n]? with
     | some p => (
     match s.regionAt a with
     | some _ => (
     decide ((s.binsOf (homeSlice a)).find? (fun x => x.block == a / 4096) = none) &&
       decide ((s.binsOf (homeSlice a)).length < 4096) && decide (p.keys = [(a, w)])) | _ => false) | _ => false) = true ∧
    (let n : Nat := 0; let m : Nat := 1
     decide (m ≠ n % 256)) = true ∧
    (let s := Device.states.getD 0 world; let v : BitVec 64 := 0x0000000000000001#64; let c : Nat := 0; let x : Nat := 0
     let old := s.bankCtl c x
     let mode := v.toNat % 4
     decide (c < 32) && decide (x < 32) && decide (mode = old.mode)) = true ∧
    (let s := Device.states.getD 1 world; let v : BitVec 64 := 0x0000000000000002#64; let c : Nat := 0; let x : Nat := 0
     let old := s.bankCtl c x
     let mode := v.toNat % 4
     decide (c < 32) && decide (x < 32) && decide ((old.busy = true ∨ (old.mode = 2 ∧ s.fifoUsed c x = true))) &&
       decide (mode ≠ old.mode)) = true ∧
    (let s := Device.states.getD 0 world; let v : BitVec 64 := 0x0000000000000001#64; let c : Nat := 0; let x : Nat := 1
     let old := s.bankCtl c x
     let mode := v.toNat % 4
     decide (c < 32) && decide (x < 32) && decide (old.busy = false) && decide ((old.mode ≠ 2 ∨ s.fifoUsed c x = false)) &&
       decide (mode ≠ old.mode)) = true ∧
    (let s := Device.states.getD 1 world; let c : Nat := 0; let x : Nat := 0; let j : Nat := 0
     let old := s.bankCtl c x
     decide (c < 32) && decide (x < 32) && decide (old.busy = true) && decide ((old.old ≠ 1 ∨ s.scratchPending c x = false)) &&
       decide (old.mode = 1) && decide (j < 2 ^ 17)) = true ∧
    (let s := Device.states.getD 1 world; let c : Nat := 0; let x : Nat := 0; let y : Nat := 0
     let old := s.bankCtl c x
     decide (c < 32) && decide (x < 32) && decide (old.busy = true) && decide ((old.old ≠ 1 ∨ s.scratchPending c x = false)) &&
       decide ((old.mode ≠ 1 ∨ y < scratchKey c (x * 2 ^ 17) ∨ scratchKey c (x * 2 ^ 17) + 2 ^ 17 ≤ y))) = true ∧
    (let s := Device.states.getD 0 world
     decide (s.patrol + 1 ≠ 2 ^ 35)) = true ∧
    (let s := Device.states.getD 1 world; let m : Nat := 5
     decide (s.patrol + 1 = 2 ^ 35) && decide ((s.key m).state = .rotating) && decide ((s.key m).seen = true)) = true := by decide +kernel

open Sys2Proof.Machine Sys2Proof.Tests in
theorem Sys2Proof.Tests.witness_DeviceRegisters :
    (let n : Nat := 0
     decide (n < 64)) = true ∧
    (let n : Nat := 0
     decide (n < 4096)) = true ∧
    (let n : Nat := 0
     decide (n < 4)) = true := by decide +kernel

namespace Sys2Proof.Tests.EngineCommands

open Sys2Proof.Machine

def word (src dst rowb rows row byte ctl : Nat) : Nat := src + dst * 2^64 + rowb * 2^128 + rows * 2^160 + ctl * 2^(48*8) + byte * 2^(56*8) + row * 2^(60*8) + 0x100 * 2^192 + (if dst = 0 then 0 else 0x200 * 2^256)
def eb : Bank := { bank with g := [(1, 0x100040), (3, 0)] , seq := 8191 }
def es (w : Nat) (b : Bank := eb) : State := { put (World b) 0x100040 64 w with queues := [(queueKey gid 1, {d0 := 2^62})] }
def wt (h : Nat) : State := World { eb with eng := [(2, some 5)], g := [(1, BitVec.ofNat 64 h)] }
def hd (s p : Nat) : Nat := 2 * 2^61 + s * 2^48 + p
/-- The states of the witnesses below. -/
def states : List State :=
  [es (word 0x100000 0x100100 0x100 2 0 0 0),
    wt (hd 5 (2^48-1)),
    { put (World { eb with eng := [(2, some 5)], g := [(1, BitVec.ofNat 64 (hd 5 5))] }) 0x10000 4 0xd0200004 with lines := Tab.set {} world.lines 0x400 { key := some {slot := 0, ver := 0} }},
    es (word 0x100000 0 0x100 2 0 0 0x1801),
    es (word 0x100000 0x100100 0x100 2 0 0 0) { eb with g := [(1, 0x100040), (2, 1), (3, 0)] }]

end Sys2Proof.Tests.EngineCommands

open Sys2Proof.Machine Sys2Proof.Tests in
theorem Sys2Proof.Tests.witness_EngineCommands :
    (let s := EngineCommands.states.getD 0 world; let d : BitVec 5 := 0x01#5; let a : BitVec 5 := 0x01#5; let b : BitVec 5 := 0x01#5
     let c : BitVec 5 := 0x01#5
     match s.b.freeEng with
     | some _ => (
     match s.access .ldv (s.b.gpr a.toNat).toNat 64 0 with
     | (.ok pa _ _, u) => (
     let w := u.num (cellKey (clusterOf s.cur) (paLocal pa)) 64
     decide (s.clear = true) && decide (s.b.record = none) && decide (u.plain pa = true) &&
       decide (u.poisonAt (cellKey (clusterOf s.cur) (paLocal pa)) 64 = none) &&
       decide (s.ready [.g a.toNat, .g b.toNat, .g c.toNat] [.g d.toNat] = true) &&
       decide (s.b.packer (recFld w 48 8 % 64) = none ∨ (s.queue (s.qk (recFld w 48 8 % 64))).room ≠ 0)) | _ => false) | _ => false) = true ∧
    (let s := EngineCommands.states.getD 0 world; let d : BitVec 5 := 0x01#5
     let w := (s.b.gpr d.toNat).toNat
     let busy : Prop := Tab.get none s.b.eng (w / 2 ^ 61) = some (w / 2 ^ 48 % 2 ^ 13)
     decide (s.ready [.g d.toNat] [] = true) && decide (s.room = true) && decide (¬ busy)) = true ∧
    (let s := EngineCommands.states.getD 2 world; let r : Nat := 0
     match s.select r with
     | (.run (.waitp d), t) => (
     let u : State := { t with cur := r }
     let w := (u.b.gpr d.toNat).toNat
     decide (u.ready [.g d.toNat] [] = true) && decide (u.room = true) && decide (u.enters = true) &&
       decide (Tab.get none u.b.eng (w / 2 ^ 61) = some (w / 2 ^ 48 % 2 ^ 13)) && decide (w % 2 ^ 48 ≠ 2 ^ 48 - 1) &&
       decide ((u.time + 2 ^ 48 - w % 2 ^ 48) % 2 ^ 48 < 2 ^ 47)) | _ => false) = true ∧
    (let s := EngineCommands.states.getD 1 world; let d : BitVec 5 := 0x01#5
     let w := (s.b.gpr d.toNat).toNat
     let busy : Prop := Tab.get none s.b.eng (w / 2 ^ 61) = some (w / 2 ^ 48 % 2 ^ 13)
     let due : Prop := w % 2 ^ 48 ≠ 2 ^ 48 - 1 ∧ (s.time + 2 ^ 48 - w % 2 ^ 48) % 2 ^ 48 < 2 ^ 47
     decide (s.ready [.g d.toNat] [] = true) && decide (s.room = true) && decide (busy) && decide (¬ due)) = true ∧
    (let s := EngineCommands.states.getD 3 world; let d : BitVec 5 := 2; let a : BitVec 5 := 1; let b : BitVec 5 := 3; let c : BitVec 5 := 3
     match s.b.freeEng with
     | some _ => (
     match s.access .ldv (s.b.gpr a.toNat).toNat 64 0 with
     | (.ok pa _ _, u) => (
     decide (s.ready [.g a.toNat, .g b.toNat, .g c.toNat] [.g d.toNat] = true) && decide (s.clear = true) &&
       decide (s.b.record = none) && decide (u.plain pa = true) &&
       decide (u.poisonAt (cellKey (clusterOf s.cur) (paLocal pa)) 64 = none) && decide (s.b.gpr b.toNat = 0) &&
       decide (s.cur < 4096) &&
       decide (s.b.packer (recFld (u.num (cellKey (clusterOf s.cur) (paLocal pa)) 64) 48 8 % 64) = none)) | _ => false) | _ => false) = true ∧
    (let s := EngineCommands.states.getD 4 world; let d : BitVec 5 := 2; let a : BitVec 5 := 1; let b : BitVec 5 := 3; let c : BitVec 5 := 2
     match s.b.freeEng with
     | some _ => (
     match s.access .ldv (s.b.gpr a.toNat).toNat 64 0 with
     | (.ok pa _ _, u) => (
     decide (s.ready [.g a.toNat, .g b.toNat, .g c.toNat] [.g d.toNat] = true) && decide (s.clear = true) &&
       decide (s.b.record = none) && decide (u.plain pa = true) &&
       decide (u.poisonAt (cellKey (clusterOf s.cur) (paLocal pa)) 64 = none) && decide (s.b.gpr b.toNat = 0) &&
       decide (s.cur < 4096) &&
       decide (s.b.packer (recFld (u.num (cellKey (clusterOf s.cur) (paLocal pa)) 64) 48 8 % 64) = none)) | _ => false) | _ => false) = true := by decide +kernel

namespace Sys2Proof.Tests.EngineMoves

open Sys2Proof.Machine

def word (src dst rowb rows row byte ctl : Nat) : Nat := src + dst * 2^64 + rowb * 2^128 + rows * 2^160 + ctl * 2^(48*8) + byte * 2^(56*8) + row * 2^(60*8) + 0x100 * 2^192 + (if dst = 0 then 0 else 0x200 * 2^256)
def eb : Bank := { bank with g := [(1, 0x100040), (3, 0)] , seq := 8191 }
def es (w : Nat) (b : Bank := eb) : State := { put (World b) 0x100040 64 w with queues := [(queueKey gid 1, {d0 := 2^62})] }
def cmd (k w : Nat) : Cmd := { kind := k, who := 0, gid := gid, slot := 2, seq := 5, recVa := 0x100040, recPa := 0x100040, recKey := 0, word := w, bias := 0, root := 0, key := 0, xtab := 0x8008, exts := some exts, user := true, row := recFld w 60 4, byte := recFld w 56 4, prow := 0, pbyte := 0 }
def ew (c : Cmd) : State := { es 0 { eb with eng := [(2, some 5)], g := [(1, 0), (2, BitVec.ofNat 64 (2*2^61+5*2^48+2^48-1)), (3, BitVec.ofNat 64 (2*2^61+5*2^48+ 2000000))] } with cmds := [(1, some c)], nextCmd := 2 }
def pb : PendBeat := { beat := {data := 5}, bytes := 64, row := 0, byte := 64 }
def C0 : Cmd := cmd 0 (word 0x100000 0x100110 0x100 2 0 0x20 0)
def C1 : Cmd := { cmd 2 (word 0x100000 0 0x100 2 0 0 0x1801) with pend := [pb, {pb with byte := 128}] }
/-- The states of the witnesses below. -/
def states : List State :=
  [ew C0,
    ew (cmd 0 (word 0x100000 0x100110 0x100 2 2 0 0)),
    ew { cmd 0 (word 0x100000 0x100110 0x100 2 2 0 0) with detached := true },
    ew C1,
    ew {C0 with word := word (2^54) 0x100110 0x100 2 0 0 0},
    ew { C0 with reads := [{ row := 0, off := 0x20, n := 32, got := some { n := 32, v := 0x1122334455 } }] },
    { ew { cmd 1 (word 0x100000 0x3f000000110 0x100 2 0 0x20 0) with bias := 3, reads := [{ row := 0, off := 0x20, n := 32, got := some { n := 32, v := 0x1122334455 } }] } with ctl := [(0, { mode := 1 }), (32, { mode := 1 })] },
    ew (cmd 2 (word 0x100010 0 0x100 2 0 0 0x1801)),
    ew { cmd 2 (word 0x100000 0 0x100 2 0 0 0x1801) with parts := [{ n := 64, v := 0x112233445566778899, pa := 0x100000 }] },
    ew (cmd 3 (word 0x100000 0 0x100 2 0 0 0x1801 + 0x100080 * 2^320))]

/-- A read of a command at its place has what it needs. -/
def reads (s : State) (id : Nat) (c : Cmd) (a n side : Nat) : Bool :=
  match s.engAccess id c .ldv (clusterOf c.who) a n side 0 with
  | (.ok pa _, u) => s.choice / 2 ^ 16 == 0 && c.row < c.rows && c.byte < c.rowb && !s.farBefore id c && u.plain pa &&
      paLocal pa % 4096 + n ≤ 4096 && (u.poisonAt (cellKey (clusterOf c.who) (paLocal pa)) n).isNone
  | _ => false

/-- A write of a command at its place has its bytes. -/
def ready (c : Cmd) (m : Nat) : Bool :=
  c.row < c.rows && c.byte < c.rowb && !c.wrote.contains (c.row, c.byte) && (c.lack c.row c.byte (c.byte + m) 65).isNone &&
    (c.bytesOf c.row c.byte m 65).2 == 0

end Sys2Proof.Tests.EngineMoves

open Sys2Proof.Machine Sys2Proof.Tests in
theorem Sys2Proof.Tests.witness_EngineMoves :
    (let s := EngineMoves.states.getD 0 world; let id : Nat := 1; let b : Nat := 0x20
     match s.cmd id with
     | some c => (
     let m := c.pieceLen (c.dstAt c.row) c.byte
     decide (c.kind < 2) && decide (c.wrote.contains (c.row, c.byte) = false) &&
       decide (c.lack c.row c.byte (c.byte + m) 65 = some (b, none)) &&
       EngineMoves.reads s id c ((c.srcRow + b) % 2 ^ 64) (c.pieceLen c.srcRow b) 0) | _ => false) = true ∧
    (let s := EngineMoves.states.getD 5 world; let id : Nat := 1
     match s.cmd id with
     | some c => (
     let m := c.pieceLen (c.dstAt c.row) c.byte
     match s.engAccess id c .stv (clusterOf c.who) ((c.dstAt c.row + c.byte) % 2 ^ 64) m 1 0 with
     | (.ok pa _, u) => (
     decide (s.choice / 2 ^ 16 = 0) && EngineMoves.ready c m && decide (c.kind = 0) && decide (u.plain pa = true) &&
       decide (paLocal pa % 4096 + m ≤ 4096)) | _ => false) | _ => false) = true ∧
    (let s := EngineMoves.states.getD 6 world; let id : Nat := 1
     match s.cmd id with
     | some c => (
     let d := (c.dstAt c.row + c.byte) % 2 ^ 64
     let m := c.pieceLen (c.dstAt c.row) c.byte
     match s.engAccess id c .stv (clusterOf c.who) d m 1 0 with
     | (.ok pa k, _) => (
     decide (s.choice / 2 ^ 16 = 0) && EngineMoves.ready c m && decide (c.kind = 1) && decide (isScratch (paLocal pa) = true) &&
       c.exts.any (fun l => (findExt l d).isSome) && decide (c.clusters.length = 2) && decide (paLocal pa % 4096 + m ≤ 4096) &&
       decide (∀ x ∈ c.clusters, s.engAccess id c .stv x.2 d m 1 x.1 = (.ok pa k, s))) | _ => false) | _ => false) = true ∧
    (let s := EngineMoves.states.getD 7 world; let id : Nat := 1
     match s.cmd id with
     | some c => (
     let x := c.byte + 4 * c.words.length
     let a := (c.srcRow + x) % 2 ^ 64
     decide (c.kind = 2) && decide (c.ended = false) && decide (c.byte % 4 = 0) && decide (c.srcRow % 4 = 0) &&
       (match s.rowBeats c with | none => true | _ => false) && (c.reads.find? fun z => z.row == c.row && z.off == x).isNone &&
       EngineMoves.reads s id c a (min (64 - a % 64) (c.rowb - x)) 0) | _ => false) = true ∧
    (let s := EngineMoves.states.getD 8 world; let id : Nat := 1
     match s.cmd id with
     | some c => (
     decide (s.choice / 2 ^ 16 = 0) && decide (c.kind = 2) && decide (c.ended = false) && decide (c.byte % 4 = 0) &&
       decide (c.row < c.rows) && decide (c.srcRow % 4 = 0) && decide (16 ≤ c.words.length) &&
       decide (∀ z ∈ c.words.take 16, z.range = none ∧ z.bad = false) && decide (c.byte + 64 < c.rowb)) | _ => false) = true ∧
    (let s := EngineMoves.states.getD 9 world; let id : Nat := 1
     match s.cmd id with
     | some c => (
     let a := (c.idxBase + c.row * c.idxW) % 2 ^ 64
     decide (c.kind = 3) && decide (c.idx = none) && decide (c.ended = false) && decide (c.byte % 4 = 0) && decide (a % c.idxW = 0) &&
       (c.reads.find? fun x => x.row == c.row && x.off == 2 ^ 32).isNone && EngineMoves.reads s id c a c.idxW 2) | _ => false) = true ∧
    (let s := EngineMoves.states.getD 3 world; let id : Nat := 1
     match s.cmd id with
     | some c => (
     match c.pushes with
     | some q => (
     match c.pend with
     | _ :: _ => (
     let k := queueKey c.gid q
     decide (s.earlierStream id c = false) && decide ((s.queue k).dir = 1) && decide ((s.queue k).room ≠ 0)) | _ => false) | _ => false) | _ => false) = true ∧
    (let s := EngineMoves.states.getD 1 world; let id : Nat := 1
     match s.cmd id with
     | some c => (
     decide (s.cmdOver id c = true) && decide (c.bar = none) && decide (c.detached = false)) | _ => false) = true ∧
    (let s := EngineMoves.states.getD 2 world; let id : Nat := 1
     match s.cmd id with
     | some c => (
     decide (s.cmdOver id c = true) && decide (c.bar = none) && decide (c.detached = true)) | _ => false) = true ∧
    (let s := EngineMoves.states.getD 1 world; let id : Nat := 1; let r : Nat := 1
     match s.cmd id with
     | some c => (
     decide (s.cmdOver id c = true) && decide (c.bar = none) && decide (r ≠ c.who)) | _ => false) = true ∧
    (let s := EngineMoves.states.getD 4 world; let id : Nat := 1; let r : Nat := 1
     match s.cmd id with
     | some c => (
     match s.engTry id c with
     | .fault f => (
     decide (c.pend = []) && decide (c.bar = none) && decide (c.detached = false) && decide (f.sub ≠ 10) && decide (f.sub ≠ 11) &&
       decide (s.own c.recPa = true) && decide (s.plain (c.recPa + 0x38) = true) && decide ((c.recPa + 0x38) % 4096 + 8 ≤ 4096) &&
       decide (r ≠ c.who)) | _ => false) | _ => false) = true := by decide +kernel

namespace Sys2Proof.Tests.RemoteOperations

open Sys2Proof.Machine

def op0 : RemOp := { who := 0, pkg := 5, va := 0x120000000040, lines := [1], dsts := [.g 2 8 false], body := .cas 0x40 8 1 2 0, oinc := 3, serial := some 7, kind := 5, sentAt := 0 }
def rd0 : RemOp := { who := 0, pkg := 5, va := 0x100000000040, lines := [1], dsts := [.g 2 2 false], body := .read 0x40 2, oinc := 3, sentAt := 0 }
def OPS : List RemOp := [op0, rd0, { op0 with busy := some 0 }, { rd0 with busy := some 990000, attempt := 3 }, { op0 with attempt := 6}, {rd0 with attempt := 6, sentAt := 360000}, { op0 with attempt := 5}]
def ms (o : RemOp) (oi : Nat) (v : Nat) : Msg := { src := 5, dst := 0, oinc := oi, op := 13, serial := o.serial, body := .reply (.value v none 0) }
def MS : List Msg := [ms op0 3 0x123456789, ms rd0 3 5, ms op0 4 2, ms rd0 4 2]
def rw (o : RemOp) : State := { World { bank with g := [(1, 5*2^32+7),(2, 5*2^32+0xfffffff1)] } with rops := [(13, some o)], nextOp := 14, inbox := [{src:=1, body := .ack}] ++ MS, chans := [(0, { next := 8, owed := [(5,3),(6,7),(9,5)], sentAt := 1 })], ports := [(3, 17), (4, 17)], routes := [(5, 2^63+8), (9,2^63+0x20)] }
/-- The states of the witnesses below. -/
def states : List State :=
  OPS.map rw ++ [{ rw op0 with rops := [], banks := [(0, { bank with batches := [{pkg := 5, pairs := [(0x100000,5)]}] })], cycle := 512 }] ++
    (OPS ++ [{ op0 with held := some 9 }]).map fun o => { rw o with inbox := [] }

end Sys2Proof.Tests.RemoteOperations

open Sys2Proof.Machine Sys2Proof.Tests in
theorem Sys2Proof.Tests.witness_RemoteOperations :
    (let s := RemoteOperations.states.getD 0 world; let d : BitVec 5 := 0x00#5; let a : BitVec 5 := 0x00#5
     let y := (s.b.gpr a.toNat).toNat
     decide (s.room = true) && decide (s.ready [.g a.toNat] [.g d.toNat, .g a.toNat] = true) &&
       decide ((s.slotsOf s.cur).find? (fun e => e.2.serial == some (y % 2 ^ 32)) = none)) = true ∧
    (let s := RemoteOperations.states.getD 0 world; let m : Nat := 1; let r : Nat := 2; let n : Nat := 8; let j : Nat := 0
     match s.inbox[m]? with
     | some x => (
     match x.body with
     | .reply (.value _ none _) => (
     match s.rop x.op with
     | some o => (
     decide (o.pkg = x.src) && decide (o.late x = false) && decide (o.held = none) && decide (o.serial = x.serial) &&
       decide ((o.serial = none ∨ x.oinc = o.oinc)) && decide (((match o.body with | .rqry _ => false | _ => true) = true)) && decide (o.eng = none) &&
       decide (o.record = false) && decide ((s.bank o.who).blocked = none) && decide ((s.bank o.who).batches = []) &&
       decide (r ≠ 0) && decide (o.dsts = [.g r n false]) && decide (j ≠ r)) | _ => false) | _ => false) | _ => false) = true ∧
    (let s := RemoteOperations.states.getD 0 world; let m : Nat := 1; let r : Nat := 2; let n : Nat := 8; let q : Nat := 1
     match s.inbox[m]? with
     | some x => (
     match x.body with
     | .reply (.value _ none _) => (
     match s.rop x.op with
     | some o => (
     decide (o.pkg = x.src) && decide (o.late x = false) && decide (o.held = none) && decide (o.serial = x.serial) &&
       decide ((o.serial = none ∨ x.oinc = o.oinc)) && decide (o.eng = none) && decide (o.record = false) &&
       decide ((s.bank o.who).blocked = none) && decide ((s.bank o.who).batches = []) && decide (r ≠ 0) &&
       decide (o.dsts = [.g r n false]) && decide (((match o.body with | .rqry _ => false | _ => true) = true)) && decide (q ≠ o.who)) | _ => false) | _ => false) | _ => false) = true ∧
    (let s := RemoteOperations.states.getD 2 world; let id : Nat := 13
     match s.rop id with
     | some o => (
     match o.busy with
     | some t0 => (
     decide (o.held = none) && decide (t0 + 20000 ≤ s.time)) | _ => false) | _ => false) = true ∧
    (let s := RemoteOperations.states.getD 8 world; let id : Nat := 13
     match s.rop id with
     | some o => (
     decide (o.held = none) && decide (o.busy = none) && decide (s.replied id o = false) && decide (o.attempt < 6) &&
       decide (o.sentAt + 20000 * 2 ^ (o.attempt - 1) ≤ s.time)) | _ => false) = true ∧
    (let s := RemoteOperations.states.getD 12 world; let id : Nat := 13; let r : Nat := 2; let n : Nat := 8; let sx : Bool := false
     match s.rop id with
     | some o => (
     decide (o.held = none) && decide (o.busy = none) && decide (s.replied id o = false) && decide (o.attempt = 6) && decide (o.sentAt + 640000 ≤ s.time) &&
       decide (o.serial.isSome = true) && decide ((s.chan o.who).reserved = none) && decide ((s.bank o.who).blocked = none) &&
       decide (r ≠ 0) && decide (o.dsts = [.g r n sx])) | _ => false) = true ∧
    (let s := RemoteOperations.states.getD 13 world; let id : Nat := 13; let r : Nat := 2; let n : Nat := 2; let sx : Bool := false
     match s.rop id with
     | some o => (
     decide (o.held = none) && decide (o.busy = none) && decide (s.replied id o = false) && decide (o.attempt = 6) && decide (o.sentAt + 640000 ≤ s.time) &&
       decide (o.serial = none) && decide (o.eng = none) && decide (o.record = false) &&
       decide ((s.chan o.who).reserved = none) && decide (r ≠ 0) && decide (o.dsts = [.g r n sx])) | _ => false) = true ∧
    (let s := RemoteOperations.states.getD 0 world; let r : Nat := 0
     List.any ((s.chan r).owed) fun e => (
     decide ((s.chan r).sentAt + 100000 ≤ s.time) && decide ((s.chan r).owed.any (fun e => e.2 != s.ackt r) = true) &&
       decide (e.2 ≠ s.ackt r) && decide (e.1 ≠ s.pkg) && decide (s.usablePorts e.1 ≠ []))) = true ∧
    (let s := RemoteOperations.states.getD 7 world; let r : Nat := 0; let n : Nat := 0
     match (s.bank r).batches[n]? with
     | some z => (
     decide ((s.bank r).batches.all (fun w => !w.closed) = true) && decide (s.serialGo r 1 = .ok) && decide (z.closed = false) &&
       decide (z.age + 512 ≤ s.cycle) && decide (s.batchBusy r z = false)) | _ => false) = true ∧
    (let s := RemoteOperations.states.getD 15 world; let d : BitVec 5 := 3; let a : BitVec 5 := 1
     let y := (s.b.gpr a.toNat).toNat
     match (s.slotsOf s.cur).find? fun e => e.2.serial == some (y % 2 ^ 32) with
     | some e => (
     decide (s.ready [.g a.toNat] [.g d.toNat, .g a.toNat] = true) && decide (s.room = true) &&
       decide (e.2.held.isSome = true)) | _ => false) = true := by decide +kernel

namespace Sys2Proof.Tests.OwnerOfRemoteLines

open Sys2Proof.Machine

def rc : Nat := 5 * 2^20 + 3 * 2^12 + 17
def fl (n : Nat) (st := 0) : OwnEntry := { kind := .floor, rcid := rc, serial := n, stamp := st }
def res (n : Nat) (p : Option Nat := none): OwnEntry := { kind := .result, op := 1, rcid := rc, serial := n, result := 77, poison := p }
def vd (n : Nat) : OwnEntry := { kind := .void, op := 9, rcid := rc, serial := n }
def mw (n a : Nat) (src := 5): Msg := { src := src, oinc := 1, rcid := rc, op := 9, serial := some n, ackt := 2, body := .request (.write a 8 0x1122 0 1) }
def MS : List Msg := [mw 5 0x100000, mw 8 0x100008, mw 13 0x100000 0, {mw 5 0 with body := .ack, ackt := 5, serial := none}, {mw 5 0 with body := .ack, ackt := 2, serial := none}, { mw 5 0 with serial := none, body := .request (.rqry 5) }, { mw 5 0 with serial := none, body := .request (.rqry 8) }, { mw 5 0 with serial := none, body := .request (.read 0x100000 8) }, { mw 5 0 with serial := none, body := .request (.read 0x100000 1), src := 0 }]
def ow (l : List OwnEntry) (m : Msg) : State := { world with owner := l, inbox := [{src:=1, body := .ack}, m], ports := [(3, 17), (4, 17)], routes := [(5, 2^63+8)] }
def LS : List (List OwnEntry) := [[fl 2], [fl 2, res 5, vd 8], [res 5], [fl 1, res 2, res 5, { fl 1 with rcid := 3 }], [], [{fl 2 with stamp := 500+2^32-1000}, res 5], [{fl 2 with stamp := 500+2^32-1000}]]
/-- The states of the witnesses below. -/
def states : List State :=
  LS.flatMap fun l => MS.map fun m => ow l m

end Sys2Proof.Tests.OwnerOfRemoteLines

open Sys2Proof.Machine Sys2Proof.Tests in
theorem Sys2Proof.Tests.witness_OwnerOfRemoteLines :
    (let s := OwnerOfRemoteLines.states.getD 0 world; let m : Nat := 1
     match s.inbox[m]? with
     | some x => (
     match x.body with
     | .request (.write a 8 v key kind) => (
     match x.serial with
     | some n => (
     match s.floorOf x with
     | some f => (
     let kinds (k : OwnKind) (n : Nat) : Option OwnEntry := s.owner.find? fun e => e.kind == k && e.rcid == x.rcid && e.svc == x.svc && e.serial == n
     let fresh : Prop := x.age ≤ 1500000 ∧ x.oinc = s.oinc
     let same : Prop := s.owner.all (fun e => !(rcidPkg e.rcid == rcidPkg x.rcid && rcidInc e.rcid != rcidInc x.rcid)) = true
     decide (s.inLog a = false) && decide (s.lineFirst m (.write a 8 v key kind) = false) && decide (f.serial = x.ackt) && decide (serialLe n f.serial = false) &&
       decide (isTier a = true) && decide (s.regionAt (a / 4096 * 4096) = none) && decide (a % 8 = 0) &&
       decide (s.ownerFree x.rcid = true) && decide (kinds .void n = none) && decide (kinds .result n = none) && decide (fresh) &&
       decide (same)) | _ => false) | _ => false) | _ => false) | _ => false) = true ∧
    (let s := OwnerOfRemoteLines.states.getD 9 world; let m : Nat := 1
     match s.inbox[m]? with
     | some x => (
     match x.body with
     | .request (.write a 8 v key kind) => (
     match x.serial with
     | some n => (
     match s.floorOf x with
     | some f => (
     let kinds (k : OwnKind) (n : Nat) : Option OwnEntry := s.owner.find? fun e => e.kind == k && e.rcid == x.rcid && e.svc == x.svc && e.serial == n
     match kinds .result n with
     | some _ => (
     let fresh : Prop := x.age ≤ 1500000 ∧ x.oinc = s.oinc
     let same : Prop := s.owner.all (fun e => !(rcidPkg e.rcid == rcidPkg x.rcid && rcidInc e.rcid != rcidInc x.rcid)) = true
     decide (s.inLog a = false) && decide (s.lineFirst m (.write a 8 v key kind) = false) && decide (f.serial = x.ackt) && decide (serialLe n f.serial = false) &&
       decide (isTier a = true) && decide (s.regionAt (a / 4096 * 4096) = none) && decide (a % 8 = 0) &&
       decide (kinds .void n = none) && decide (fresh) && decide (same)) | _ => false) | _ => false) | _ => false) | _ => false) | _ => false) = true ∧
    (let s := OwnerOfRemoteLines.states.getD 3 world; let m : Nat := 1
     match s.inbox[m]? with
     | some x => (
     match s.floorOf x with
     | some f => (
     let fresh : Prop := x.age ≤ 1500000 ∧ x.oinc = s.oinc
     let same : Prop := s.owner.all (fun e => !(rcidPkg e.rcid == rcidPkg x.rcid && rcidInc e.rcid != rcidInc x.rcid)) = true
     decide (x.body = .ack) && decide (f.serial ≠ x.ackt) && decide (serialLe f.serial x.ackt = true) && decide (fresh) &&
       decide (same)) | _ => false) | _ => false) = true ∧
    (let s := OwnerOfRemoteLines.states.getD 14 world; let m : Nat := 1
     match s.inbox[m]? with
     | some x => (
     match x.body with
     | .request (.rqry n) => (
     let kinds (k : OwnKind) (n : Nat) : Option OwnEntry := s.owner.find? fun e => e.kind == k && e.rcid == x.rcid && e.svc == x.svc && e.serial == n
     match kinds .result n with
     | some _ => (
     let fresh : Prop := x.age ≤ 1500000 ∧ x.oinc = s.oinc
     decide (fresh)) | _ => false) | _ => false) | _ => false) = true ∧
    (let s := OwnerOfRemoteLines.states.getD 15 world; let m : Nat := 1
     match s.inbox[m]? with
     | some x => (
     match x.body with
     | .request (.rqry n) => (
     let kinds (k : OwnKind) (n : Nat) : Option OwnEntry := s.owner.find? fun e => e.kind == k && e.rcid == x.rcid && e.svc == x.svc && e.serial == n
     let fresh : Prop := x.age ≤ 1500000 ∧ x.oinc = s.oinc
     decide (kinds .result n = none) && decide ((kinds .void n).isSome = true) && decide (fresh)) | _ => false) | _ => false) = true ∧
    (let s := OwnerOfRemoteLines.states.getD 24 world; let m : Nat := 1
     match s.inbox[m]? with
     | some x => (
     match x.body with
     | .request (.rqry n) => (
     let kinds (k : OwnKind) (n : Nat) : Option OwnEntry := s.owner.find? fun e => e.kind == k && e.rcid == x.rcid && e.svc == x.svc && e.serial == n
     let fresh : Prop := x.age ≤ 1500000 ∧ x.oinc = s.oinc
     decide (s.floorOf x = none) && decide (s.ownerFree x.rcid = true) && decide (kinds .result n = none) &&
       decide (kinds .void n = none) && decide (fresh)) | _ => false) | _ => false) = true ∧
    (let s := OwnerOfRemoteLines.states.getD 7 world; let m : Nat := 1
     match s.inbox[m]? with
     | some x => (
     match x.body with
     | .request (.read a n) => (
     decide (s.lineFirst m (.read a n) = false) && decide (s.inLog a = false) && decide (x.age ≤ 1500000) && decide (isTier a = true) &&
       decide (a % 64 + n ≤ 64) && decide (1 ≤ n) && decide (s.regionAt (a / 4096 * 4096) = none) &&
       decide (s.poisonAt a n = none)) | _ => false) | _ => false) = true ∧
    (let s := OwnerOfRemoteLines.states.getD 54 world; let m : Nat := 0; let n : Nat := 0
     match s.inbox[m]? with
     | some _ => (
     match s.owner[n]? with
     | some f => (
     decide (f.kind = .floor) && decide (1500 ≤ (s.time / 1000 % 2 ^ 32 + 2 ^ 32 - f.stamp) % 2 ^ 32) &&
       decide (s.owner.any (fun e => e.kind != .floor && e.rcid == f.rcid && e.svc == f.svc) = false)) | _ => false) | _ => false) = true := by decide +kernel

namespace Sys2Proof.Tests.StallAndChainEvents

open Sys2Proof.Machine

def qk := queueKey gid 2
def ch (q : Queue) (b : List Msg) : State := { world with queues := [(qk, q)], inbox := b, groups := world.groups.map fun e => (e.1, { e.2 with pages := [1] }) }
def msg (b : MsgBody) : Msg := { src := 3, chain := 9, body := b }
def bt (pk v : Nat) : Beat := { data := BitVec.ofNat 512 v, tags := 0x55555554, pack := BitVec.ofNat 64 (0x2222222222222220 + pk) }
def co : ChainOut := { pkg := 3, chain := 9, base := 0, acked := 1, seq := 4, limit := 66, sentAt := 0, beatAt := 0 }
def ci : ChainIn := { pkg := 3, chain := 9, seq := 5, heardAt := 0 }
def qd1 : Nat := 2^62
def qd2 : Nat := 2*2^62 + 2^61
def stl (o : QOp) (d : Nat) (bs : List Beat) : State := { World { bank with stalled := some 5, stall := some { op := o, q := 1, full := some true } } with queues := [(queueKey gid 1, { d0 := d * 2^62, d1 := 0, beats := bs })] , cur := 5 }
/-- The states of the witnesses below. -/
def states : List State :=
  [ch { d0 := qd1, cin := some ci } [msg (.chainBeat 5 77 0 0)],
    ch { d0 := qd2, cout := some co, beats := [bt 0 1, bt 0 2, bt 0 3, bt 0 4] } [msg (.chainAck 2 64)],
    ch { d0 := qd2, cout := some { co with attempt := 6 }, beats := [bt 0 1, bt 0 2, bt 0 3, bt 0 4] } [],
    { ch { d0 := qd1, cin := some ci } [msg .chainFault] with time := 2000000},
    stl (.spop 3 1) 1 [bt 1 5],
    stl (.spush 3 1 false 2) 2 [],
    stl (.vpush 3 1 1 false 2) 2 [],
    { stl (.qflush 1) 2 [] with banks := [(0, { (stl (.qflush 1) 2 []).bank 0 with packs := [{ q := 1, n := 2, beat := bt 0 1 }] })] },
    ch { d0 := qd1, cin := some { ci with again := 1, wlen := 1, next := 4 } } [msg (.chainBeat 4 77 0 0)],
    ch { d0 := qd1, cin := some ci } [msg (.chainBeat 6 77 0 0)],
    stl (.vpop 3 1 1 2 3) 2 [bt 1 5],
    { stl (.bqb 3 (-4)) 2 [] with queues := [(queueKey gid 63, { d0 := 2 * 2^62, beats := [bt 1 5] })], banks := [(0, { (stl (.bqb 3 (-4)) 2 []).bank 0 with stall := some { op := .bqb 3 (-4), q := 63, full := some false } })] },
    stl (.mpush 2 1 2) 1 [],
    stl (.mpushLit 1 2 7) 1 [],
    stl (.qwait 2 1 0) 2 [bt 1 5, bt 1 6, bt 1 7]]

end Sys2Proof.Tests.StallAndChainEvents

open Sys2Proof.Machine Sys2Proof.Tests in
theorem Sys2Proof.Tests.witness_StallAndChainEvents :
    (let s := StallAndChainEvents.states.getD 4 world; let r : Nat := 0
     match (s.bank r).stall with
     | some z => (
     decide ((s.bank r).stalled.isSome = true) && decide (s.canIssue r = true) && decide ((s.trapDue r).isNone = true) &&
       decide (z.parks = true) && decide (s.stallReady r = true)) | _ => false) = true ∧
    (let s := StallAndChainEvents.states.getD 0 world; let m : Nat := 0
     match s.inbox[m]? with
     | some x => (
     match x.body with
     | .chainBeat _ _ _ _ => (
     match s.chainEnd x false with
     | some k => (
     let y := s.queue k
     match y.cin with
     | some _ => (
     true) | _ => false) | _ => false) | _ => false) | _ => false) = true ∧
    (let s := StallAndChainEvents.states.getD 1 world; let m : Nat := 0
     match s.inbox[m]? with
     | some x => (
     match x.body with
     | .chainAck n c => (
     match s.chainEnd x true with
     | some k => (
     let y := s.queue k
     match y.cout with
     | some co => (
     let base := ((n + c) % 2 ^ 32 + 2 ^ 32 - 64) % 2 ^ 32
     decide (serialLe co.acked n = true) && decide (serialLe n co.seq = true) &&
       decide (serialLe co.limit ((n + c) % 2 ^ 32) = true) && decide (serialLe co.base base = true)) | _ => false) | _ => false) | _ => false) | _ => false) = true ∧
    (let s := StallAndChainEvents.states.getD 1 world; let k : Nat := 1073741826
     let y := s.queue k
     match y.cout with
     | some co => (
     decide (s.chainLate co = true) && decide (co.attempt < 6)) | _ => false) = true ∧
    (let s := StallAndChainEvents.states.getD 2 world; let k : Nat := 1073741826
     let y := s.queue k
     match y.cout with
     | some co => (
     decide (s.chainLate co = true) && decide (6 ≤ co.attempt)) | _ => false) = true ∧
    (let s := StallAndChainEvents.states.getD 1 world; let k : Nat := 1073741826
     let y := s.queue k
     match y.cout with
     | some co => (
     decide (co.beatAt + 100000 ≤ s.time)) | _ => false) = true ∧
    (let s := StallAndChainEvents.states.getD 3 world; let k : Nat := 1073741826
     let y := s.queue k
     match y.cin with
     | some ci => (
     decide (ci.heardAt + 1500000 ≤ s.time)) | _ => false) = true ∧
    (let s := StallAndChainEvents.states.getD 3 world; let m : Nat := 0
     match s.inbox[m]? with
     | some x => (
     match s.chainEnd x false with
     | some _ => (
     decide (x.body = .chainFault)) | _ => false) | _ => false) = true ∧
    (let s := StallAndChainEvents.states.getD 5 world; let r : Nat := 0; let a : BitVec 5 := 3; let q : BitVec 6 := 1
     let w : BitVec 1 := 0; let p : BitVec 4 := 2
     match (s.bank r).stall with
     | some z => (
     decide ((s.bank r).stalled.isSome = true) && decide (s.canIssue r = true) && decide ((s.trapDue r).isNone = true) &&
       decide (z.parks = true) && decide (s.stallReady r = true) &&
       decide (z.op = .spush a.toNat q.toNat (w == 1) p.toNat)) | _ => false) = true ∧
    (let s := StallAndChainEvents.states.getD 6 world; let r : Nat := 0; let v : BitVec 4 := 3; let q : BitVec 6 := 1
     let e : BitVec 3 := 1; let w : BitVec 1 := 0; let p : BitVec 4 := 2
     match (s.bank r).stall with
     | some z => (
     decide ((s.bank r).stalled.isSome = true) && decide (s.canIssue r = true) && decide ((s.trapDue r).isNone = true) &&
       decide (z.parks = true) && decide (s.stallReady r = true) &&
       decide (z.op = .vpush v.toNat q.toNat e.toNat (w == 1) p.toNat)) | _ => false) = true ∧
    (let s := StallAndChainEvents.states.getD 10 world; let r : Nat := 0; let v : BitVec 4 := 3; let q : BitVec 6 := 1; let e : BitVec 3 := 1; let f : BitVec 3 := 2; let h : BitVec 3 := 3
     match (s.bank r).stall with
     | some z => (
     decide ((s.bank r).stalled.isSome = true) && decide (s.canIssue r = true) && decide ((s.trapDue r).isNone = true) &&
       decide (z.parks = true) && decide (s.stallReady r = true) && decide (z.op = .vpop v.toNat q.toNat e.toNat f.toNat h.toNat)) | _ => false) = true ∧
    (let s := StallAndChainEvents.states.getD 11 world; let r : Nat := 0; let a : BitVec 5 := 3; let o : BitVec 16 := 0xffff
     match (s.bank r).stall with
     | some z => (
     decide ((s.bank r).stalled.isSome = true) && decide (s.canIssue r = true) && decide ((s.trapDue r).isNone = true) &&
       decide (z.parks = true) && decide (s.stallReady r = true) && decide (z.op = .bqb a.toNat (o.signExtend 64 * 4))) | _ => false) = true ∧
    (let s := StallAndChainEvents.states.getD 12 world; let r : Nat := 0; let a : BitVec 5 := 2; let q : BitVec 6 := 1; let mk : BitVec 8 := 2
     match (s.bank r).stall with
     | some z => (
     decide ((s.bank r).stalled.isSome = true) && decide (s.canIssue r = true) && decide ((s.trapDue r).isNone = true) &&
       decide (z.parks = true) && decide (s.stallReady r = true) && decide (z.op = .mpush a.toNat q.toNat mk.toNat)) | _ => false) = true ∧
    (let s := StallAndChainEvents.states.getD 13 world; let r : Nat := 0; let q : BitVec 6 := 1; let lit : BitVec 32 := 0x02000007
     match (s.bank r).stall with
     | some z => (
     decide ((s.bank r).stalled.isSome = true) && decide (s.canIssue r = true) && decide ((s.trapDue r).isNone = true) &&
       decide (z.parks = true) && decide (s.stallReady r = true) && decide (z.op = .mpushLit q.toNat (lit.toNat / 2 ^ 24) (lit.toNat % 2 ^ 24))) | _ => false) = true ∧
    (let s := StallAndChainEvents.states.getD 14 world; let r : Nat := 0; let a : BitVec 5 := 2; let q : BitVec 6 := 1; let mode : BitVec 2 := 0
     match (s.bank r).stall with
     | some z => (
     decide ((s.bank r).stalled.isSome = true) && decide (s.canIssue r = true) && decide ((s.trapDue r).isNone = true) &&
       decide (z.parks = true) && decide (s.stallReady r = true) && decide (z.op = .qwait a.toNat q.toNat mode.toNat)) | _ => false) = true ∧
    (let s := StallAndChainEvents.states.getD 7 world; let r : Nat := 0; let q : BitVec 6 := 1
     match (s.bank r).stall with
     | some z => (
     decide ((s.bank r).stalled.isSome = true) && decide (s.canIssue r = true) && decide ((s.trapDue r).isNone = true) &&
       decide (z.parks = true) && decide (s.stallReady r = true) && decide (z.op = .qflush q.toNat)) | _ => false) = true ∧
    (let s := StallAndChainEvents.states.getD 8 world; let m : Nat := 0
     match s.inbox[m]? with
     | some x => (
     match x.body with
     | .chainBeat sq _ _ _ => (
     match s.chainEnd x false with
     | some k => (
     match (s.queue k).cin with
     | some ci => (
     decide (s.chainOpen k = true) && decide (0 < ci.again ∧ sq = ci.next)) | _ => false) | _ => false) | _ => false) | _ => false) = true ∧
    (let s := StallAndChainEvents.states.getD 9 world; let m : Nat := 0
     match s.inbox[m]? with
     | some x => (
     match x.body with
     | .chainBeat sq _ _ _ => (
     match s.chainEnd x false with
     | some k => (
     match (s.queue k).cin with
     | some ci => (
     decide (s.chainOpen k = true) &&
       decide (¬ (0 < ci.again ∧ sq = ci.next) ∧ sq ≠ ci.seq)) | _ => false) | _ => false) | _ => false) | _ => false) = true := by decide +kernel

namespace Sys2Proof.Tests.FabricEvents

open Sys2Proof.Machine

def bt (pk v : Nat) : Beat := { data := BitVec.ofNat 512 v, tags := 0x55555554, pack := BitVec.ofNat 64 (0x2222222222222220 + pk) }
def pg (x : Page) (f : State → State := id) : State :=
  f { world with pages := [(1, some x)], groups := world.groups.map fun e => (e.1, { e.2 with pages := [1] }) }
def P0 : Page := { gid := gid, rel := 0 }
def arc (s : State) (k pt : Nat) (l : List Beat) : State := s.setArc k { page := 1, port := pt, slots := 4, beats := l }
def wAdd : Nat := 1 * 2^56 + 4 * 2^52 + 2 * 2^44 + 5 * 2^41 + 1 * 2^32 + 0x3f800000
def fifo : Nat := 1 * 2^60 + 4*2^56 + 8 * 2^16
def lut : Nat := 4 * 2^60 + 4*2^56 + 8 * 2^16
/-- The states of the witnesses below. -/
def states : List State :=
  [pg (P0.setStage 0 0 { word := wAdd, out := [(0, bt 0 9)] }),
    arc (pg (P0.setStage 0 0 { word := wAdd })) (128 + 0) 99 [bt 0 0x40000000],
    arc (pg (P0.setStage 0 0 { word := wAdd })) (128 + 0) 99 [bt 1 0x40000000],
    arc (arc (pg (P0.setUnit 0 { word := fifo })) (128 + 64) 3 [bt 0 5, bt 0 6]) (128 + 1) 66 [],
    arc (arc (pg (P0.setUnit 0 { word := lut })) (128 + 64) 3 [bt 0 5, bt 0 6]) (128 + 1) 66 [],
    { arc (pg P0) (2 * 128 + 5) 3 [bt 0 1] with cycle := 70, late := true, net := [{ arc := 2*128+5, beat := bt 0 2, page := 0, since := 0 }] },
    { arc (pg (P0.setStage 0 0 { word := 0x43 * 2^56 + 2 * 2^44 })) (128 + 0) 99 [bt 0 0x40000000] with queues := [(queueKey gid 63, { d0 := 2 * 2^62 })] },
    arc (pg (P0.setUnit 0 { word := fifo, out := [bt 0 5] })) (128 + 1) 66 [],
    pg { P0.setUnit 0 { word := fifo + 2^49, out := [bt 0 5] } with ma := some { word := 0x10 * 2^56 } },
    { arc (pg P0) (2 * 128 + 5) 3 [bt 0 1] with late := true, net := [{ arc := 2*128+5, beat := bt 0 2, page := 1, since := 0, lane := true }] }]

/-- One entry for each arc. -/
def single (s : State) : Bool := s.arcs.all fun e => s.arc e.1 == e.2

/-- A packet of a die is on the escape lane. -/
def rides (d : Nat) (y : Packet) : Bool := y.page / 18 == d && !y.arrived && y.lane

end Sys2Proof.Tests.FabricEvents

open Sys2Proof.Machine Sys2Proof.Tests in
theorem Sys2Proof.Tests.witness_FabricEvents :
    (let s := FabricEvents.states.getD 0 world; let p : Nat := 1; let u : Nat := 0; let n : Nat := 0
     match s.page p with
     | some x => (
     let t := x.stage u n
     match t.out with
     | (g, _) :: _ => (
     let w := t.word
     decide (s.graphRuns x.gid = true) && decide (s.pump p = s) && FabricEvents.single s && decide (u < 8) && decide (n < 6) && decide (cOpc w ≠ 0) &&
       decide (cOpc w ≠ 0xff) && decide (s.routesRoom p u n w g = true)) | _ => false) | _ => false) = true ∧
    (let s := FabricEvents.states.getD 1 world; let p : Nat := 1; let u : Nat := 0; let n : Nat := 0
     match s.page p with
     | some x => (
     let t := x.stage u n
     let w := t.word
     match nodeStep w t.core (s.stageSrc p x u n 0, s.stageSrc p x u n 1, s.stageSrc p x u n 2) with
     | .go _ _ _ _ _ _ => (
     decide (s.graphRuns x.gid = true) && decide (s.pump p = s) && FabricEvents.single s && decide (x.checked = false) && decide (u < 8) &&
       decide (n < 6) && decide (t.out = []) &&
       decide (rcfCheck (streamHeads ((List.range 3).map (s.stageSrc p x u n))) t.core.ended = .none) && decide (cOpc w ≠ 0) &&
       decide (cOpc w ≠ 0xff) && decide (s.routesRoom p u n w 0 = true) && decide (cOpc w ≠ 0x43)) | _ => false) | _ => false) = true ∧
    (let s := FabricEvents.states.getD 2 world; let p : Nat := 1; let u : Nat := 0; let n : Nat := 0
     match s.page p with
     | some x => (
     let t := x.stage u n
     let w := t.word
     match nodeStep w t.core (s.stageSrc p x u n 0, s.stageSrc p x u n 1, s.stageSrc p x u n 2) with
     | .fault _ => (
     decide (s.graphRuns x.gid = true) && decide (s.pump p = s) && FabricEvents.single s && decide (u < 8) && decide (n < 6) && decide (t.out = []) &&
       decide (rcfCheck (streamHeads ((List.range 3).map (s.stageSrc p x u n))) t.core.ended = .none) && decide (cOpc w ≠ 0) &&
       decide (cOpc w ≠ 0xff) && decide (s.routesRoom p u n w 0 = true) && decide (cOpc w ≠ 0x43)) | _ => false) | _ => false) = true ∧
    (let s := FabricEvents.states.getD 3 world; let p : Nat := 1; let u : Nat := 0
     match s.page p with
     | some x => (
     match unitStep (x.unit u) (s.unitRoom p x u) (s.arcHead p (64 + 4 * u)) (s.arcHead p (65 + 4 * u)) with
     | .go _ _ _ _ _ => (
     decide (s.choice = 0) && decide (s.graphRuns x.gid = true) && decide (s.pump p = s) && FabricEvents.single s && decide (u < 8) &&
       decide (uMode (x.unit u).word ≠ 0) && decide ((x.unit u).out = []) && decide (uMode (x.unit u).word ≠ 5) &&
       decide (rcfCheck [(0, s.arcHead p (64 + 4 * u))] (x.unit u).core.ended = .none)) | _ => false) | _ => false) = true ∧
    (let s := FabricEvents.states.getD 4 world; let p : Nat := 1; let u : Nat := 0
     match s.page p with
     | some x => (
     match unitStep (x.unit u) (s.unitRoom p x u) (s.arcHead p (64 + 4 * u)) (s.arcHead p (65 + 4 * u)) with
     | .fault _ => (
     decide (s.choice = 0) && decide (s.graphRuns x.gid = true) && decide (s.pump p = s) && FabricEvents.single s && decide (u < 8) &&
       decide (uMode (x.unit u).word ≠ 0) && decide ((x.unit u).out = []) && decide (uMode (x.unit u).word ≠ 5) &&
       decide (rcfCheck [(0, s.arcHead p (64 + 4 * u))] (x.unit u).core.ended = .none)) | _ => false) | _ => false) = true ∧
    (let s := FabricEvents.states.getD 0 world; let p : Nat := 1; let u : Nat := 0; let d : Nat := 0
     match s.page p with
     | some x => (
     let o := Tab.get 0 s.ochre d
     decide (s.graphRuns x.gid = true) && decide (s.pump p = s) && FabricEvents.single s && decide (u < 8) && decide (d < 8) &&
       s.net.all (fun y => !FabricEvents.rides d y && !y.due s.net (d * 18 + o) s.cycle)) | _ => false) = true ∧
    (let s := FabricEvents.states.getD 5 world; let p : Nat := 1; let u : Nat := 0; let d : Nat := 0
     match s.page p with
     | some x => (
     let o := Tab.get 0 s.ochre d
     match s.net with
     | y :: _ => (
     decide (s.graphRuns x.gid = true) && decide (s.pump p = s) && FabricEvents.single s && decide (u < 8) && decide (d < 8) &&
       s.net.all (fun y => !FabricEvents.rides d y) && y.due s.net (d * 18 + o) s.cycle) | _ => false) | _ => false) = true ∧
    (let s := FabricEvents.states.getD 6 world; let p : Nat := 1; let u : Nat := 0; let n : Nat := 0
     match s.page p with
     | some x => (
     let t := x.stage u n
     let w := t.word
     match nodeStep w t.core (s.stageSrc p x u n 0, s.stageSrc p x u n 1, s.stageSrc p x u n 2), s.stageSrc p x u n 0 with
     | .go _ _ _ _ _ _, .stream (some h) => (
     decide (s.graphRuns x.gid = true) && decide (s.pump p = s) && FabricEvents.single s && decide (x.checked = false) && decide (t.out = []) &&
       decide (rcfCheck (streamHeads ((List.range 3).map (s.stageSrc p x u n))) t.core.ended = .none) && decide (cOpc w = 0x43) &&
       decide (s.routesRoom p u n w 0 = true) && decide (s.bqRoom x.gid = true) && decide (h.has 5 = false) &&
       decide ((s.queue (queueKey x.gid 63)).discard = 0)) | _, _ => false) | _ => false) = true ∧
    (let s := FabricEvents.states.getD 7 world; let p : Nat := 1; let u : Nat := 0
     match s.page p with
     | some x => (
     match s.arcOut p (66 + 4 * u) with
     | some (k, z) => (
     decide (s.choice = 0) && decide (s.graphRuns x.gid = true) && decide (s.pump p = s) && FabricEvents.single s &&
       decide (uMode (x.unit u).word ≠ 0) && decide ((x.unit u).out ≠ []) && decide (uFeed (x.unit u).word = false) &&
       decide (s.arcRoom k z = true)) | _ => false) | _ => false) = true ∧
    (let s := FabricEvents.states.getD 8 world; let p : Nat := 1; let u : Nat := 0
     match s.page p with
     | some x => (
     match x.ma, (x.unit u).out with
     | some m, b :: _ => (
     match m.feed u b with
     | .ok _ => (
     decide (s.choice = 0) && decide (s.graphRuns x.gid = true) && decide (s.pump p = s) && FabricEvents.single s &&
       decide (uMode (x.unit u).word ≠ 0) && decide (uFeed (x.unit u).word = true) && decide (s.errWaits x.gid = false)) | _ => false) | _, _ => false) | _ => false) = true ∧
    (let s := FabricEvents.states.getD 9 world; let p : Nat := 1; let d : Nat := 0
     match s.page p with
     | some x => (
     match s.net with
     | y :: r => (
     decide (s.graphRuns x.gid = true) && decide (s.pump p = s) && FabricEvents.single s && r.isEmpty && FabricEvents.rides d y &&
       decide (nextSwitch y.page (y.arc / 128) = y.arc / 128)) | _ => false) | _ => false) = true := by decide +kernel

namespace Sys2Proof.Tests.MatrixEvents

open Sys2Proof.Machine

def bt (pk v : Nat) : Beat := { data := BitVec.ofNat 512 v, tags := 0x55555554, pack := BitVec.ofNat 64 (0x2222222222222220 + pk) }
def pg (x : Page) (f : State → State := id) : State :=
  f { world with pages := [(1, some x)], groups := world.groups.map fun e => (e.1, { e.2 with pages := [1] }) }
def P0 : Page := { gid := gid, rel := 0 }
def mw (m : Matrix) (c := 0) (x : Page := P0) : State := { pg { x with ma := some m } with cycle := c }
def st32 : List (List Beat) := List.replicate 8 (List.replicate 32 (bt 9 0))
def wm : Nat := 3 * 2^56 + 8*2^52 + 8*2^48 + 2*2^46
def mk (c : Nat) : List (Option Lane) := List.replicate 8 (some (markLane c 3))
def rcvPage : Page := P0.setStage 2 0 { word := 1 * 2^56 + 4 * 2^52 + 4 * 2^44 + 5 * 2^41 + 2^33 }
/-- The states of the witnesses below. -/
def states : List State :=
  [mw { word := wm, staged := st32 },
    mw { word := 1*2^56+6*2^52+6*2^48, fire := some { slabs := List.replicate 8 [], buf := 0, shadow := false, at' := 0 } } 32,
    mw { word := wm, marks := mk 1, buf0 := { st := 1, acc := [(5, 3)] } },
    mw { word := wm, marks := mk 1, buf0 := { st := 1, acc := [(5, 3)] }, items := [.buf 1], buf1 := { st := 3 } },
    mw { word := wm, items := [.mark 1 3, .buf 0], drow := 0, buf0 := { st := 2, acc := [(5, 3)] } } 0 rcvPage,
    mw { word := wm, snap := some { word := wm, st0 := 0, st1 := 0, nextbuf := 0, shcnt := 0, drow := 0 } } 0 rcvPage,
    mw { word := wm, staged := st32, buf0 := { st := 1, acc := [(5, 3)] } },
    mw { word := wm, marks := mk 2, buf0 := { st := 1, acc := [(5, 3)] } },
    mw { word := wm, items := [.buf 0], drow := 127, buf0 := { st := 3, acc := [(5, 3)] } } 0 rcvPage,
    mw { word := wm, items := [.buf 0], buf0 := { st := 3, err := true } } 0 rcvPage,
    mw { word := wm, fire := some { slabs := List.replicate 8 [], buf := 0, shadow := true, at' := 0 } } 96]

end Sys2Proof.Tests.MatrixEvents

open Sys2Proof.Machine Sys2Proof.Tests in
theorem Sys2Proof.Tests.witness_MatrixEvents :
    (let s := MatrixEvents.states.getD 0 world; let p : Nat := 1
     match s.page p with
     | some x => (
     match x.ma with
     | some m => (
     let d := if aBuf m.word = 2 then m.nextbuf else aBuf m.word
     let b := m.buf d
     decide (s.graphRuns x.gid = true) && decide (aMma m.word = true) && decide (m.fire = none) &&
       decide (m.staged.all (fun l => l.length == if aForm m.word = 5 then 40 else 32) = true) && decide (b.st ≤ 1)) | _ => false) | _ => false) = true ∧
    (let s := MatrixEvents.states.getD 1 world; let p : Nat := 1
     match s.page p with
     | some x => (
     match x.ma with
     | some m => (
     match m.fire with
     | some f => (
     decide (s.graphRuns x.gid = true) && decide (f.shadow = false) && decide (f.at' + 32 ≤ s.cycle)) | _ => false) | _ => false) | _ => false) = true ∧
    (let s := MatrixEvents.states.getD 2 world; let p : Nat := 1
     match s.page p with
     | some x => (
     match x.ma with
     | some m => (
     match m.marks.getD (if aHalf m.word then 4 else 0) none with
     | some k => (
     decide (s.graphRuns x.gid = true) && decide (m.fire = none) && decide (m.marks.all Option.isSome = true) &&
       decide (k.code ≠ 4)) | _ => false) | _ => false) | _ => false) = true ∧
    (let s := MatrixEvents.states.getD 3 world; let p : Nat := 1
     match s.page p with
     | some x => (
     match x.ma with
     | some m => (
     match m.items with
     | .buf n :: _ => (
     decide (s.graphRuns x.gid = true) && decide (x.receivers.all (fun u => (Tab.get none x.drains u).isNone) = true) &&
       decide ((m.buf n).st = 3) && decide ((m.buf n).err = false)) | _ => false) | _ => false) | _ => false) = true ∧
    (let s := MatrixEvents.states.getD 4 world; let p : Nat := 1
     match s.page p with
     | some x => (
     match x.ma with
     | some m => (
     match m.items with
     | .mark _ _ :: _ => (
     decide (s.graphRuns x.gid = true) && decide (x.receivers.all (fun u => (Tab.get none x.drains u).isNone) = true)) | _ => false) | _ => false) | _ => false) = true ∧
    (let s := MatrixEvents.states.getD 0 world; let p : Nat := 1
     match s.page p with
     | some x => (
     match x.ma with
     | some m => (
     let stuck : Bool := s.pages.any fun e => (match e.2 with | some y => y.gid == x.gid && y.stuck | none => false)
     let lost : Bool := (List.range 64).any fun q => (s.queue (queueKey x.gid q)).dir == 1 && bitAt (s.queue (queueKey x.gid q)).d0 60
     decide (s.choice = 0) && decide (s.graphRuns x.gid = true) && decide (m.fire = none) && decide (stuck ∨ lost)) | _ => false) | _ => false) = true ∧
    (let s := MatrixEvents.states.getD 5 world; let p : Nat := 1
     match s.page p with
     | some x => (
     match x.ma with
     | some m => (
     let stuck : Bool := s.pages.any fun e => (match e.2 with | some y => y.gid == x.gid && y.stuck | none => false)
     let lost : Bool := (List.range 64).any fun q => (s.queue (queueKey x.gid q)).dir == 1 && bitAt (s.queue (queueKey x.gid q)).d0 60
     decide (s.choice = 0) && decide (s.graphRuns x.gid = true) && decide (m.fire = none) && decide (¬ stuck) &&
       decide (¬ lost)) | _ => false) | _ => false) = true ∧
    (let s := MatrixEvents.states.getD 6 world; let p : Nat := 1
     match s.page p with
     | some x => (
     match x.ma with
     | some m => (
     decide (s.graphRuns x.gid = true) && decide (s.errWaits x.gid = false) && decide (aMma m.word = true) && decide (m.fire = none) &&
       decide (m.staged.all (fun l => l.length == if aForm m.word = 5 then 40 else 32) = true) &&
       decide ((m.buf (if aBuf m.word = 2 then m.nextbuf else aBuf m.word)).st = 1)) | _ => false) | _ => false) = true ∧
    (let s := MatrixEvents.states.getD 7 world; let p : Nat := 1
     match s.page p with
     | some x => (
     match x.ma with
     | some m => (
     match m.marks.getD (if aHalf m.word then 4 else 0) none with
     | some k => (
     decide (s.graphRuns x.gid = true) && decide (m.fire = none) && decide (m.marks.all Option.isSome = true) && decide (k.code ≠ 4) &&
       decide (aMma m.word = false ∨ k.code ≠ aClose m.word)) | _ => false) | _ => false) | _ => false) = true ∧
    (let s := MatrixEvents.states.getD 8 world; let p : Nat := 1
     match s.page p with
     | some x => (
     match x.ma with
     | some m => (
     match m.items with
     | .buf n :: _ => (
     decide (s.graphRuns x.gid = true) && decide (x.receivers.all (fun u => (Tab.get none x.drains u).isNone) = true) &&
       decide ((m.buf n).st = 3) && decide ((m.buf n).err = false) &&
       decide (m.drow = 127)) | _ => false) | _ => false) | _ => false) = true ∧
    (let s := MatrixEvents.states.getD 9 world; let p : Nat := 1
     match s.page p with
     | some x => (
     match x.ma with
     | some m => (
     match m.items with
     | .buf n :: _ => (
     decide (s.graphRuns x.gid = true) && decide (x.receivers.all (fun u => (Tab.get none x.drains u).isNone) = true) &&
       decide ((m.buf n).st = 3) && decide ((m.buf n).err = true)) | _ => false) | _ => false) | _ => false) = true ∧
    (let s := MatrixEvents.states.getD 10 world; let p : Nat := 1
     match s.page p with
     | some x => (
     match x.ma with
     | some m => (
     match m.fire with
     | some f => (
     decide (s.graphRuns x.gid = true) && decide (s.errWaits x.gid = false) && decide (f.shadow = true) &&
       decide (f.at' + 96 ≤ s.cycle) && decide (s.choice = 0)) | _ => false) | _ => false) | _ => false) = true ∧
    (let s := MatrixEvents.states.getD 10 world; let p : Nat := 1
     match s.page p with
     | some x => (
     match x.ma with
     | some _m => (
     decide (s.graphRuns x.gid = true) && decide (s.choice ≠ 1) && decide (s.firing x.gid = true)) | _ => false) | _ => false) = true := by decide +kernel

namespace Sys2Proof.Tests.LaunchEvents

open Sys2Proof.Machine

def dws (l : List Nat) : Nat := l.foldr (fun d v => d + 2 ^ 64 * v) 0
def leafF : List Nat := [0, 0x4f03, 144 + 100 * 2^16 + 2^20 * 2^32, 2 + 8 * 2 ^ 8 + 16 * 2 ^ 20, 0, 0, 0, 0, 0, 0x400000, 4, 0x5000, 1 + 3 * 2 ^ 8, 0, 0, 0]
def key (l n : Nat) (s : State) : State := { s with lines := (List.range n).foldl (fun t i => Tab.set {} t (l + i) { key := some { slot := 0, ver := 0 } }) s.lines }
def wF : State := key 0x100 2 { (put world 0x4000 128 (dws leafF)) with rcbs := [(0x4000, leafF)], ctl := [(0, { mode := 1 }), (1, { mode := 2 })] }
def rcd (g t r : Nat) (w := 0) (sg := 0) (ws := 0) (su := 0) : Nat := dws [0x6000, 0x77, 0x7000, g + t * 2^24 + r * 2^36, w, sg, ws, su]
def tk (r : Nat) : State := { key 0x140 1 (put (put wF 0x4068 8 1) 0x5000 64 r) with sems := [(11, { count := 1 })] }
def ln (l : Launch) (f : State → State := id) : State := f { wF with launches := [(1, { l with leaf := 0x4000 })], groups := [], conts := [], banks := [] }
def wset (src dst len b : Nat) : Nat := dws [1, 0, 0, 0, src, dst, len, b]
def sg (w : Nat) : State := key 0x160 1 (put (ln { st := .staging, rcd := rcd 1 1 1 0 0 0x5800 }) 0x5800 64 w)
/-- The states of the witnesses below. -/
def states : List State :=
  [tk (rcd 1 1 1),
    tk (rcd 0 1 1),
    ln { st := .taken, rcd := rcd 1 1 1 },
    ln { st := .staging, rcd := rcd 1 1 1 },
    sg (wset 0x140000 0x180000 64 0),
    { ln { st := .running, rcd := rcd 1 1 1 0 (0x100 + 1 + 5 * 2^32) } with groups := [(gid, { st := .done, lid := 1 })], sems := [(9, {count := 5, waiters := [{ who := .svc 0, thr := 9}]})]},
    put (tk (rcd 1 1 1)) 0x4008 8 0x4f02,
    put (tk (rcd 1 1 1)) 0x4058 8 0x3f000000000]

end Sys2Proof.Tests.LaunchEvents

open Sys2Proof.Machine Sys2Proof.Tests in
theorem Sys2Proof.Tests.witness_LaunchEvents :
    (let s := LaunchEvents.states.getD 0 world; let leaf : Nat := 16384
     match (s.leafRead leaf).useLeaf leaf with
     | (true, t0) => (
     let head := t0.num (paLocal leaf + 0x6c) 4
     let tail := t0.num (paLocal leaf + 0x68) 4
     let place := t0.rcb leaf 11 / 64 * 64 + head % 2 ^ min (t0.rcb leaf 12 % 32) 16 * 64
     let slot := paLocal place
     let x : Launch := { leaf := leaf, rcd := t0.num slot 64 }
     decide (s.launches.all (fun e => e.2.st != .completing) = true) && decide (s.leaves.contains leaf = true) &&
       decide (s.leafFree leaf = true) && decide ((s.leafRead leaf).isLeaf leaf = true) && decide (t0.settled) && decide ((s.sem (s.doorbell leaf)).count ≠ 0) && decide ((t0.sem (t0.doorbell leaf)).count ≠ 0) && decide (head ≠ tail) &&
       decide (t0.recPlace place = true) && decide (t0.anyPoison slot 64 2 = false) && decide (t0.badLaunch x = false)) | _ => false) = true ∧
    (let s := LaunchEvents.states.getD 1 world; let leaf : Nat := 16384
     match (s.leafRead leaf).useLeaf leaf with
     | (true, t0) => (
     let head := t0.num (paLocal leaf + 0x6c) 4
     let tail := t0.num (paLocal leaf + 0x68) 4
     let place := t0.rcb leaf 11 / 64 * 64 + head % 2 ^ min (t0.rcb leaf 12 % 32) 16 * 64
     let slot := paLocal place
     let x : Launch := { leaf := leaf, rcd := t0.num slot 64 }
     decide (s.launches.all (fun e => e.2.st != .completing) = true) && decide (s.leaves.contains leaf = true) &&
       decide (s.leafFree leaf = true) && decide ((s.leafRead leaf).isLeaf leaf = true) && decide (t0.settled) && decide ((s.sem (s.doorbell leaf)).count ≠ 0) && decide ((t0.sem (t0.doorbell leaf)).count ≠ 0) && decide (head ≠ tail) &&
       decide (t0.recPlace place = false ∨ t0.anyPoison slot 64 2 = true ∨ t0.badLaunch x = true)) | _ => false) = true ∧
    (let s := LaunchEvents.states.getD 2 world; let lid : Nat := 1
     let l := s.launch lid
     decide (l.rcd ≠ 0) && decide (l.st = .taken) &&
       decide ((bitAt l.wait 8 = false ∨ l.wait / 2 ^ 32 % 2 ^ 32 ≤ (s.sem (s.windowSem l.leaf (l.wait % 2 ^ 8))).count))) = true ∧
    (let s := LaunchEvents.states.getD 3 world; let lid : Nat := 1
     let l := s.launch lid
     decide (l.st = .staging) && decide (l.wset = 0)) = true ∧
    (let s := LaunchEvents.states.getD 3 world; let lid : Nat := 1
     let l := s.launch lid
     match s.staging l with
     | (.ok _, _) => (
     decide (l.st = .staging)) | _ => false) = true ∧
    (let s := LaunchEvents.states.getD 4 world; let lid : Nat := 1
     let l := s.launch lid
     match s.staging l with
     | (.error _, _) => (
     decide (l.st = .staging)) | _ => false) = true ∧
    (let s := LaunchEvents.states.getD 5 world; let lid : Nat := 1
     let l := s.launch lid
     decide (l.st = .running) && decide ((List.range l.g).all (fun i => (s.group (gidOf lid i)).st == .done) = true) &&
       decide (l.backs = []) && decide (l.succ = 0) && decide ((∀ m, l.image = some m → m.succ = [])) &&
       decide (bitAt l.sig 8 = true)) = true ∧
    (let s := LaunchEvents.states.getD 0 world; let lid : Nat := 1
     let l := s.launch lid
     decide (l.st = .running) && decide ((List.range l.g).all (fun i => (s.group (gidOf lid i)).st == .done) = true) &&
       decide (l.backs = []) && decide (l.succ = 0) && decide ((∀ m, l.image = some m → m.succ = [])) &&
       decide (bitAt l.sig 8 = false)) = true ∧
    (let s := LaunchEvents.states.getD 6 world; let leaf : Nat := 16384
     decide (s.leaves.contains leaf = true) && decide (s.leafFree leaf = true) && decide ((s.sem (s.doorbell leaf)).count ≠ 0) &&
       decide ((s.leafRead leaf).isLeaf leaf = false)) = true ∧
    (let s := LaunchEvents.states.getD 7 world; let leaf : Nat := 16384
     match (s.leafRead leaf).useLeaf leaf with
     | (true, t0) => (
     let head := t0.num (paLocal leaf + 0x6c) 4
     let place := t0.rcb leaf 11 / 64 * 64 + head % 2 ^ min (t0.rcb leaf 12 % 32) 16 * 64
     decide (s.launches.all (fun e => e.2.st != .completing) = true) && decide (s.leaves.contains leaf = true) &&
       decide (s.leafFree leaf = true) && decide ((s.leafRead leaf).isLeaf leaf = true) && decide (t0.settled) &&
       decide ((s.sem (s.doorbell leaf)).count ≠ 0) && decide ((t0.sem (t0.doorbell leaf)).count ≠ 0) &&
       decide (head ≠ t0.num (paLocal leaf + 0x68) 4) && decide (t0.recPlace place = false)) | _ => false) = true := by decide +kernel

namespace Sys2Proof.Tests.GroupEvents

open Sys2Proof.Machine

def dws (l : List Nat) : Nat := l.foldr (fun d v => d + 2 ^ 64 * v) 0
def leafF : List Nat := [0, 0x4f03, 144 + 100 * 2^16 + 2^20 * 2^32, 2 + 8 * 2 ^ 8 + 16 * 2 ^ 20, 0, 0, 0, 0, 0, 0x400000, 4, 0x5000, 1 + 3 * 2 ^ 8, 0, 0, 0]
def key (l n : Nat) (s : State) : State := { s with lines := (List.range n).foldl (fun t i => Tab.set {} t (l + i) { key := some { slot := 0, ver := 0 } }) s.lines }
def wF : State := key 0x100 2 { (put world 0x4000 128 (dws leafF)) with rcbs := [(0x4000, leafF)], ctl := [(0, { mode := 1 }), (1, { mode := 2 })] }
def rcd (g t r : Nat) (w := 0) (sg := 0) (ws := 0) (su := 0) : Nat := dws [0x6000, 0x77, 0x7000, g + t * 2^24 + r * 2^36, w, sg, ws, su]
def ln (l : Launch) (f : State → State := id) : State := f { wF with launches := [(1, { l with leaf := 0x4000 })], groups := [], conts := [], banks := [] }
def im : Image := { pages := 1, start := [0x10000] }
def g1 : Group := { st := .resident, lid := 1, leaf := 0x4000, home := some 0, recs := 4, carea := 0xc000, pages := [2], npages := 1, fifo := [(1, 2560)], qbytes := 2560, placedOnce := true }
def p1 : Page := { gid := gid, rel := 0 }
def gr (g : Group) (l : Launch := { st := .running, rcd := rcd 1 1 1 }) : State :=
  { wF with launches := [(1, { l with leaf := 0x4000 })], groups := [(gid, g)], pages := if g.pages = [] then [] else [(2, some p1)], conts := [], banks := [], queues := [(gid * 64 + 63, { d0 := 2 * 2^62 })] }
def sho : Launch :=
  { st := .ready, rcd := rcd 1 1 1, leaf := 0x4000, image := some ({ pages := 144, start := [1] } : Image) }
def want (s : State) : State := { s with launches := s.launches ++ [(2, sho)], rcbs := [(0x4000, leafF.set 2 (144 + 100 * 2^16 + 2^20 * 2^32))] }
def sv : State := let s := key 0x10000 1 { gr { g1 with st := .parked, save := some 0x400000, pages := [], moved := 0 } with saved := [(gid, some { pages := [p1], arcs := [] })] }
  put s 0x400000 24 (s.saveHeader gid 0 p1)
/-- The states of the witnesses below. -/
def states : List State :=
  [ln { st := .ready, rcd := rcd 1 1 1, image := some im },
    gr { g1 with st := .placing, placedOnce := false } { st := .running, rcd := rcd 1 2 2, image := some im },
    gr g1,
    want (gr { g1 with pages := [0] }),
    { ln sho with launches := [(1, { sho with shortSince := some 0 })], groups := [(gidOf 3 0, { g1 with lid := 3 })], pages := [(2, some p1)] },
    gr { g1 with st := .parking, pages := [] },
    gr { g1 with st := .preempting, pages := [] },
    { sv with queues := [(gid*64+1, { d0 := 2^62, beats := [{}] })] },
    { gr { g1 with st := .preempting } with banks := [(0, bank)], conts := [(cid, { st := .running, bank := some 0})]},
    gr { g1 with st := .parking },
    gr { g1 with st := .preempting }]

end Sys2Proof.Tests.GroupEvents

open Sys2Proof.Machine Sys2Proof.Tests in
theorem Sys2Proof.Tests.witness_GroupEvents :
    (let s := GroupEvents.states.getD 0 world; let lid : Nat := 1; let c : Nat := 0
     match s.nextGroup lid with
     | some g => (
     let gid := gidOf lid g
     let x := s.group gid
     let l := s.launch lid
     let t0 := s.readsImage l
     match t0.imageOf l with
     | .ok m => (
     match t0.fit lid g m with
     | some f => (
     match f.pages.head? with
     | some _ => (
     decide (t0.launchDue lid = true) && decide (s.settled) && decide (x.restore = false) && decide (f.home = c)) | _ => false) | _ => false) | _ => false) | _ => false) = true ∧
    (let s := GroupEvents.states.getD 1 world; let lid : Nat := 1; let g : Nat := 0; let i : Nat := 0
     let gid := gidOf lid g
     let x := s.group gid
     decide (x.st = .placing) && decide (x.placedOnce = false) && decide (i < (s.launch x.lid).t)) = true ∧
    (let s := GroupEvents.states.getD 2 world; let lid : Nat := 1; let g : Nat := 0; let n : Nat := 0
     let gid := gidOf lid g
     let x := s.group gid
     decide (s.liveConts gid = []) && decide (s.graphIdle gid = true) &&
       decide (s.cmds.any (fun e => match e.2 with | some y => y.gid == gid | none => false) = false) &&
       decide (x.st = .resident ∨ x.st = .parked) && decide (x.fault = none) && decide (s.chans.any (fun e => e.2.reserved == some (endedCont gid)) = false) &&
       decide ((∀ n ∈ List.range 64, (s.queue (queueKey gid n)).spent = true)) &&
       decide (n < 64)) = true ∧
    (let s := GroupEvents.states.getD 3 world; let lid : Nat := 2
     let l := s.launch lid
     decide (s.pageShort lid = true) && decide (l.shortSince = none)) = true ∧
    (let s := GroupEvents.states.getD 4 world; let lid : Nat := 1
     let l := s.launch lid
     match l.shortSince with
     | some since => (
     decide (s.pageShort lid = true) && decide (since + 1000000 ≤ s.time)) | _ => false) = true ∧
    (let s := GroupEvents.states.getD 0 world; let lid : Nat := 0
     decide (s.pageShort lid = false)) = true ∧
    (let s := GroupEvents.states.getD 3 world; let lid : Nat := 1; let g : Nat := 0
     let gid := gidOf lid g
     let x := s.group gid
     match s.saveSlot x.leaf x.npages with
     | some _ => (
     decide (s.pagesWanted = true) && decide (s.parkable gid = true) &&
       decide (s.groups.all (fun e => e.1 == gid || !s.parkable e.1 || (s.saveSlot e.2.leaf e.2.npages).isNone || decide (s.prio x.leaf < s.prio e.2.leaf) || (s.prio x.leaf == s.prio e.2.leaf && decide (x.moved ≤ e.2.moved))) = true)) | _ => false) = true ∧
    (let s := GroupEvents.states.getD 5 world; let lid : Nat := 1; let g : Nat := 0
     let gid := gidOf lid g
     let x := s.group gid
     decide (s.noFire gid = true) && decide (x.st = .parking)) = true ∧
    (let s := GroupEvents.states.getD 6 world; let lid : Nat := 1; let g : Nat := 0
     let gid := gidOf lid g
     let x := s.group gid
     decide (s.noFire gid = true) && decide (s.banksOf gid = []) && decide (x.st = .preempting)) = true ∧
    (let s := GroupEvents.states.getD 7 world; let lid : Nat := 1; let g : Nat := 0
     let gid := gidOf lid g
     match s.unparkFit gid with
     | some ps => (
     match ps.head? with
     | some _ => (
     let x := s.group gid
     match x.home with
     | some _ => (
     decide (s.settled) && decide (s.wanted gid = true) && decide (s.saveMismatch gid = none) &&
       decide (s.groups.all (fun e => e.1 == gid || !(s.wanted e.1 && decide (s.prio x.leaf < s.prio e.2.leaf) && (s.unparkFit e.1).isSome)) = true) &&
       decide (s.launches.all (fun e => !(decide (s.prio x.leaf < s.prio e.2.leaf) && (s.launchFits e.1 || (e.2.holdsBack s.time && (s.nextGroup e.1).isSome)))) = true)) | _ => false) | _ => false) | _ => false) = true ∧
    (let s := GroupEvents.states.getD 8 world; let r : Nat := 0
     match (s.bank r).cont with
     | some k => (
     decide (r < 4096) && decide ((s.group (contGroup k)).st = .preempting) &&
       decide ((s.group (contGroup k)).preemptAt + 20000 ≤ s.time) && decide ((s.bank r).missed = false)) | _ => false) = true ∧
    (let s := GroupEvents.states.getD 9 world; let lid : Nat := 1; let g : Nat := 0
     let gid := gidOf lid g
     let x := s.group gid
     decide (s.noFire gid = true) && decide (x.st = .parking) && decide (x.pages ≠ [])) = true ∧
    (let s := GroupEvents.states.getD 10 world; let lid : Nat := 1; let g : Nat := 0
     let gid := gidOf lid g
     let x := s.group gid
     decide (s.noFire gid = true) && decide (x.st = .preempting) && decide (s.banksOf gid = []) && decide (x.pages ≠ [])) = true := by decide +kernel

namespace Sys2Proof.Tests.SupervisorCommands

open Sys2Proof.Machine

def dws (l : List Nat) : Nat := l.foldr (fun d v => d + 2 ^ 64 * v) 0
def leafF : List Nat := [0, 0x4f03, 144 + 100 * 2^16 + 2^20 * 2^32, 2 + 8 * 2 ^ 8 + 16 * 2 ^ 20, 0, 0, 0, 0, 0, 0x400000, 4, 0x5000, 1 + 3 * 2 ^ 8, 0, 0, 0]
def key (l n : Nat) (s : State) : State := { s with lines := (List.range n).foldl (fun t i => Tab.set {} t (l + i) { key := some { slot := 0, ver := 0 } }) s.lines }
def wF : State := key 0x100 2 { (put world 0x4000 128 (dws leafF)) with rcbs := [(0x4000, leafF)], ctl := [(0, { mode := 1 }), (1, { mode := 2 })] }
def rcd (g t r : Nat) (w := 0) (sg := 0) (ws := 0) (su := 0) : Nat := dws [0x6000, 0x77, 0x7000, g + t * 2^24 + r * 2^36, w, sg, ws, su]
def g1 : Group := { st := .resident, lid := 1, leaf := 0x4000, home := some 0, recs := 4, carea := 0xc000, pages := [2], npages := 1, fifo := [(1, 2560)], qbytes := 2560, placedOnce := true }
def sc (v : Nat) (f : State → State := id) : State := f { wF with scmd := [(0, some v)] }
def op (k : Nat) : Nat := k * 2^60
def pg' : Nat := 0x4000 / 64
def gst (st : GroupState) (s : State) : State := { s with groups := [(gid, { g1 with st := st, pages := [] })] }
def pk : Park := { kind := 0 }
def bk (b : Bank) (s : State) : State := s.setBank 0 b
def ev : State := let s := key 0x4000 4 (match execEvict 0 (bk { bank with park := some pk } (gst .resident (sc (op 4 + 0x4000)))) with | .next t => t | _ => world)
  s
def pre (k : Nat) : State :=
  { sc (op 2 + pg') with
    groups := [(gid, g1), (gidOf 9 0, { g1 with lid := 9, leaf := 0x9000, pages := [], npages := k, save := some 0x400000 })]
    pages := [(2, some { gid := gid, rel := 0 })], banks := [(0, bank)]
    conts := [(cid, { st := .running, bank := some 0 }), (cid + 1, { st := .ready }), (cid + 2, { st := .waiting })] }
/-- The states of the witnesses below. -/
def states : List State :=
  [sc (op 1 + 1),
    sc (op 1 + pg'),
    sc (op 1 + pg' + 2) (key 0x102 2),
    sc (op 2 + 1),
    sc (op 2 + pg') (gst .parked),
    sc (op 3 + 1),
    sc (op 3 + pg') (gst .preempted),
    sc (op 4 + 2^48),
    sc (op 4),
    sc (op 4 + 0x4000) (fun s => bk { bank with park := some pk } (gst .resident s)),
    sc (op 5),
    sc (op 9),
    { ev with scmd := [(0, some (op 5 + 0x4000))] },
    { ev with scmd := [(0, some (op 9 + 0x4000))] },
    sc (op 6),
    { ev with scmd := [(0, some (op 6 + 0x4000))] },
    sc (op 7 + 5),
    sc (op 7 + 1) (fun s => { s with launches := [(1, { st := .running, leaf := 0x4000, rcd := rcd 1 1 1 })] }),
    sc (op 8),
    sc (op 8 + 1) (bk { bank with park := some pk }),
    sc 5,
    put (sc (op 1 + pg')) 0x4018 8 (2 + 0xfff * 2 ^ 8 + 16 * 2 ^ 20),
    sc (op 8 + 1) (bk { bank with park := some { pk with kind := 2 } }),
    pre 2, pre 4,
    { ev.setBank 0 bank with scmd := [(0, some (op 5 + 0x4000))] },
    { ev with scmd := [(0, some (op 9 + 0x4000))], lines := Tab.set {} ev.lines 0x4005 {} },
    { ev with scmd := [(0, some (op 5 + 0x4000))], lines := Tab.set {} ev.lines 0x4005 {} }]

end Sys2Proof.Tests.SupervisorCommands

open Sys2Proof.Machine Sys2Proof.Tests in
theorem Sys2Proof.Tests.witness_SupervisorCommands :
    (let s := SupervisorCommands.states.getD 0 world; let n : Nat := 0
     match Tab.get none s.scmd n with
     | some v => (
     let pa := v % 2 ^ 48 * 64
     decide (v / 2 ^ 60 = 1) && decide (s.rcbPlace pa = false)) | _ => false) = true ∧
    (let s := SupervisorCommands.states.getD 2 world; let n : Nat := 0
     match Tab.get none s.scmd n with
     | some v => (
     let pa := v % 2 ^ 48 * 64
     decide (v / 2 ^ 60 = 1) && decide (s.rcbPlace pa = true) && decide (s.settled) && decide ((s.leafRead pa).isLeaf pa = false) && decide (((s.leafRead pa).readRcb pa).1 = true)) | _ => false) = true ∧
    (let s := SupervisorCommands.states.getD 1 world; let n : Nat := 0
     match Tab.get none s.scmd n with
     | some v => (
     let pa := v % 2 ^ 48 * 64
     match (s.leafRead pa).useLeaf pa with
     | (true, _) => (
     decide (v / 2 ^ 60 = 1) && decide (s.rcbPlace pa = true) && decide ((s.leafRead pa).isLeaf pa = true)) | _ => false) | _ => false) = true ∧
    (let s := SupervisorCommands.states.getD 3 world; let n : Nat := 0
     match Tab.get none s.scmd n with
     | some v => (
     let pa := v % 2 ^ 48 * 64
     decide (v / 2 ^ 60 = 2) && decide (s.rcbPlace pa = false)) | _ => false) = true ∧
    (let s := SupervisorCommands.states.getD 4 world; let n : Nat := 0
     match Tab.get none s.scmd n with
     | some v => (
     let pa := v % 2 ^ 48 * 64
     decide (v / 2 ^ 60 = 2) && decide (s.rcbPlace pa = true)) | _ => false) = true ∧
    (let s := SupervisorCommands.states.getD 5 world; let n : Nat := 0
     match Tab.get none s.scmd n with
     | some v => (
     let pa := v % 2 ^ 48 * 64
     decide (v / 2 ^ 60 = 3) && decide (s.rcbPlace pa = false)) | _ => false) = true ∧
    (let s := SupervisorCommands.states.getD 6 world; let n : Nat := 0
     match Tab.get none s.scmd n with
     | some v => (
     let pa := v % 2 ^ 48 * 64
     decide (v / 2 ^ 60 = 3) && decide (s.rcbPlace pa = true)) | _ => false) = true ∧
    (let s := SupervisorCommands.states.getD 7 world; let n : Nat := 0
     match Tab.get none s.scmd n with
     | some v => (
     let r := v / 2 ^ 48 % 2 ^ 12
     let b := s.bank r
     decide (v / 2 ^ 60 = 4) && decide (b.cont = none)) | _ => false) = true ∧
    (let s := SupervisorCommands.states.getD 8 world; let n : Nat := 0
     match Tab.get none s.scmd n with
     | some v => (
     let r := v / 2 ^ 48 % 2 ^ 12
     let b := s.bank r
     match b.cont with
     | some c => (
     decide (v / 2 ^ 60 = 4) && decide (b.park = none) && decide ((s.group (contGroup c)).st ≠ .preempting)) | _ => false) | _ => false) = true ∧
    (let s := SupervisorCommands.states.getD 9 world; let n : Nat := 0
     match Tab.get none s.scmd n with
     | some v => (
     let pa := v % 2 ^ 48 * 64
     let r := v / 2 ^ 48 % 2 ^ 12
     let b := s.bank r
     match b.cont with
     | some c => (
     decide (v / 2 ^ 60 = 4) && decide (s.schedPlace pa 1536 64 = true) && decide (s.evictReady r = true) &&
       decide ((b.park.isSome = true ∨ (s.group (contGroup c)).st = .preempting)) && decide (b.packs = []) &&
       decide (b.gmark = []) && decide (b.vmark = []) && decide (s.settled)) | _ => false) | _ => false) = true ∧
    (let s := SupervisorCommands.states.getD 10 world; let n : Nat := 0
     match Tab.get none s.scmd n with
     | some v => (
     let pa := v % 2 ^ 48 * 64
     decide (v / 2 ^ 60 = 5) && decide (s.evictedAt pa = none)) | _ => false) = true ∧
    (let s := SupervisorCommands.states.getD 12 world; let n : Nat := 0; let c : Nat := 1099511627776
     match Tab.get none s.scmd n with
     | some v => (
     let pa := v % 2 ^ 48 * 64
     let r := v / 2 ^ 48 % 2 ^ 12
     let may (q : Nat) : Prop := s.evictedAt pa = some c ∧ s.takes q c = true ∧ s.slotRoom (s.contLeaf c) = true ∧ s.settled ∧ s.anyPoison (paLocal pa) 1536 25 = false ∧ s.reservedTo c = none
     decide (v / 2 ^ 60 = 5) && decide (may r)) | _ => false) = true ∧
    (let s := SupervisorCommands.states.getD 11 world; let n : Nat := 0
     match Tab.get none s.scmd n with
     | some v => (
     let pa := v % 2 ^ 48 * 64
     decide (v / 2 ^ 60 = 9) && decide (s.evictedAt pa = none)) | _ => false) = true ∧
    (let s := SupervisorCommands.states.getD 13 world; let n : Nat := 0; let c : Nat := 1099511627776
     match Tab.get none s.scmd n with
     | some v => (
     match (List.range 4096).find? (fun z => s.takes z c) with
     | some q => (
     let pa := v % 2 ^ 48 * 64
     let may (q : Nat) : Prop := s.evictedAt pa = some c ∧ s.takes q c = true ∧ s.slotRoom (s.contLeaf c) = true ∧ s.settled ∧ s.anyPoison (paLocal pa) 1536 25 = false ∧ s.reservedTo c = none
     decide (v / 2 ^ 60 = 9) && decide (may q)) | _ => false) | _ => false) = true ∧
    (let s := SupervisorCommands.states.getD 14 world; let n : Nat := 0
     match Tab.get none s.scmd n with
     | some v => (
     let pa := v % 2 ^ 48 * 64
     decide (v / 2 ^ 60 = 6) && decide (s.evictedAt pa = none)) | _ => false) = true ∧
    (let s := SupervisorCommands.states.getD 15 world; let n : Nat := 0
     match Tab.get none s.scmd n with
     | some v => (
     let pa := v % 2 ^ 48 * 64
     match s.evictedAt pa with
     | some c => (
     decide (v / 2 ^ 60 = 6) && decide (s.reservedTo c = none) && decide ((s.group (contGroup c)).spawnq = [])) | _ => false) | _ => false) = true ∧
    (let s := SupervisorCommands.states.getD 16 world; let n : Nat := 0
     match Tab.get none s.scmd n with
     | some v => (
     let lid := v % 2 ^ 32
     let idx := v / 2 ^ 32 % 2 ^ 24
     let l := s.launch lid
     let past : Prop := l.rcd = 0 ∨ l.st = .done ∨ l.st = .faulted ∨ l.g ≤ idx
     decide (v / 2 ^ 60 = 7) && decide (past)) | _ => false) = true ∧
    (let s := SupervisorCommands.states.getD 17 world; let n : Nat := 0
     match Tab.get none s.scmd n with
     | some v => (
     let lid := v % 2 ^ 32
     let idx := v / 2 ^ 32 % 2 ^ 24
     let l := s.launch lid
     let past : Prop := l.rcd = 0 ∨ l.st = .done ∨ l.st = .faulted ∨ l.g ≤ idx
     decide (v / 2 ^ 60 = 7) && decide (¬ past)) | _ => false) = true ∧
    (let s := SupervisorCommands.states.getD 19 world; let n : Nat := 0
     match Tab.get none s.scmd n with
     | some v => (
     let r := v / 2 ^ 48 % 2 ^ 12
     let b := s.bank r
     match b.park with
     | some p => (
     decide (v / 2 ^ 60 = 8) && decide (p.kind = 0) && decide (p.answered = false)) | _ => false) | _ => false) = true ∧
    (let s := SupervisorCommands.states.getD 18 world; let n : Nat := 0
     match Tab.get none s.scmd n with
     | some v => (
     let r := v / 2 ^ 48 % 2 ^ 12
     let b := s.bank r
     decide (v / 2 ^ 60 = 8) && decide (b.park = none)) | _ => false) = true ∧
    (let s := SupervisorCommands.states.getD 20 world; let n : Nat := 0
     match Tab.get none s.scmd n with
     | some v => (
     decide ((v / 2 ^ 60 = 0 ∨ 9 < v / 2 ^ 60))) | _ => false) = true ∧
    (let s := SupervisorCommands.states.getD 21 world; let n : Nat := 0
     match Tab.get none s.scmd n with
     | some v => (
     decide (v / 2 ^ 60 = 1) && decide (s.rcbPlace (v % 2 ^ 48 * 64) = true) && decide ((s.leafRead (v % 2 ^ 48 * 64)).isLeaf (v % 2 ^ 48 * 64) = true) &&
       decide (((s.leafRead (v % 2 ^ 48 * 64)).useLeaf (v % 2 ^ 48 * 64)).1 = false)) | _ => false) = true ∧
    (let s := SupervisorCommands.states.getD 22 world; let n : Nat := 0
     match Tab.get none s.scmd n with
     | some v => (
     match (s.bank (v / 2 ^ 48 % 2 ^ 12)).park with
     | some p => (
     decide (v / 2 ^ 60 = 8) && decide (p.kind ≠ 0 ∨ p.answered = true)) | _ => false) | _ => false) = true ∧
    (let s := SupervisorCommands.states.getD 23 world; let n : Nat := 0; let g : Nat := Sys2Proof.Tests.gid
     match Tab.get none s.scmd n with
     | some v => (
     let pa := v % 2 ^ 48 * 64
     match s.saveSlot (s.group g).leaf (s.group g).npages with
     | some _ => (
     decide (v / 2 ^ 60 = 2) && decide (s.rcbPlace pa = true) && decide (s.groupsUnder pa = [g]) && decide ((s.group g).st = .resident) &&
       decide ((s.group g).npages ≠ 0)) | _ => false) | _ => false) = true ∧
    (let s := SupervisorCommands.states.getD 24 world; let n : Nat := 0; let g : Nat := Sys2Proof.Tests.gid
     match Tab.get none s.scmd n with
     | some v => (
     let pa := v % 2 ^ 48 * 64
     decide (v / 2 ^ 60 = 2) && decide (s.rcbPlace pa = true) && decide (s.groupsUnder pa = [g]) && decide ((s.group g).st = .resident) &&
       decide ((s.group g).npages ≠ 0) && decide (s.saveSlot (s.group g).leaf (s.group g).npages = none)) | _ => false) = true ∧
    (let s := SupervisorCommands.states.getD 25 world; let n : Nat := 0; let c : Nat := 1099511627776
     match Tab.get none s.scmd n with
     | some v => (
     let pa := v % 2 ^ 48 * 64
     decide (v / 2 ^ 60 = 5) && decide (s.evictedAt pa = some c) && decide ((s.bank (v / 2 ^ 48 % 2 ^ 12)).cont ≠ none)) | _ => false) = true ∧
    (let s := SupervisorCommands.states.getD 26 world; let n : Nat := 0; let c : Nat := 1099511627776
     match Tab.get none s.scmd n with
     | some v => (
     let pa := v % 2 ^ 48 * 64
     decide (v / 2 ^ 60 = 9) && decide (s.evictedAt pa = some c) && decide (s.anyPoison (paLocal pa) 1536 25 = true)) | _ => false) = true ∧
    (let s := SupervisorCommands.states.getD 27 world; let n : Nat := 0; let c : Nat := 1099511627776
     match Tab.get none s.scmd n with
     | some v => (
     let pa := v % 2 ^ 48 * 64
     decide (v / 2 ^ 60 = 5) && decide (s.evictedAt pa = some c) && decide (s.anyPoison (paLocal pa) 1536 25 = true)) | _ => false) = true := by decide +kernel

namespace Sys2Proof.Tests.HostAccesses

open Sys2Proof.Machine

def ho : State := { put (World bank) 0x100010 8 0x1122334455667788 with hostPorts := [(0, 16)], ports := [(0, 1+64), (1, 1+64), (2, 17)], outbox := [(0, { src := 0, dst := 3, body := .chainAlive}), (1, { src := 0, dst := 3, body := .chainAlive})], sems := [(2, { count := 7 })], routes := [(3, 2^63 + 7)] }
/-- The states of the witnesses below. -/
def states : List State :=
  [ho,
    { ho with regions := [(3, { d0 := 2^63 + 0x200000 + 2 * 256 + 32, d1 := 16, d2 := 0x300000, d3 := 100 })] },
    { put ho 0x30000000048 4 99 with hostLines := [0x30000000040/64] }]

end Sys2Proof.Tests.HostAccesses

open Sys2Proof.Machine Sys2Proof.Tests in
theorem Sys2Proof.Tests.witness_HostAccesses :
    (let s := HostAccesses.states.getD 0 world; let a : BitVec 64 := 0x0000000000100005#64
     let be : BitVec 64 := 0x0000000000100005#64; let j : Nat := 0
     let d := a.toNat / 64 * 64
     let plain : Prop := isTier d = true ∧ s.inLog d = false ∧ s.regionAt (d / 4096 * 4096) = none
     decide (s.hostUp = true) && decide (be ≠ 0) && decide (plain) && decide (j < 64)) = true ∧
    (let s := HostAccesses.states.getD 0 world; let a : BitVec 64 := 0x0000000000100005#64
     let be : BitVec 64 := 0x0000000000100005#64; let y : Nat := 0
     let d := a.toNat / 64 * 64
     let plain : Prop := isTier d = true ∧ s.inLog d = false ∧ s.regionAt (d / 4096 * 4096) = none
     decide (s.hostUp = true) && decide (be ≠ 0) && decide (plain) && decide (y < d ∨ d + 64 ≤ y)) = true ∧
    (let s := HostAccesses.states.getD 1 world; let a : BitVec 64 := 0x0000000000300001#64
     let d := a.toNat / 64 * 64
     decide (s.hostUp = true) && decide (isTier d = true) && decide (s.inLog d = true)) = true ∧
    (let s := HostAccesses.states.getD 0 world; let a : BitVec 64 := 0x0000030000000040#64
     let d := a.toNat / 64 * 64
     decide (s.hostUp = true) && decide (isHost d = true) && decide (s.hostLines.contains (d / 64) = false)) = true ∧
    (let s := HostAccesses.states.getD 2 world; let a : BitVec 64 := 0x0000030000000040#64; let y : Nat := 0
     let d := a.toNat / 64 * 64
     decide (s.hostUp = true) && decide (isHost d = true) && decide (s.hostLines.contains (d / 64) = true) &&
       decide (y < d ∨ d + 64 ≤ y)) = true ∧
    (let s := HostAccesses.states.getD 0 world; let n : Nat := 0; let m : Nat := 0
     decide (s.hostUp = true) && decide (n < 4096) && decide (m ≠ 8)) = true := by decide +kernel

open Sys2Proof.Machine Sys2Proof.Tests in
theorem Sys2Proof.Tests.witness_Ports :
    (let s := HostAccesses.states.getD 0 world; let p : Nat := 0; let w : Nat := 4
     decide (s.bootFail = none) && decide (p < 2) && decide (w = 4 ∨ w = 8 ∨ w = 16)) = true ∧
    (let p : Nat := 0; let q : Nat := 1
     decide (q ≠ p)) = true ∧
    (let s := HostAccesses.states.getD 0 world; let p : Nat := 0; let w : Nat := 1
     decide (s.bootFail = none) && decide (p < 36) && decide (1 ≤ w) && decide (w ≤ 4)) = true ∧
    (let s := HostAccesses.states.getD 0 world; let p : Nat := 0
     List.any (s.outbox) fun e => (
     decide (bitAt (Tab.get 0 s.ports p) 0 = true) && decide (e.1 ≠ p))) = true ∧
    (let s := HostAccesses.states.getD 0 world; let p : Nat := 0
     let t : State := { s with ports := Tab.set 0 s.ports p 0 }
     List.any (s.outbox) fun e => (
     decide (bitAt (Tab.get 0 s.ports p) 0 = true) && decide (e.1 = p) && decide (e.2.dst ≠ s.pkg) && decide (t.usablePorts e.2.dst ≠ []))) = true ∧
    (let s := HostAccesses.states.getD 0 world; let p : Nat := 0; let x : Msg := { src := 1, dst := 0, body := .chainAlive }
     decide (bitAt (Tab.get 0 s.ports p) 0 = true) && decide (p < 36) && decide (x.dst = s.pkg) && decide (x.age ≤ 1500000)) = true := by decide +kernel

open Sys2Proof.Machine Sys2Proof.Tests in
theorem Sys2Proof.Tests.witness_ResetAndSpdm :
    (let n : Nat := 0
     decide (n < 4)) = true := by decide +kernel

/-- A bank of service core 0 with a word and a literal at its PC. -/
def Sys2Proof.Tests.placed (w : Nat) : Sys2Proof.Machine.State := Sys2Proof.Machine.State.reset.withFetchWord 64 w

open Sys2Proof.Machine Sys2Proof.Tests in
theorem Sys2Proof.Tests.witness_EncodeThenDecode :
    (Instr.lea 4 5 6 3).wf = true ∧ (Instr.lea 4 5 6 3).isEvent = false ∧ (Instr.chainKeepalive 0).isEvent = true := by decide

theorem Sys2Proof.Tests.witness_DecodeThenEncode : decode 0x04853203 0 = .ok (.lea 4 5 6 3) := rfl

open Sys2Proof.Machine Sys2Proof.Tests in
theorem Sys2Proof.Tests.witness_StepRunsDecoded :
    (let s := placed 0x08210005
     decide (s.turns = []) && s.canIssue s.cur && decide (s.b.entering = none) && decide (s.b.busy = none) &&
       decide (s.pendingBit s.cur = none) && (match s.fetch s.cur with | (.ok (.ok _), _) => true | _ => false)) = true ∧
    (let x : Turn := { who := 4096, cycles := 3 }
     let s := { placed 0x08210005 with turns := [x] }
     let u := s.beginTurn x []
     decide (s.turns = [x]) && decide (x.act = .issue) && (match u.select x.who with | (.run _, _) => true | _ => false) &&
       decide (u.cur = x.who)) = true ∧
    (let x : Turn := { act := .event (.chainKeepalive 0) }
     let s := { placed 0x08210005 with turns := [x] }
     decide (s.turns = [x]) && decide (x.act = .event (.chainKeepalive 0)) && (Instr.chainKeepalive 0).isEvent) = true ∧
    (match (placed 0x08210005).fetchWord 4096 0 0x10000 with | (.ok w, _) => !needsLit w | _ => false) = true ∧
    (let s := placed 0x7f4210000
     match s.fetchWord 4096 0 0x10000 with
     | (.ok w, u) => needsLit w && (match u.fetchWord 4096 1 0x10004 with | (.ok l, _) => decide (l = 7) | _ => false)
     | _ => false) = true := by decide +kernel

open Sys2Proof.Machine Sys2Proof.Tests in
theorem Sys2Proof.Tests.witness_StepKeepsMemoryForm :
    memWf (placed 0x08210005).mem = true ∧ isNext (step (placed 0x08210005)) = true := by decide +kernel

end
end

-- The check of an access whose address an extent translates (16_tables R388, R394, R395), and the refutation of O18.
section
namespace Sys2Proof.Machine

/-- A translation that an extent decides makes its checks on what the extent gives and leaves the state alone (R388, R394). -/
theorem State.translateWith_of_extent {chk : State → Ctx → Nat → Nat → Nat → Nat → Tr} {s : State} {c : Ctx} {n : Need}
    {va e : Nat} {l : List Nat} (hva : va < 2 ^ 55) (hl : c.exts = some l) (he : findExt l va = some e) :
    s.translateWith chk c n va =
      (chk s c (extPerm e) (extPa e va) (fld (extDw e 3) 23 12) (fld (extDw e 3) 7 6), s) := by
  rw [State.translateWith, if_neg (Nat.not_le.mpr hva)]
  simp only [hl, he]

/-- Where an extent translates the address of an aligned access, all that its check does to the state is what R395 asks: the core
loads the table that the bank's XTAB names, unless it holds it. -/
theorem State.access_state_of_extent {s : State} {c : Cls} {va n lane e : Nat} {l : List Nat} (hn : va % n = 0)
    (hva : va < 2 ^ 55) (hl : ((s.readyTable s.cur).ctxOf (s.readyTable s.cur).cur).exts = some l)
    (he : findExt l va = some e) : (s.access c va n lane).2 = s.readyTable s.cur := by
  simp only [State.access, State.translate, State.translateWith_of_extent hva hl he, hn, bne_self_eq_false,
    Bool.and_false, Bool.false_eq_true, ↓reduceIte]
  cases State.checkData (s.readyTable s.cur) c n ((s.readyTable s.cur).ctxOf (s.readyTable s.cur).cur)
      { c.need with d := true } (extPerm e) (extPa e va) (fld (extDw e 3) 23 12) (fld (extDw e 3) 7 6) with
  | ok pa key kind => dsimp only; split <;> rfl
  | f3 | f4 _ | f5 _ | poison _ => rfl

/-- The state after reset in which a bank of core 0 acts. Its XTAB names the first entry of the firmware's table, at physical
address 0, which tables named later have replaced in the four extent stores of the core (R395). -/
def tableReplaced : State :=
  { State.reset with
    cur := 0
    banks := [(0, { threadReset with xtab := 1 })]
    held := [(0, [1, 2, 3, 4].map fun i => { base := i * 2 ^ 11, ents := [] })] }

theorem tableReplaced_plain : tableReplaced.plain 0 = true := by decide +kernel

theorem tableReplaced_exts : (tableReplaced.ctxOf tableReplaced.cur).exts = some (firmwareExtents.take 1) := by
  decide +kernel

theorem tableReplaced_loaded_exts :
    ((tableReplaced.readyTable tableReplaced.cur).ctxOf (tableReplaced.readyTable tableReplaced.cur).cur).exts =
      some (firmwareExtents.take 1) := by
  decide +kernel

theorem findExt_firmwareExtents : findExt (firmwareExtents.take 1) 0 = firmwareExtents.head? := by decide

/-- The load makes the table at physical address 0 the first that core 0 holds. -/
theorem tableReplaced_loads :
    ((tableReplaced.readyTable tableReplaced.cur).held.map fun h => (h.1, h.2.map Held.base)) = [(0, [0, 2048, 4096, 6144])] := by
  decide +kernel

/-- Refutes O18: where the core no longer holds the table that the bank's XTAB names, the check of an access whose address an extent of
that table translates loads it first (R395), so State.held is another than before. -/
theorem not_plainReads : ¬ Obligations.PlainReads := by
  unfold Obligations.PlainReads
  intro h
  obtain ⟨-, -, -, hacc⟩ := h tableReplaced 0 0 1 tableReplaced_plain (by decide) (by decide)
  have hsame : tableReplaced.readyTable tableReplaced.cur = tableReplaced :=
    calc tableReplaced.readyTable tableReplaced.cur
        = (tableReplaced.access .ld 0 1 0).2 :=
          (State.access_state_of_extent rfl (by decide) tableReplaced_loaded_exts findExt_firmwareExtents).symm
      _ = tableReplaced := hacc .ld 0 0 _ _ (by decide) tableReplaced_exts findExt_firmwareExtents
  have hheld := tableReplaced_loads
  rw [hsame] at hheld
  exact absurd hheld (by decide)

end Sys2Proof.Machine
end

-- The headers of a save slot as a graph is placed again (17_work R424, R430; 07_memories R167, R180), and the refutation of O50.
section
namespace Sys2Proof.Machine

/-- A GROUP_UNPARK of the wanted group that is due, at its home and on the pages that it takes, restores its graph (R424). -/
theorem exec_groupUnpark_of_due {s : State} {lid g c p : Nat} {ps : List Nat}
    (hwanted : s.wanted (gidOf lid g) = true) (hhome : (s.group (gidOf lid g)).home = some c)
    (hfit : s.unparkFit (gidOf lid g) = some ps) (hp : ps.head? = some p)
    (hgroups : s.groups.all (fun e => e.1 == gidOf lid g ||
      !(s.wanted e.1 && decide (s.prio (s.group (gidOf lid g)).leaf < s.prio e.2.leaf) && (s.unparkFit e.1).isSome)) = true)
    (hlaunches : s.launches.all (fun e => !(decide (s.prio (s.group (gidOf lid g)).leaf < s.prio e.2.leaf) &&
      (s.launchFits e.1 || (e.2.holdsBack s.time && (s.nextGroup e.1).isSome)))) = true) :
    exec (.groupUnpark lid g c p) s = .next (s.restoreGraph (gidOf lid g) ps) := by
  change execGroupUnpark lid g c p s = _
  simp only [execGroupUnpark, hwanted, hhome, hfit, hp, hgroups, hlaunches, Bool.and_self, Bool.not_true, Bool.or_self,
    ne_eq, not_true_eq_false, decide_false, Bool.false_eq_true, ↓reduceIte]

/-- The line of the header of relative page `i` in a save slot at 0x40_0000, in which each page has 2 MiB (R429). -/
def headerLine (i : Nat) : Nat := (2 ^ 22 + i * 2 ^ 21) / 64

/-- The state after reset with a parked group of eight pages, whose save slot is at 0x40_0000; a beat in its queue 1 makes it
wanted (R424). -/
def parkedOfEight : State :=
  { State.reset with
    rcbs := [(0, [0, 2 ^ 8, 8])]
    launches := [(1, { st := .running, placed := 1 })]
    groups := [(gidOf 1 0, { st := .parked, lid := 1, home := some 0, npages := 8, save := some (2 ^ 22) })]
    queues := [(queueKey (gidOf 1 0) 1, { d0 := 2 ^ 62, beats := [{}] })]
    saved := [(gidOf 1 0, some { pages := (List.range 8).map fun i => { gid := gidOf 1 0, rel := i }, arcs := [] })] }

/-- Its save slot holds the eight headers (R430). The header of page 0 is in a full set of the memory-side cache, in which the header
of page 7 has its place too, and the tier's copy of it has an error that its code cannot correct (R167, R180). -/
def headerEvicted : State :=
  { parkedOfEight with
    mem := (List.range 8).foldl (fun m i =>
      memPut m (headerLine i * 64) 24 (parkedOfEight.saveHeader (gidOf 1 0) i { gid := gidOf 1 0, rel := i })) parkedOfEight.mem
    lines := parkedOfEight.lines ++ (List.range 8).map fun i =>
      (headerLine i, { key := some { slot := 0, ver := 0 }, err := if i = 0 then 1 else 0 })
    caches := { ms := [(msKey (headerLine 0),
      { line := headerLine 0 } :: (List.range 15).map fun k => { line := headerLine (7 * (k + 2)) })] } }

theorem headerEvicted_wanted : headerEvicted.wanted (gidOf 1 0) = true := by decide +kernel

theorem headerEvicted_unparkFit : headerEvicted.unparkFit (gidOf 1 0) = some (List.range 8) := by decide +kernel

/-- While the cache holds the header of page 0, every header matches and none reads as poison. -/
theorem headerEvicted_saveMismatch : headerEvicted.saveMismatch (gidOf 1 0) = none := by decide +kernel

/-- The read of the header of page 7 puts that of page 0 out of the cache before it is compared; it then reads as poison. -/
theorem headerEvicted_restoreGraph_faulted :
    ((headerEvicted.restoreGraph (gidOf 1 0) (List.range 8)).group (gidOf 1 0)).st = .faulted := by decide +kernel

/-- Refutes O50: that the save slot of a wanted group matches is said of the state before GROUP_UNPARK, which first reads the
headers of all pages and only then compares them. These reads move lines through the memory-side cache, so that a header whose
tier copy has an uncorrectable error may lose its good copy between them, and the group ends FAULTED instead of PLACING. -/
theorem not_groupEvents : ¬ Obligations.GroupEvents := by
  unfold Obligations.GroupEvents
  intro h
  obtain ⟨-, -, -, -, -, -, hunpark, -⟩ :=
    h headerEvicted 1 0 0 0 0 0 { pages := 8 } { home := 0, fifo := [], pages := [] } (List.range 8)
  obtain ⟨t, hexec, -, hplacing, -, -⟩ := hunpark ⟨rfl, rfl⟩ headerEvicted_wanted rfl headerEvicted_unparkFit rfl
    headerEvicted_saveMismatch (by decide +kernel) (by decide +kernel)
  have hrestore : exec (.groupUnpark 1 0 0 0) headerEvicted = .next (headerEvicted.restoreGraph (gidOf 1 0) (List.range 8)) :=
    exec_groupUnpark_of_due headerEvicted_wanted rfl headerEvicted_unparkFit rfl (by decide +kernel) (by decide +kernel)
  obtain rfl := Host.Outcome.next.inj (hrestore.symm.trans hexec)
  rw [headerEvicted_restoreGraph_faulted] at hplacing
  exact absurd hplacing (by decide)

end Sys2Proof.Machine
end

-- Parking of a bank on a wait, its drain and its return (04_registers R98 to R100), and the proof of O38.
section
namespace Sys2Proof.Machine

/-- A bank has parked on a wait (R98): EPC and PC are its instruction, its other registers are as they were, and its continuation is PARKED. -/
structure ParkedOn (s t : State) (r kind : Nat) : Prop where
  bank : ∃ p, t.bank r =
    { s.bank r with epc := (s.bank r).pc, park := some { kind := kind }, stalled := none, perf := p }
  cont : ∀ c, (s.bank r).cont = some c → (t.cont c).st = .parked
  others : ∀ q, q ≠ r → t.bank q = s.bank q
  memory : ∀ a, t.byte a = s.byte a

theorem State.parkWait_parkedOn (s : State) (r kind : Nat) : ParkedOn s (s.parkWait r kind) r kind := by
  simp only [State.parkWait]
  split
  case h_1 c hc => exact ⟨⟨_, by simp [Bank.count]; rfl⟩, by simp [hc], by simp +contextual, by simp⟩
  case h_2 hc => exact ⟨⟨_, by simp [Bank.count]; rfl⟩, by simp [hc], by simp +contextual, by simp⟩

theorem isSvc_eq_false_of_lt {r : Nat} (hr : r < 4096) : isSvc r = false := by
  simpa [isSvc] using hr

/-- A threshold field of QTRAPCFG that is not zero names 64 cycles or more (R94). -/
theorem parkAfter_of_ne_zero {n : Nat} (h : n ≠ 0) : parkAfter n = some (2 ^ Nat.max n 6) := if_neg h

/-- A queue instruction that has stalled for the QPARK threshold, and comes to its park before its trap, parks its bank (R98, R312). -/
theorem exec_qparkThreshold_of_due {s : State} {r t0 : Nat} {x : QStall} (hr : r < 4096) (hissue : s.canIssue r = true)
    (hstalled : (s.bank r).stalled = some t0) (hstall : (s.bank r).stall = some x) (hparks : x.parks = true)
    (hstill : s.stallReady r = false ∨ (s.pendingBit r = some 20 ∧ s.parkFirst r = true))
    (hw : fld (s.bank r).qtrapcfg.toNat 11 8 ≠ 0)
    (hdue : t0 + 2 ^ Nat.max (fld (s.bank r).qtrapcfg.toNat 11 8) 6 ≤ s.cycle) :
    exec (.qparkThreshold r) s = .next (s.parkWait r 1) := by
  have hwaits : (!s.stallReady r || (s.pendingBit r == some 20 && s.parkFirst r)) = true := by
    rcases hstill with hready | ⟨hbit, hfirst⟩
    · simp [hready]
    · simp [hbit, hfirst]
  change execQparkThreshold r s = _
  simp only [execQparkThreshold, hstalled, hstall, parkAfter_of_ne_zero hw, hissue, isSvc_eq_false_of_lt hr, hparks, hdue, hwaits,
    decide_true, Bool.not_false, Bool.and_self, ↓reduceIte]

/-- An instruction that has waited for the RPARK threshold, and waits still, parks its bank (R98). -/
theorem exec_rparkThreshold_of_due {s : State} {r t0 : Nat} {w : WaitOn} (hr : r < 4096) (hissue : s.canIssue r = true)
    (hwaited : (s.bank r).waited = some (t0, w)) (hstill : s.stillWaits r w = true)
    (hw : fld (s.bank r).qtrapcfg.toNat 15 12 ≠ 0)
    (hdue : t0 + 2 ^ Nat.max (fld (s.bank r).qtrapcfg.toNat 15 12) 6 ≤ s.cycle) :
    exec (.rparkThreshold r) s = .next (s.parkWait r 2) := by
  change execRparkThreshold r s = _
  simp only [execRparkThreshold, hwaited, parkAfter_of_ne_zero hw, hissue, isSvc_eq_false_of_lt hr, hstill, hdue,
    decide_true, Bool.not_false, Bool.and_self, ↓reduceIte]

/-- A bank without batches issues none. -/
theorem State.flushClosed_of_no_batch {s : State} {r : Nat} (h : (s.bank r).batches = []) (n : Nat) :
    s.flushClosed r n = s := by
  cases n with
  | zero => rfl
  | succ n => simp [State.flushClosed, h]

/-- Closing the batches of a bank that has none is a write of its bank, in which there are none (R462). -/
theorem State.closeQuiet_of_no_batch {s : State} {r : Nat} (h : (s.bank r).batches = []) (p : Batch → Bool) :
    s.closeQuiet r p = s.setBank r { s.bank r with batches := [] } := by
  simp only [State.closeQuiet, h, List.map_nil]
  exact State.flushClosed_of_no_batch (by simp) 64

theorem otherBank_div_two (r : Nat) : otherBank r / 2 = r / 2 := by
  unfold otherBank
  split <;> omega

/-- The bank that is made active is the active one of its slot (R88). -/
theorem State.activeBank_activate (s : State) (r : Nat) : (s.activate r).activeBank (r / 2) = r := by
  simp only [State.activate, State.activeBank, slotOf, Tab.get_set, ↓reduceIte]
  omega

@[simp] theorem State.bank_activate (s : State) (r q : Nat) : (s.activate r).bank q = s.bank q := rfl

@[simp] theorem State.byte_activate (s : State) (r a : Nat) : (s.activate r).byte a = s.byte a := rfl

/-- The loads of a parked bank without batches are done: it is drained, and the slot goes to its other bank (R99). -/
theorem exec_parkDrainComplete_of_drained {s : State} {r : Nat} {p : Park} (hpark : (s.bank r).park = some p)
    (hdrained : p.drained = false) (hloads : (s.bank r).drained = true) (hbatches : (s.bank r).batches = []) :
    ∃ t : State, exec (.parkDrainComplete r) s = .next (t.activate (otherBank r)) ∧
      t.bank r = { s.bank r with park := some { p with drained := true }, batches := [] } := by
  refine ⟨(s.setBank r { s.bank r with park := some { p with drained := true } }).closeQuiet r fun _ => true, ?_, ?_⟩
  · change execParkDrainComplete r s = _
    simp only [execParkDrainComplete, hpark, hdrained, hloads, Bool.not_false, Bool.and_self, ↓reduceIte]
  · rw [State.closeQuiet_of_no_batch (by simpa using hbatches)]
    simp

/-- The state in which a parked bank has come back: it is the active bank of its slot, and its continuation runs (R99, R100). -/
def State.returned (s : State) (r : Nat) : State :=
  let t := (s.setBank r { s.bank r with park := none, waited := none }).activate r
  match (s.bank r).cont with
  | some c => t.setCont c { t.cont c with st := .running }
  | none => t

theorem State.bank_returned (s : State) (r q : Nat) :
    (s.returned r).bank q = if q = r then { s.bank r with park := none, waited := none } else s.bank q := by
  simp only [State.returned]
  split <;> simp

theorem State.byte_returned (s : State) (r a : Nat) : (s.returned r).byte a = s.byte a := by
  simp only [State.returned]
  split <;> simp

theorem State.activeBank_returned (s : State) (r : Nat) : (s.returned r).activeBank (r / 2) = r := by
  simp only [State.returned]
  split <;> exact State.activeBank_activate _ r

theorem State.cont_returned {s : State} {r c : Nat} (hc : (s.bank r).cont = some c) : ((s.returned r).cont c).st = .running := by
  simp [State.returned, hc]

/-- A returnable bank whose translation fault, if it has one, was not refused comes back when it is its turn in the slot (R99, R100). -/
theorem exec_bankReturn_of_returnable {s : State} {r : Nat} {p : Park} (hr : r < 4096) (hpark : (s.bank r).park = some p)
    (hrefused : p.refused = false) (hret : s.returnable r = true) (hfirst : r % 2 = 0 ∨ s.returnable (r - 1) = false)
    (hother : (s.bank (otherBank r)).cont = none ∨ (s.bank (otherBank r)).park.any (·.drained) = true) :
    exec (.bankReturn r) s = .next (s.returned r) := by
  have hfree : ((s.bank (otherBank r)).cont.isNone || (s.bank (otherBank r)).park.any (·.drained)) = true := by
    rcases hother with hnone | hdrained <;> simp [*]
  have hturn : (r % 2 == 0 || !s.returnable (otherBank r)) = true := by
    by_cases heven : r % 2 = 0
    · simp [heven]
    · simp [otherBank, heven, hfirst.resolve_left heven]
  change execBankReturn r s = _
  simp only [execBankReturn, hpark, isSvc_eq_false_of_lt hr, hret, hturn, hfree, hrefused, Bool.not_false, Bool.and_self,
    Bool.false_eq_true, ↓reduceIte]
  rfl

/-- Settles O38: each event is what it does once its guard holds, and each guard is what its clause supposes. -/
theorem parking : Obligations.Parking := by
  unfold Obligations.Parking
  intro s r hr b o parks
  have hparks {i : Instr} {w t0 kind : Nat}
      (hexec : w ≠ 0 → t0 + 2 ^ Nat.max w 6 ≤ s.cycle → exec i s = .next (s.parkWait r kind)) : parks i w t0 kind := by
    intro hw hdue
    obtain ⟨⟨p, hbank⟩, hcont, hothers, hmemory⟩ := s.parkWait_parkedOn r kind
    refine ⟨_, hexec hw hdue, ?_, ?_, ?_, ?_, ?_, ?_, ?_, ?_, hcont, hothers, hmemory⟩ <;> rw [hbank] <;> rfl
  refine ⟨?_, ?_, ?_, ?_⟩
  · intro t0 x hissue hstalled hstall hx hstill
    exact hparks (exec_qparkThreshold_of_due hr hissue hstalled hstall hx hstill)
  · intro t0 w hissue hwaited hstill
    exact hparks (exec_rparkThreshold_of_due hr hissue hwaited hstill)
  · intro p hpark hdrained hloads hbatches
    obtain ⟨t, hexec, hbank⟩ := exec_parkDrainComplete_of_drained hpark hdrained hloads hbatches
    refine ⟨_, hexec, ?_, ?_, ?_⟩
    · rw [State.bank_activate, hbank]
    · rw [← otherBank_div_two, State.activeBank_activate, otherBank]
    · rw [State.bank_activate, hbank]
  · intro p hpark hrefused hret hfirst hother
    refine ⟨_, exec_bankReturn_of_returnable hr hpark hrefused hret hfirst hother, ?_, s.activeBank_returned r,
      fun c => State.cont_returned, ?_, s.byte_returned r⟩
    · simp [State.bank_returned, b]
    · intro q hq
      simp [State.bank_returned, hq]

end Sys2Proof.Machine
end

-- The control registers of a bank (04_registers R90 to R95), the instructions that read and write them (R159), and the proof of O15.
section
namespace Sys2Proof.Machine

/-! ### Bit fields and STAT -/

theorem testBit_fld (w hi lo i : Nat) : (fld w hi lo).testBit i = (decide (i < hi + 1 - lo) && w.testBit (lo + i)) := by
  rw [fld, Nat.testBit_mod_two_pow, Nat.testBit_div_two_pow, Nat.add_comm i]

/-- A word with a field replaced, as the bits above the field, the field and the bits below it. -/
theorem putFld_eq (w lo n v : Nat) :
    putFld w (lo + n) lo v = 2 ^ (lo + (n + 1)) * (w / 2 ^ (lo + (n + 1))) + (2 ^ lo * (v % 2 ^ (n + 1)) + w % 2 ^ lo) := by
  have hsplit : w = 2 ^ (lo + (n + 1)) * (w / 2 ^ (lo + (n + 1))) + (2 ^ lo * (w / 2 ^ lo % 2 ^ (n + 1)) + w % 2 ^ lo) :=
    calc w = 2 ^ lo * (w / 2 ^ lo) + w % 2 ^ lo := (Nat.div_add_mod w (2 ^ lo)).symm
      _ = 2 ^ lo * (2 ^ (n + 1) * (w / 2 ^ lo / 2 ^ (n + 1)) + w / 2 ^ lo % 2 ^ (n + 1)) + w % 2 ^ lo := by
        rw [Nat.div_add_mod (w / 2 ^ lo) (2 ^ (n + 1))]
      _ = _ := by
        rw [Nat.mul_add, ← Nat.mul_assoc, ← Nat.pow_add, Nat.div_div_eq_div_mul, ← Nat.pow_add, Nat.add_assoc]
  rw [putFld, fld, show lo + n + 1 - lo = n + 1 by omega, Nat.mul_comm _ (2 ^ lo), Nat.mul_comm _ (2 ^ lo)]
  omega

theorem testBit_putFld {hi lo : Nat} (h : lo ≤ hi) (w v i : Nat) :
    (putFld w hi lo v).testBit i = if lo ≤ i ∧ i ≤ hi then v.testBit (i - lo) else w.testBit i := by
  obtain ⟨n, rfl⟩ := Nat.exists_eq_add_of_le h
  have hlow : w % 2 ^ lo < 2 ^ lo := Nat.mod_lt _ (Nat.two_pow_pos lo)
  have hmid : 2 ^ lo * (v % 2 ^ (n + 1)) + w % 2 ^ lo < 2 ^ (lo + (n + 1)) := by
    have hv : v % 2 ^ (n + 1) + 1 ≤ 2 ^ (n + 1) := Nat.mod_lt _ (Nat.two_pow_pos _)
    calc 2 ^ lo * (v % 2 ^ (n + 1)) + w % 2 ^ lo
        < 2 ^ lo * (v % 2 ^ (n + 1) + 1) := by rw [Nat.mul_add_one]; omega
      _ ≤ 2 ^ (lo + (n + 1)) := by rw [Nat.pow_add 2 lo (n + 1)]; exact Nat.mul_le_mul_left _ hv
  rw [putFld_eq, Nat.testBit_two_pow_mul_add _ hmid, Nat.testBit_two_pow_mul_add _ hlow]
  rcases Nat.lt_or_ge i lo with hi | hi
  · rw [if_pos (by omega), if_pos hi, if_neg (by omega), Nat.testBit_mod_two_pow, decide_eq_true hi, Bool.true_and]
  · rcases Nat.lt_or_ge (lo + n) i with hn | hn
    · rw [if_neg (by omega), if_neg (by omega), Nat.testBit_div_two_pow, Nat.sub_add_cancel (by omega)]
    · rw [if_pos (by omega), if_neg (by omega), if_pos ⟨hi, hn⟩, Nat.testBit_mod_two_pow, decide_eq_true (by omega),
        Bool.true_and]

/-- The bits of a 64-bit word after a write of one of its fields. -/
theorem getLsbD_ofNat_putFld {hi lo : Nat} (h : lo ≤ hi) (x : Word) (v i : Nat) :
    (BitVec.ofNat 64 (putFld x.toNat hi lo v)).getLsbD i =
      (decide (i < 64) && if lo ≤ i ∧ i ≤ hi then v.testBit (i - lo) else x.getLsbD i) := by
  rw [BitVec.getLsbD_ofNat, testBit_putFld h, BitVec.testBit_toNat]

/-- What STAT reads after a write of `v`, `old` being what it read before (R90, R92): VRM 6 and 7 are not written. -/
def statWritten (old v : Word) : Word :=
  (old &&& ~~~0xff00) ||| (v &&& 0x1f00) ||| (if (v >>> 13 &&& 7).toNat < 6 then v &&& 0xe000 else old &&& 0xe000)

theorem toNat_shiftRight_and_seven (v : Word) : (v >>> 13 &&& 7).toNat = fld v.toNat 15 13 := by
  have h : (v >>> 13 &&& 7).toNat = v.toNat >>> 13 &&& 2 ^ 3 - 1 := by simp
  rw [h, Nat.and_two_pow_sub_one_eq_mod, Nat.shiftRight_eq_div_pow, fld]

theorem getLsbD_stat_writeStat (b : Bank) (v : Word) {i : Nat} (hi : i < 64) :
    (b.writeStat v.toNat).stat.getLsbD i =
      if 8 ≤ i ∧ i ≤ 12 ∨ (13 ≤ i ∧ i ≤ 15) ∧ fld v.toNat 15 13 < 6 then v.getLsbD i else b.stat.getLsbD i := by
  have hflags : (putFld b.stat.toNat 12 8 (fld v.toNat 12 8)).testBit i =
      if 8 ≤ i ∧ i ≤ 12 then v.getLsbD i else b.stat.getLsbD i := by
    rw [testBit_putFld (by omega), testBit_fld, BitVec.testBit_toNat, BitVec.testBit_toNat]
    refine ite_congr rfl (fun h => ?_) fun _ => rfl
    rw [decide_eq_true (by omega), Bool.true_and, Nat.add_sub_cancel' h.1]
  simp only [Bank.writeStat, BitVec.getLsbD_ofNat, hi, decide_true, Bool.true_and]
  by_cases hr : fld v.toNat 15 13 < 6
  · rw [if_pos hr, testBit_putFld (by omega), hflags, testBit_fld, BitVec.testBit_toNat]
    by_cases hv : 13 ≤ i ∧ i ≤ 15
    · rw [if_pos hv, if_pos (.inr ⟨hv, hr⟩), decide_eq_true (by omega), Bool.true_and, Nat.add_sub_cancel' hv.1]
    · simp only [hv, hr, ↓reduceIte, false_and, or_false]
  · simp only [hr, hflags, ↓reduceIte, and_false, or_false]

theorem getLsbD_readStat (b : Bank) (r : Nat) {i : Nat} (hi : i < 64) :
    (b.readStat r).getLsbD i = if i = 1 then (if r < 4096 then r % 2 else 0).testBit 0 else b.stat.getLsbD i := by
  rw [Bank.readStat, getLsbD_ofNat_putFld (by omega), decide_eq_true hi, Bool.true_and]
  by_cases h : i = 1
  · subst h
    rfl
  · rw [if_neg (by omega), if_neg h]

theorem getLsbD_0xff00 : ∀ i < 64, (0xff00 : Word).getLsbD i = decide (8 ≤ i ∧ i ≤ 15) := by decide
theorem getLsbD_0x1f00 : ∀ i < 64, (0x1f00 : Word).getLsbD i = decide (8 ≤ i ∧ i ≤ 12) := by decide
theorem getLsbD_0xe000 : ∀ i < 64, (0xe000 : Word).getLsbD i = decide (13 ≤ i ∧ i ≤ 15) := by decide

/-- A write of STAT as it reads: FLAGS are the bits written, VRM too where it names a mode, and BANK stays (R90, R92). -/
theorem Bank.readStat_writeStat (b : Bank) (v : Word) (r : Nat) :
    (b.writeStat v.toNat).readStat r = statWritten (b.readStat r) v := by
  refine BitVec.eq_of_getLsbD_eq fun i hi => ?_
  rw [getLsbD_readStat _ _ hi, getLsbD_stat_writeStat _ _ hi, statWritten, toNat_shiftRight_and_seven]
  by_cases hr : fld v.toNat 15 13 < 6 <;>
    simp only [hr, ↓reduceIte, BitVec.getLsbD_or, BitVec.getLsbD_and, BitVec.getLsbD_not, hi, getLsbD_0xff00 i hi,
      getLsbD_0x1f00 i hi, getLsbD_0xe000 i hi, getLsbD_readStat _ _ hi]
  -- A bit lies below FLAGS, in FLAGS, in VRM or above both.
  all_goals grind

/-! ### Exceptions that are entered at once -/

@[simp] theorem State.b_setBank_cur (s : State) (b : Bank) : (s.setBank s.cur b).b = b := s.b_setB b

/-- A write of the bank that acts changes nothing outside it. -/
theorem SameOutside.of_setB (s : State) (b : Bank) : SameOutside s (s.setB b) where
  banks r h := s.bank_setB b r h
  fields := by
    unfold State.setB State.setBank
    split <;> rfl
  memory a := s.byte_setBank s.cur a b

theorem Bank.stat_statBit_mode (b : Bank) : (b.statBit 0 true).stat = b.stat ||| 1 := by
  have hone : ∀ i < 64, (1 : Word).getLsbD i = decide (i = 0) := by decide
  refine BitVec.eq_of_getLsbD_eq fun i hi => ?_
  rw [Bank.statBit, getLsbD_ofNat_putFld (Nat.le_refl 0), BitVec.getLsbD_or, hone i hi, decide_eq_true hi, Bool.true_and]
  by_cases h : i = 0
  · simp [h, bit01]
  · simp [h]

/-- Entry writes the exception registers, MODE and PC, and ends what the bank had begun (R154). -/
theorem State.entered_enterNow (s : State) (x : Exc) : Entered s (s.enterNow s.cur x) x.cause x.einfo x.eaddr x.epc := by
  unfold Entered State.enterNow
  simp only [State.b_setBank_cur]
  exact ⟨rfl, rfl, rfl, rfl, s.b.stat_statBit_mode, rfl, rfl, rfl, rfl, rfl, rfl, rfl, rfl, rfl, rfl, rfl, rfl, rfl, rfl,
    SameOutside.of_setB s _⟩

/-- An exception of a requester that enters its handler at once (R154, R155). -/
theorem State.entered_raise {s : State} (h : s.enters = true) (cause einfo eaddr : Nat) :
    Entered s (s.raise cause einfo eaddr) cause einfo eaddr s.b.pc := by
  simp only [State.enters, isSvc, Bool.and_eq_true, Bool.or_eq_true, decide_eq_true_eq, Bool.not_eq_true'] at h
  obtain ⟨hmode, hloads⟩ := h
  have hthread : (decide (s.cur < 4096) && (s.bank s.cur).priv) = false := by
    rcases hmode with hsvc | huser
    · rw [decide_eq_false (Nat.not_lt.2 hsvc), Bool.false_and]
    · rw [show (s.bank s.cur).priv = false from huser, Bool.and_false]
  rw [State.raise, State.takeExc]
  simp only [hthread, hloads, Bool.false_eq_true, ↓reduceIte]
  exact s.entered_enterNow _

/-! ### Reads of memory by the part itself, as they bear on the rest of the machine -/

/-- The state without memory and what stands between it and its readers: the caches, the tables held of it, the updates that wait, the
status of their regions and the counters of events. -/
def State.besideMemory (s : State) : State :=
  { s with
    mem := [], lines := [], wpoison := [], dirty := [], hostLines := [], hostWb := [], caches := {}, pre := [], held := []
    regstat := [], bins := [], logs := [], events := [] }

@[simp] theorem State.besideMemory_makeDirty (s : State) (l : Nat) : (s.makeDirty l).besideMemory = s.besideMemory := by
  unfold State.makeDirty
  split <;> rfl

@[simp] theorem State.besideMemory_found (s : State) (l : Nat) : (s.found l).besideMemory = s.besideMemory := rfl
@[simp] theorem State.besideMemory_recache (s : State) (c : Caches) : (s.recache c).besideMemory = s.besideMemory := rfl
@[simp] theorem State.besideMemory_bump (s : State) (c i e n : Nat) : (s.bump c i e n).besideMemory = s.besideMemory := rfl
@[simp] theorem State.besideMemory_regStatus (s : State) (i b : Nat) : (s.regStatus i b).besideMemory = s.besideMemory := rfl

theorem State.besideMemory_rawWrite (s : State) (k n v : Nat) (t : Option KeyTag) (y : By) :
    (s.rawWrite k n v t y).besideMemory = s.besideMemory := by
  have h : (s.rawWrite k n v t y).besideMemory = ((if n = 64 then s else s.found (k / 64)).makeDirty (k / 64)).besideMemory := rfl
  rw [h, State.besideMemory_makeDirty]
  split <;> rfl

theorem State.besideMemory_applyKey (s : State) (i slice pa : Nat) (ps : List Partial) :
    (s.applyKey i slice pa ps).besideMemory = s.besideMemory := by
  simp only [State.applyKey]
  split
  · rfl
  · split
    · exact s.besideMemory_makeDirty (pa / 64)
    · rw [State.besideMemory_regStatus, State.besideMemory_rawWrite]

theorem State.besideMemory_applyKeys (s : State) (i slice : Nat) (ps : List Partial) :
    (s.applyKeys i slice ps).besideMemory = s.besideMemory := by
  unfold State.applyKeys
  generalize ((sortPartials ps).map (·.pa)).eraseDups = l
  induction l generalizing s with
  | nil => rfl
  | cons k l ih => rw [List.foldl_cons, ih, State.besideMemory_applyKey]

theorem State.besideMemory_applyBlock (s : State) (block : Nat) : (s.applyBlock block).besideMemory = s.besideMemory := by
  unfold State.applyBlock
  split
  · rfl
  · dsimp only
    split
    · rfl
    · rw [State.besideMemory_bump, State.besideMemory_applyKeys]
      rfl

theorem State.besideMemory_applyAt (s : State) (a n : Nat) : (s.applyAt a n).besideMemory = s.besideMemory := by
  unfold State.applyAt
  split
  · dsimp only
    split <;> simp only [State.besideMemory_applyBlock]
  · rfl

theorem State.besideMemory_sysRead (s : State) (a n fuel : Nat) : (s.sysRead a n fuel).besideMemory = s.besideMemory := by
  induction fuel generalizing s a n with
  | zero => rfl
  | succ fuel ih =>
    unfold State.sysRead
    split
    · rfl
    · rw [ih, State.besideMemory_recache, State.besideMemory_found, State.besideMemory_applyAt]

/-- The load of an extent table bears on memory alone, and on which tables are held (R395). -/
theorem State.besideMemory_holdTable (s : State) (core x : Nat) : (s.holdTable core x).besideMemory = s.besideMemory := by
  unfold State.holdTable
  dsimp only
  split
  · rfl
  · split
    · exact s.besideMemory_sysRead _ _ _
    · rfl

/-- Where no update is pending, none is applied. -/
theorem State.applyBlock_of_settled {s : State} (h : s.settled) (block : Nat) : s.applyBlock block = s := by
  obtain ⟨hbins, hlogs⟩ := h
  unfold State.applyBlock
  split
  · rfl
  · simp [State.binsOf, hbins, hlogs, Tab.get]

theorem State.applyAt_of_settled {s : State} (h : s.settled) (a n : Nat) : s.applyAt a n = s := by
  simp [State.applyAt, State.applyBlock_of_settled h]

/-- Where no update is pending, a read by the part itself leaves memory as it is. -/
theorem State.mem_sysRead_of_settled {s : State} (h : s.settled) (a n fuel : Nat) : (s.sysRead a n fuel).mem = s.mem := by
  induction fuel generalizing s a n with
  | zero => rfl
  | succ fuel ih =>
    unfold State.sysRead
    split
    · rfl
    · dsimp only
      rw [State.applyAt_of_settled h]
      exact ih (s := (s.found (a / 64)).recache _) h _ _

theorem State.mem_holdTable_of_settled {s : State} (h : s.settled) (core x : Nat) : (s.holdTable core x).mem = s.mem := by
  unfold State.holdTable
  dsimp only
  split
  · rfl
  · split
    · exact State.mem_sysRead_of_settled h _ _ _
    · rfl

/-! ### Control registers -/

/-- A bank without the registers that software reads as control registers. -/
def Bank.sansCsrs (b : Bank) : Bank :=
  { b with stat := 0, epc := 0, ecause := 0, einfo := 0, eaddr := 0, qtrapcfg := 0, scratch := [], ctxroot := 0, ctxkey := 0
           xtab := 0 }

/-- Of the banks, only control registers of the one that acts may have changed, and no byte of memory where no update is pending. -/
structure KeptButCsrs (s t : State) : Prop where
  cur : t.cur = s.cur
  bank : t.b.sansCsrs = s.b.sansCsrs
  others : ∀ r, r ≠ s.cur → t.bank r = s.bank r
  memory : s.settled → t.mem = s.mem

theorem KeptButCsrs.of_setB {s : State} {b : Bank} (h : b.sansCsrs = s.b.sansCsrs) : KeptButCsrs s (s.setB b) where
  cur := s.cur_setB b
  bank := by rw [State.b_setB, h]
  others r hr := s.bank_setB b r hr
  memory _ := s.setBank_mem s.cur b

theorem KeptButCsrs.holdTable {s t : State} (h : KeptButCsrs s t) (ht : s.settled → t.settled) (core x : Nat) :
    KeptButCsrs s (t.holdTable core x) where
  cur := (congrArg State.cur (t.besideMemory_holdTable core x)).trans h.cur
  bank := (congrArg (fun u => u.b.sansCsrs) (t.besideMemory_holdTable core x)).trans h.bank
  others r hr := (congrArg (fun u => u.bank r) (t.besideMemory_holdTable core x)).trans (h.others r hr)
  memory hs := (State.mem_holdTable_of_settled (ht hs) core x).trans (h.memory hs)

theorem State.settled_setB {s : State} (b : Bank) (h : s.settled) : (s.setB b).settled := by
  simpa [State.settled, State.setB] using h

theorem State.keptButCsrs_csrWrite (s : State) (i : Nat) (v : Word) : KeptButCsrs s (s.csrWrite i v) := by
  unfold State.csrWrite
  split
  -- XTAB, whose write also loads a table; RCBPTR, FAULTQ and an index without a write touch no bank.
  case h_13 =>
    refine KeptButCsrs.holdTable (t := s.setB _) (.of_setB ?_) (State.settled_setB _) _ _
    rfl
  case h_14 | h_15 | h_16 => exact ⟨rfl, rfl, fun _ _ => rfl, fun _ => rfl⟩
  all_goals exact KeptButCsrs.of_setB rfl

@[simp] theorem State.b_holdTable (s : State) (core x : Nat) : (s.holdTable core x).b = s.b :=
  congrArg (fun u => u.b) (s.besideMemory_holdTable core x)

@[simp] theorem State.csrRead_holdTable (s : State) (core x j : Nat) : (s.holdTable core x).csrRead j = s.csrRead j :=
  congrArg (fun u => u.csrRead j) (s.besideMemory_holdTable core x)

@[simp] theorem State.rchan_setBank (s : State) (b : Bank) (q r : Nat) : (s.setBank q b).rchan r = s.rchan r := by
  simp [State.rchan]

/-- A write of the bank that acts leaves the control registers alone, if it leaves STAT and the rest alone. -/
theorem State.csrRead_setB_of_rest {s : State} {b : Bank} (hrest : b.rest = s.b.rest) (hstat : b.stat = s.b.stat) (j : Nat) :
    (s.setB b).csrRead j = s.csrRead j := by
  simp only [Bank.rest, Bank.mk.injEq] at hrest
  simp [State.csrRead, Bank.readStat, hstat, hrest]

theorem State.csrRead_csrWrite_of_ne (s : State) {i j : Nat} (h : j ≠ i) (v : Word) :
    (s.csrWrite i v).csrRead j = s.csrRead j := by
  unfold State.csrWrite
  split
  -- RCBPTR and FAULTQ, which belong to the package; an index without a write; the registers of the bank.
  case h_14 =>
    unfold State.csrRead
    split
    case h_15 => exact absurd rfl h
    all_goals rfl
  case h_15 =>
    unfold State.csrRead
    split
    case h_16 => exact absurd rfl h
    all_goals rfl
  case h_16 => rfl
  all_goals
    simp only [State.csrRead_holdTable, State.setB_eq]
    unfold State.csrRead
    split <;> simp_all [Bank.writeStat, Bank.setScratch, Bank.readStat]

/-- What a control register reads after a write of `v`, `old` being what it read before: only the fields that its map makes RW change
(R92). -/
def csrWritten (i : BitVec 8) (old v : Word) : Word :=
  if i = 0x00 then statWritten old v
  else if i = 0x02 then v &&& 0xff
  else if i = 0x05 ∨ i = 0x45 then old
  else if i = 0x06 then v &&& 0xff03
  else if i = 0x40 then v &&& 0x3fffffffff0001
  else if i = 0x41 then v &&& 0xfff
  else if i = 0x42 then v &&& 0x3ffffffffff87f
  else if i = 0x43 then v &&& 0x3fffffffffff81
  else if i = 0x44 then v &&& 0x3fffffffffffc1
  else v

theorem csrAssigned_iff : ∀ i : BitVec 8, csrAssigned i = true ↔
    i ∈ [0x00, 0x01, 0x02, 0x03, 0x04, 0x05, 0x06, 0x08, 0x09, 0x0a, 0x0b, 0x40, 0x41, 0x42, 0x43, 0x44, 0x45] := by
  decide

theorem State.csrRead_csrWrite_same (s : State) {i : BitVec 8} (hi : csrAssigned i = true) (v : Word) :
    (s.csrWrite i.toNat v).csrRead i.toNat = csrWritten i (s.csrRead i.toNat) v := by
  simp only [csrAssigned_iff, List.mem_cons, List.not_mem_nil, or_false] at hi
  rcases hi with rfl | rfl | rfl | rfl | rfl | rfl | rfl | rfl | rfl | rfl | rfl | rfl | rfl | rfl | rfl | rfl | rfl
  · simp [State.csrWrite, State.csrRead, csrWritten, Bank.readStat_writeStat]
  all_goals simp [State.csrWrite, State.csrRead, csrWritten, Bank.setScratch]

/-! ### The instructions of R159 -/

theorem State.csrOp_of_allowed {s : State} {i : BitVec 8} {write : Bool} (hi : csrAssigned i = true)
    (hp : (s.b.priv || csrUser i.toNat write) = true) (k : State → State) : s.csrOp i.toNat write k = k s := by
  have hrefused : (!s.b.priv && !csrUser i.toNat write) = false := by rw [← Bool.not_or, hp, Bool.not_true]
  simp only [State.csrOp, BitVec.ofNat_toNat, BitVec.setWidth_eq, hi, hrefused, Bool.not_true, Bool.false_eq_true, ↓reduceIte]

theorem State.csrOp_of_refused {s : State} {i : BitVec 8} {write : Bool} (hi : csrAssigned i = true) (hp : s.b.priv = false)
    (hu : csrUser i.toNat write = false) (k : State → State) : s.csrOp i.toNat write k = s.illegal 4 := by
  simp [State.csrOp, hi, hp, hu]

theorem State.csrOp_of_unassigned {s : State} {i : BitVec 8} {write : Bool} (hi : csrAssigned i = false)
    (k : State → State) : s.csrOp i.toNat write k = s.illegal 2 := by
  simp [State.csrOp, hi]

/-- An instruction that reads and writes registers may read them when it may do both. -/
theorem State.ready_reads {s : State} {reads writes : List Reg} (h : s.ready reads writes = true) : s.ready reads [] = true := by
  simp only [State.ready, List.all_append, Bool.and_eq_true, List.all_nil] at h ⊢
  exact ⟨⟨h.1.1, trivial⟩, h.2⟩

/-- What CSRW and CSRX do beside the general registers when they write `v` to control register `i` (R92, R159). -/
def CsrWrote (s t : State) (i : BitVec 8) (v : Word) : Prop :=
  t.csrRead i.toNat = csrWritten i (s.csrRead i.toNat) v ∧ (∀ j, j ≠ i.toNat → t.csrRead j = s.csrRead j) ∧
    t.b.pc = s.b.pc + 4 ∧ (∀ n, t.b.vreg n = s.b.vreg n) ∧ (∀ n, t.b.kreg n = s.b.kreg n) ∧
    (∀ r, r ≠ s.cur → t.bank r = s.bank r) ∧ (s.settled → ∀ x, t.byte x = s.byte x)

/-- A write of a control register that an update of general registers and PC follows. -/
theorem CsrWrote.of_csrWrite (s : State) {i : BitVec 8} (hi : csrAssigned i = true) (v : Word) (f : Bank → Bank)
    (hrest : ∀ b, (f b).rest = b.rest) (hstat : ∀ b, (f b).stat = b.stat) (hv : ∀ b n, (f b).vreg n = b.vreg n)
    (hk : ∀ b n, (f b).kreg n = b.kreg n) (hpc : ∀ b, (f b).pc = b.pc + 4) :
    CsrWrote s ((s.csrWrite i.toNat v).setB (f (s.csrWrite i.toNat v).b)) i v := by
  obtain ⟨hcur, hbank, hothers, hmemory⟩ := s.keptButCsrs_csrWrite i.toNat v
  refine ⟨?_, ?_, ?_, ?_, ?_, ?_, ?_⟩
  · rw [State.csrRead_setB_of_rest (hrest _) (hstat _), State.csrRead_csrWrite_same s hi]
  · intro j hj
    rw [State.csrRead_setB_of_rest (hrest _) (hstat _), State.csrRead_csrWrite_of_ne s hj]
  · rw [State.b_setB, hpc]
    exact congrArg (fun b => b.pc + 4) hbank
  · intro n
    rw [State.b_setB, hv]
    exact congrArg (fun b => b.vreg n) hbank
  · intro n
    rw [State.b_setB, hk]
    exact congrArg (fun b => b.kreg n) hbank
  · intro r hr
    rw [State.bank_setB _ _ _ (hcur ▸ hr), hothers r hr]
  · intro hs x
    rw [State.setB_eq, State.byte_setBank, State.byte, hmemory hs, State.byte]

theorem State.gpr_csrWrite (s : State) (i : Nat) (v : Word) (n : Nat) : (s.csrWrite i v).b.gpr n = s.b.gpr n :=
  congrArg (fun b => b.gpr n) (s.keptButCsrs_csrWrite i v).bank

/-- What CSRW and CSRX do is not touched by the note of the registers that they write (State.preWritten, assumption 7). -/
theorem CsrWrote.of_preWritten {s t : State} {r : Nat} {l : List (Bool × Nat)} {i : BitVec 8} {v : Word}
    (h : CsrWrote (s.preWritten r l) t i v) : CsrWrote s t i v := by
  obtain ⟨hsame, hne, hpc, hv, hk, hothers, hmemory⟩ := h
  exact ⟨hsame, hne, hpc, hv, hk, hothers, hmemory⟩

/-- CSRR of a register that it may read. -/
theorem setsG_csrr {s : State} {d : BitVec 5} {i : BitVec 8} (hi : csrAssigned i = true)
    (hp : (s.b.priv || csrUser i.toNat false) = true) (hr : s.ready [] [.g d.toNat] = true) :
    SetsG (.csrr d i) s d (s.csrRead i.toNat) 4 := by
  refine SetsG.of_writeG _ s 4 [] d (fun _ => s.csrRead i.toNat) ?_ hr
  change execCsrr d i s = _
  rw [execCsrr, State.csrOp_of_allowed hi hp, State.writeG, State.issue_ready _ _ _ _ hr, State.issue_ready _ _ _ _ hr]
  rfl

/-- CSRW to a register that it may write. -/
theorem exec_csrw_wrote {s : State} {a : BitVec 5} {i : BitVec 8} (hi : csrAssigned i = true)
    (hp : (s.b.priv || csrUser i.toNat true) = true) (hr : s.ready [.g a.toNat] [] = true) :
    ∃ t, exec (.csrw a i) s = .next t ∧ CsrWrote s t i (s.b.gpr a.toNat) ∧ ∀ n, t.b.gpr n = s.b.gpr n := by
  have hexec : exec (.csrw a i) s =
      let u := (s.preWritten s.cur []).csrWrite i.toNat (s.b.gpr a.toNat)
      .next (u.setB (u.b.advance 4)) := by
    change execCsrw a i s = _
    rw [execCsrw, State.csrOp_of_allowed hi hp, State.issue_ready _ _ _ _ hr]
    rfl
  have hwrote := CsrWrote.of_csrWrite (s.preWritten s.cur []) hi (s.b.gpr a.toNat) (fun b => b.advance 4)
    (by simp) (by simp) (by simp) (by simp) (by simp)
  refine ⟨_, hexec, .of_preWritten hwrote, fun n => ?_⟩
  rw [State.b_setB, Bank.gpr_advance, State.gpr_csrWrite, State.b_preWritten]

/-- CSRX of a register that it may write: it returns the value that the write replaces. -/
theorem exec_csrx_wrote {s : State} {d a : BitVec 5} {i : BitVec 8} (hi : csrAssigned i = true)
    (hp : (s.b.priv || csrUser i.toNat true) = true) (hr : s.ready [.g a.toNat] [.g d.toNat] = true) :
    ∃ t, exec (.csrx d a i) s = .next t ∧ CsrWrote s t i (s.b.gpr a.toNat) ∧
      t.b.gpr d.toNat = (if d = 0 then 0 else s.csrRead i.toNat) ∧ ∀ n, n ≠ d.toNat → t.b.gpr n = s.b.gpr n := by
  have hexec : exec (.csrx d a i) s =
      let u := (s.preWritten s.cur [(false, d.toNat)]).csrWrite i.toNat (s.b.gpr a.toNat)
      .next (u.setB ((u.b.setGpr d.toNat (s.csrRead i.toNat)).advance 4)) := by
    change execCsrx d a i s = _
    rw [execCsrx, State.csrOp_of_allowed hi hp, State.issue_ready _ _ _ _ hr]
    rfl
  have hwrote := CsrWrote.of_csrWrite (s.preWritten s.cur [(false, d.toNat)]) hi (s.b.gpr a.toNat)
    (fun b => (b.setGpr d.toNat (s.csrRead i.toNat)).advance 4) (by simp) (by simp) (by simp) (by simp) (by simp)
  refine ⟨_, hexec, .of_preWritten hwrote, ?_, ?_⟩
  · rw [State.b_setB, Bank.gpr_advance, Bank.gpr_setGpr, if_pos rfl]
    simp only [toNat_eq_zero_iff]
  · intro n hn
    rw [State.b_setB, Bank.gpr_advance, Bank.gpr_setGpr, if_neg hn, State.gpr_csrWrite, State.b_preWritten]

theorem enters_of_illegal {s : State} {i : Instr} {sub : Nat} (henters : s.enters = true)
    (hexec : exec i s = .next (s.illegal sub)) : Enters i s 1 sub 0 s.b.pc :=
  ⟨_, hexec, State.entered_raise henters 1 sub 0⟩

/-- Settles O15: what is permitted goes by csrRead and csrWrite, what is refused by csrOp. -/
theorem controlRegisters : Obligations.ControlRegisters := by
  unfold Obligations.ControlRegisters
  refine ⟨fun s d a i => ⟨setsG_csrr, ?_, ?_, ?_, ?_⟩, fun s d a i hi hp hr => ⟨?_, ?_⟩⟩
  · intro hi hp hr
    obtain ⟨t, hexec, ⟨-, -, hpc, -⟩, hd, -⟩ := exec_csrx_wrote hi hp hr
    exact ⟨t, hexec, hd, hpc⟩
  · intro hi hp hu henters
    exact enters_of_illegal henters (congrArg _ (State.csrOp_of_refused hi hp hu _))
  · intro hi hp hu henters
    have hillegal := State.csrOp_of_refused hi hp hu
    exact ⟨enters_of_illegal henters (congrArg _ (hillegal _)), enters_of_illegal henters (congrArg _ (hillegal _))⟩
  · intro hi henters
    have hillegal {write : Bool} := State.csrOp_of_unassigned (s := s) (write := write) hi
    exact ⟨enters_of_illegal henters (congrArg _ (hillegal _)), enters_of_illegal henters (congrArg _ (hillegal _)),
      enters_of_illegal henters (congrArg _ (hillegal _))⟩
  · exact exec_csrw_wrote hi hp (State.ready_reads hr)
  · exact exec_csrx_wrote hi hp hr

end Sys2Proof.Machine
end

-- The host's read of a tier line (18_outside R437), and the refutation of O52.
section
namespace Sys2Proof.Machine

/-! ### Reads of plain tier lines -/

/-- An aligned read of a tier line that lies in no update region returns what memory holds; it finds the line's error and goes through
its home. -/
theorem State.readAt_tierLine {s : State} {d : Nat} (hd : d % 64 = 0) (htier : isTier d = true)
    (hregion : s.regionAt (d / 4096 * 4096) = none) (cluster : Nat) :
    s.readAt cluster d 64 =
      (s.num d 64, s.poisonAt d 64, (s.found (d / 64)).recache (s.cacheRead none d none)) := by
  have hlt : d < 0x20000000000 := by simpa [isTier] using htier
  have hlocal : paLocal d = d := Nat.mod_eq_of_lt (by omega)
  have hdev : isDevice d = false := by simp [isDevice]; omega
  have hhost : isHost (d / 64 * 64) = false := by simp [isHost]; omega
  have hkey : cellKey cluster d = d := if_neg (by simp [isScratch]; omega)
  have hfill : s.hostFill (d / 64) = s := by simp [State.hostFill, hhost]
  have happly : s.applyAt d 64 = s := by
    have hblock : (d + (64 - 1)) / 4096 = d / 4096 := by omega
    simp [State.applyAt, htier, State.applyBlock, hregion, hblock]
  simp only [State.readAt, hlocal, hdev, hfill, happly, hkey, Bool.false_eq_true, ↓reduceIte]

/-- A CXL.mem read by the host of a line of a tier outside the update regions and their logs (R437). -/
theorem exec_hostCxlMemRead_of_plain {s : State} {a : BitVec 64} (hup : s.hostUp = true)
    (htier : isTier (a.toNat / 64 * 64) = true) (hlog : s.inLog (a.toNat / 64 * 64) = false)
    (hregion : s.regionAt (a.toNat / 64 * 64 / 4096 * 4096) = none) :
    exec (.hostCxlMemRead a) s =
      let d := a.toNat / 64 * 64
      .next (((s.found (d / 64)).recache (s.cacheRead none d none)).tell
        (.mem (BitVec.ofNat 512 (s.num d 64)) (s.poisonAt d 64).isSome)) := by
  change execHostCxlMemRead a s = _
  simp only [execHostCxlMemRead, hup, htier, hlog, State.readAt_tierLine (Nat.mul_mod_left _ 64) htier hregion,
    Bool.not_true, Bool.or_self, Bool.false_eq_true, ↓reduceIte]

/-! ### What a read leaves of the lines -/

theorem State.line_leave (s : State) (l j : Nat) : (s.leave l).line j = if j = l then s.leftLine l else s.line j := by
  simp only [State.line, State.leave, Tab.get_set]

theorem State.line_found {s : State} {l j : Nat} (h : j = l → s.lineErr j = 0) : (s.found l).line j = s.line j := by
  simp only [State.line, State.found]
  split
  · rfl
  · next herr => rw [Tab.get_set, if_neg fun hj : j = l => herr (hj ▸ h hj)]

theorem State.line_foldl_leave {out : List Nat} {j : Nat} (h : j ∉ out) (s : State) :
    (out.foldl State.leave s).line j = s.line j := by
  induction out generalizing s with
  | nil => rfl
  | cons l out ih =>
    obtain ⟨hl, hout⟩ := List.ne_and_not_mem_of_not_mem_cons h
    rw [List.foldl_cons, ih hout, State.line_leave, if_neg hl]

/-- Only lines that the table of dirty lines names are written back as the caches change. -/
theorem State.line_recache {s : State} {j : Nat} (h : j ∉ s.dirty.map (·.1)) (c : Caches) :
    (s.recache c).line j = s.line j :=
  State.line_foldl_leave (fun hj => h (List.mem_filter.mp hj).1) s

/-- In a table in canonical form no key that an entry names reads the default. -/
theorem Tab.get_ne_of_mem_keys {α : Type} [DecidableEq α] {d : α} {m : Tab α} {lo : Option Nat}
    (hm : Tab.wfFrom d lo m = true) {k : Nat} (hk : k ∈ m.map (·.1)) : Tab.get d m k ≠ d := by
  induction m generalizing lo with
  | nil => cases hk
  | cons e m ih =>
    obtain ⟨k', v⟩ := e
    simp only [Tab.wfFrom, Bool.and_eq_true, decide_eq_true_eq] at hm
    obtain ⟨⟨-, hv⟩, htail⟩ := hm
    rw [Tab.get_cons]
    split
    · exact hv
    · next hne => exact ih htail ((List.mem_cons.mp hk).resolve_left (Ne.symm hne))

/-- Where the table of dirty lines is in canonical form, what a read of a line leaves is as AfterReads says. -/
theorem State.afterReads_found_recache {s : State} (hdirty : Tab.wf none s.dirty = true) (l : Nat) (c : Caches) :
    AfterReads [l] s ((s.found l).recache c) where
  fields := by simp only [State.recache, State.found]
  line j herr hclean := by
    have hkeys : j ∉ (s.found l).dirty.map (·.1) := fun hj => Tab.get_ne_of_mem_keys hdirty hj hclean
    calc ((s.found l).recache c).line j
        = (s.found l).line j := State.line_recache hkeys c
      _ = s.line j := State.line_found fun hj => herr (List.mem_singleton.mpr hj)

/-! ### The counterexample -/

/-- Lines that share a set of the memory-side cache of S0 (assumption 8). -/
def sameSetLine (i : Nat) : Nat := 57344 * 4 * (i + 1)

/-- The state after reset with a host port up. The sixteen ways of a set of S0 hold lines; the tier's copy of the first has an error
that its code cannot correct (R180). The table of dirty lines has an entry for that line which reads none, as it does for a line that is
clean. -/
def cleanLineNamed : State :=
  { State.reset with
    hostPorts := [(0, 16)]
    lines := State.reset.lines ++ [(sameSetLine 0, { key := some { slot := 0, ver := 0 }, err := 1 })]
    dirty := [(sameSetLine 0, none)]
    caches := { ms := [(msKey (sameSetLine 0), (List.range 16).map fun i => { line := sameSetLine i })] } }

/-- A host read of a seventeenth line of the set. -/
def seventeenth : BitVec 64 := BitVec.ofNat 64 (sameSetLine 16 * 64)

/-- As the read brings the seventeenth line in, the first leaves the set. As an entry names it, it is written back as a dirty line is,
and the error of the tier's copy is gone. -/
theorem cleanLineNamed_err :
    (cleanLineNamed.line (sameSetLine 0)).err = 1 ∧
    (((cleanLineNamed.found (sameSetLine 16)).recache
      (cleanLineNamed.cacheRead none (sameSetLine 16 * 64) none)).line (sameSetLine 0)).err = 0 := by
  decide +kernel

/-- Refutes O52: its clause on host reads is said of every state, also of one whose table of dirty lines is not in canonical form. An
entry that reads none there makes no line dirty, but the line that it names is written back as it leaves the caches, and loses the error
of its tier copy. By State.afterReads_found_recache the clause holds where the table is in canonical form. -/
theorem not_hostAccesses : ¬ Obligations.HostAccesses := by
  unfold Obligations.HostAccesses
  intro h
  have hup : cleanLineNamed.hostUp = true := rfl
  have htier : isTier (seventeenth.toNat / 64 * 64) = true := by decide +kernel
  have hlog : cleanLineNamed.inLog (seventeenth.toNat / 64 * 64) = false := rfl
  have hregion : cleanLineNamed.regionAt (seventeenth.toNat / 64 * 64 / 4096 * 4096) = none := rfl
  obtain ⟨hread, -⟩ := h cleanLineNamed seventeenth 0 0 0 false 0 0 hup
  obtain ⟨t, hexec, -, hafter⟩ := hread ⟨htier, hlog, hregion⟩
  obtain rfl := Host.Outcome.next.inj ((exec_hostCxlMemRead_of_plain hup htier hlog hregion).symm.trans hexec)
  have hsame := hafter.line (sameSetLine 0) (fun hl => absurd hl (by decide +kernel)) (by decide +kernel)
  obtain ⟨hbefore, hlost⟩ := cleanLineNamed_err
  have hkept := congrArg LineMeta.err hsame
  exact absurd (hlost.symm.trans (hkept.trans hbefore)) (by decide)

end Sys2Proof.Machine
end

-- The halves of a BF16 update at the end of a region (10_updates R240, R244; 17_work R412), and the refutation of O25.
section
namespace Sys2Proof.Machine

/-- The halves of a word lie in the same region, as a region begins and ends at a multiple of 4 KiB (R237). -/
theorem State.regionAt_add_two (s : State) {a : Nat} (ha : a % 4 = 0) : s.regionAt (a + 2) = s.regionAt a := by
  have hcovers (r : Region) :
      r.covers (s.pkg % 4096 * 2 ^ 42 + (a + 2)) = r.covers (s.pkg % 4096 * 2 ^ 42 + a) := by
    have hbase : r.base % 4 = 0 := by simp only [Region.base]; omega
    have hlen : r.len % 4 = 0 := by simp only [Region.len]; omega
    rw [Bool.eq_iff_iff]
    simp only [Region.covers, Bool.and_eq_true, decide_eq_true_eq]
    exact and_congr (and_congr Iff.rfl (by omega)) (by omega)
  simp only [State.regionAt, hcovers]

/-- The state after reset, whose service core 0 acts. Its extent maps the HBM onto itself as update memory, in which the block at 0x10_0000
is a BF16 region. FAULTQ names a descriptor at 0x40, whose queue signals semaphore 0, on which service core 1 has stopped at a SEMW. -/
def regionEnd : State :=
  { State.reset with
    mem := [(0x40, 0x80), (0x4b, 0x80)]
    held := [(128, [{ base := 0, ents := [1 + 2 ^ 23 * 2 ^ 64 + 0x5c * 2 ^ 192] }])]
    regions := [(0, { d0 := 2 ^ 63 + 0x100000 + 6 * 2 ^ 8 + 1 * 2 ^ 4, d1 := 1 })]
    faultq := 0x41
    sems := [(0, { waiters := [{ who := .svc 1, thr := 1 }] })]
    svcs := [(1, { svcReset with susp := some (.semw 0 1) })] }

/-- An update of size 01 at the last halfword of the region. -/
def lastHalf : Instr := .xm .upd 0 0 1 0 0 0 0x100ffe

/-- R240 gives UPD the sizes 10 and 11 only. -/
theorem wf_lastHalf : lastHalf.wf = false := by decide

/-- The address passes the checks: a BF16 region takes every size but 11. -/
theorem regionEnd_access : regionEnd.access .upd 0x100ffe 2 0 = (.ok 0x100ffe 0 1, regionEnd) := by decide +kernel

/-- The first half of the update lies in the region, the second half in none (R244). -/
theorem regionEnd_regionAt : (updKeys 6 0x100ffe 0).map (fun k => regionEnd.regionAt k.1) = [some 0, none] := by decide +kernel

theorem exec_lastHalf_regionEnd : exec lastHalf regionEnd = .next (regionEnd.opXm .upd 0 0 1 0 0 0 0x100ffe) := rfl

/-- The second half is dropped, and the record of its drop (R244) signals the semaphore and so wakes service core 1 (R373, R412). -/
theorem regionEnd_wakes :
    (regionEnd.bank 4097).susp = some (.semw 0 1) ∧
      ((regionEnd.opXm .upd 0 0 1 0 0 0 0x100ffe).bank 4097).susp = none := by
  decide +kernel

/-- Refutes O25: its clause on the XM form of UPD is said of every size field. With size 01, which R240 rules out, a BF16 update need
not lie within one word, so that its second half may lie beyond the region. That half is dropped with a fault record, which may signal a
semaphore and wake another requester, whose bank then changes. By State.regionAt_add_two the halves of a word lie in one region. -/
theorem not_updates : ¬ Obligations.Updates := by
  unfold Obligations.Updates
  intro h
  obtain ⟨hupd, -⟩ := h regionEnd regionEnd 0 0 0 0 0x100ffe 0 1 0 0 0 1 0x100ffe 0 0 0 0 0 []
    (by decide +kernel) rfl (by decide +kernel)
  obtain ⟨-, hxm⟩ := hupd (by decide +kernel)
  obtain ⟨hown, -⟩ := hxm regionEnd_access
  obtain ⟨t, hexec, ⟨-, -, -, -, -, -, -, hothers⟩, -⟩ := hown (by decide)
  obtain rfl := Host.Outcome.next.inj (exec_lastHalf_regionEnd.symm.trans hexec)
  obtain ⟨hstopped, hwoken⟩ := regionEnd_wakes
  rw [hothers 4097 (by decide), hstopped] at hwoken
  exact absurd hwoken (by decide)

end Sys2Proof.Machine
end

-- What the start of an instruction leaves of the lines read ahead (08_ordering R194), and the refutation of O26.
section
namespace Sys2Proof.Machine

/-- A write of what a key reads leaves a table in canonical form as it is. -/
theorem Tab.set_get_of_wf {α : Type} [DecidableEq α] {d : α} {m : Tab α} (hm : Tab.wf d m = true) (k : Nat) :
    Tab.set d m k (Tab.get d m k) = m := by
  refine Tab.wf_ext d _ _ (Tab.wf_set d m k _ hm) hm fun j => ?_
  rw [Tab.get_set]
  split
  · next hj => rw [hj]
  · rfl

/-- Where the table of the lines read ahead is in canonical form, an instruction that writes no register leaves it as it is. -/
theorem State.preWritten_nil_of_wf {s : State} (hpre : Tab.wf [] s.pre = true) (r : Nat) : s.preWritten r [] = s := by
  have hsame : (Tab.get [] s.pre r).map (fun x => { x with written := [] ++ x.written }) = Tab.get [] s.pre r :=
    List.map_id _
  calc s.preWritten r []
      = { s with pre := Tab.set [] s.pre r (Tab.get [] s.pre r) } := by rw [← hsame]; rfl
    _ = s := by rw [Tab.set_get_of_wf hpre]

/-- The state after reset, whose service core 0 acts. Its extent maps the HBM onto itself as update memory, in which the block at 0x1000 is
a region in which nothing is pending. The table of the lines read ahead has an entry for the core that lists none. -/
def emptyPreEntry : State :=
  { State.reset with
    held := [(128, [{ base := 0, ents := [1 + 2 ^ 23 * 2 ^ 64 + 0x5c * 2 ^ 192] }])]
    regions := [(0, { d0 := 2 ^ 63 + 0x1000 + 2 * 2 ^ 8 + 2 * 2 ^ 4, d1 := 1 })]
    pre := [(4096, [])] }

/-- The check of the address of a flush of the block at 0x1000 leaves the state alone. -/
theorem emptyPreEntry_access : emptyPreEntry.access .uflush 0x1000 1 0 = (.ok 0x1000 0 1, emptyPreEntry) := by decide +kernel

theorem exec_uflush_emptyPreEntry :
    exec (.uflush 0 64) emptyPreEntry = .next (emptyPreEntry.opUflush 4 0 fun k => eaOff (k.gpr 0) 64 64) := rfl

/-- The flush writes the entry of its core anew, which leaves it out. -/
theorem emptyPreEntry_opUflush_pre :
    (emptyPreEntry.opUflush 4 0 fun k => eaOff (k.gpr 0) 64 64).pre = [] := by
  decide +kernel

/-- Refutes O26: its clause on UFLUSH compares all of the state but the banks, also the lines that threads have read ahead, and is said of
every state, also of one whose table of these lines is not in canonical form. An entry that lists no line is gone after the instruction,
and is there after the apply alone. By State.preWritten_nil_of_wf the start of a UFLUSH changes nothing of a table in canonical form. -/
theorem not_updateApplies : ¬ Obligations.UpdateApplies := by
  unfold Obligations.UpdateApplies
  rintro ⟨hflush, -⟩
  obtain ⟨huflush, -⟩ := hflush emptyPreEntry emptyPreEntry 0 0 64 0 0 0 0 0 0x1000 0 1 (by decide +kernel) (by decide +kernel)
  obtain ⟨t, hexec, -, -, hfields⟩ := huflush emptyPreEntry_access (by decide) (by decide)
  obtain rfl := Host.Outcome.next.inj (exec_uflush_emptyPreEntry.symm.trans hexec)
  have hpre := congrArg State.pre hfields
  rw [State.applyBlock_of_settled ⟨rfl, rfl⟩] at hpre
  exact absurd (emptyPreEntry_opUflush_pre.symm.trans hpre) (by decide)

end Sys2Proof.Machine
end

-- Requests, acknowledgements and queries at the owner of remote lines (11_remote R267 to R269, R274), and the proof of O45.
section
namespace Sys2Proof.Machine

/-! ### Tier memory that a remote access reaches (07_memories R163) -/

theorem paLocal_of_isTier {a : Nat} (h : isTier a = true) : paLocal a = a := by
  have hlt : a < 0x20000000000 := by simpa [isTier] using h
  exact Nat.mod_eq_of_lt (by omega)

theorem isDevice_of_isTier {a : Nat} (h : isTier a = true) : isDevice a = false := by
  have hlt : a < 0x20000000000 := by simpa [isTier] using h
  simp [isDevice]
  omega

theorem cellKey_of_isTier {a : Nat} (h : isTier a = true) (cluster : Nat) : cellKey cluster a = a := by
  have hlt : a < 0x20000000000 := by simpa [isTier] using h
  exact if_neg (by simp [isScratch]; omega)

theorem State.hostFill_of_isTier {a : Nat} (h : isTier a = true) (s : State) : s.hostFill (a / 64) = s := by
  have hlt : a < 0x20000000000 := by simpa [isTier] using h
  have hhost : isHost (a / 64 * 64) = false := by simp [isHost]; omega
  simp [State.hostFill, hhost]

/-- An access within a block that lies in no update region applies nothing (10_updates R249). -/
theorem State.applyAt_of_noRegion {s : State} {a n : Nat} (hregion : s.regionAt (a / 4096 * 4096) = none)
    (hblock : (a + (n - 1)) / 4096 = a / 4096) : s.applyAt a n = s := by
  simp [State.applyAt, State.applyBlock, hregion, hblock]

theorem State.paLocal_ownerPa (s : State) (a : Nat) : paLocal (s.ownerPa a) = paLocal a := by
  simp [State.ownerPa, paLocal]

theorem State.ownerLog_of_isTier {a : Nat} (h : isTier a = true) (s : State) : s.ownerLog a = s.inLog a := by
  rw [State.ownerLog, paLocal_of_isTier h]

/-- A remote write within a block of a tier outside the update regions and their logs writes memory at its address. -/
theorem State.ownerExec_write {s : State} {a n : Nat} (htier : isTier a = true) (hlog : s.inLog a = false)
    (hregion : s.regionAt (a / 4096 * 4096) = none) (hblock : (a + (n - 1)) / 4096 = a / 4096) (v key kind : Nat) :
    s.ownerExec (.write a n v key kind) = (0, none, kind, s.rawWrite a n v (some (s.tagOf key)) .remote) := by
  have hwrite : s.writeAt 0 (s.ownerPa a) n v key .remote = s.rawWrite a n v (some (s.tagOf key)) .remote := by
    simp [State.writeAt, State.paLocal_ownerPa, paLocal_of_isTier htier, isDevice_of_isTier htier,
      State.hostFill_of_isTier htier, State.applyAt_of_noRegion hregion hblock, cellKey_of_isTier htier, htier]
  simp only [State.ownerExec, State.ownerLog_of_isTier htier, hlog, hwrite, Bool.false_eq_true, ↓reduceIte]

/-- A remote read within a line of a tier outside the update regions and their logs, where no byte is poisoned, returns what memory
holds; it finds the line's error and goes through its home. -/
theorem State.ownerRead_of_unpoisoned {s : State} {a n : Nat} (htier : isTier a = true) (hlog : s.inLog a = false)
    (hregion : s.regionAt (a / 4096 * 4096) = none) (hline : a % 64 + n ≤ 64) (hn : 1 ≤ n) (hpoison : s.poisonAt a n = none) :
    s.ownerRead a n = (s.num a n, none, 0, (s.found (a / 64)).recache (s.cacheRead none a none)) := by
  have hblock : (a + (n - 1)) / 4096 = a / 4096 := by omega
  have hread : s.readAt 0 (s.ownerPa a) n = (s.num a n, none, (s.found (a / 64)).recache (s.cacheRead none a none)) := by
    simp [State.readAt, State.paLocal_ownerPa, paLocal_of_isTier htier, isDevice_of_isTier htier,
      State.hostFill_of_isTier htier, State.applyAt_of_noRegion hregion hblock, cellKey_of_isTier htier, hpoison]
  have hone : s.ownerLine a n = (s.num a n, none, 0, (s.found (a / 64)).recache (s.cacheRead none a none)) := by
    rw [State.ownerLine, State.ownerLog_of_isTier htier, hlog, State.readMask, hread]
    rfl
  have hmin : n.min 64 = n := Nat.min_eq_left (by omega)
  have hsingle : n ≤ 64 := by omega
  rw [State.ownerRead, hmin, hone]
  exact if_pos hsingle

/-! ### Messages that leave (18_outside R439) -/

@[simp] theorem State.mem_sendMsg (s : State) (m : Msg) (h : Nat) : (s.sendMsg m h).mem = s.mem := by
  unfold State.sendMsg
  split
  · rfl
  · split <;> rfl

@[simp] theorem State.owner_sendMsg (s : State) (m : Msg) (h : Nat) : (s.sendMsg m h).owner = s.owner := by
  unfold State.sendMsg
  split
  · rfl
  · split <;> rfl

theorem State.inbox_sendMsg (s : State) (m : Msg) (h : Nat) :
    (s.sendMsg m h).inbox = if m.dst = s.pkg then s.inbox ++ [m] else s.inbox := by
  unfold State.sendMsg
  split
  · rfl
  · split <;> rfl

/-- Where a port leads to the package of a message, the message has a port. -/
theorem State.portOf_isSome {s : State} {m : Msg} (h : s.usablePorts m.dst ≠ []) (k : Nat) : ∃ p, s.portOf m k = some p := by
  have hlt : Config.portChoice m.dst k % (s.usablePorts m.dst).length < (s.usablePorts m.dst).length :=
    Nat.mod_lt _ (List.length_pos_iff.mpr h)
  have hnew := List.getElem?_eq_getElem hlt
  unfold State.portOf
  dsimp only
  split
  · split
    · exact ⟨_, rfl⟩
    · exact ⟨_, hnew⟩
  · exact ⟨_, hnew⟩

theorem State.mem_outbox_sendMsg {s : State} {m : Msg} (hdst : m.dst ≠ s.pkg) (h : s.usablePorts m.dst ≠ []) (k : Nat) :
    ∃ p, (p, m) ∈ (s.sendMsg m k).outbox := by
  obtain ⟨p, hp⟩ := State.portOf_isSome h k
  exact ⟨p, by simp [State.sendMsg, hdst, hp]⟩

/-! ### Answers -/

/-- The reply to a message. -/
def State.replyTo (s : State) (x : Msg) (r : RemReply) : Msg :=
  { src := s.pkg, dst := x.src, oinc := s.oinc, rcid := x.rcid, svc := x.svc, op := x.op, serial := x.serial, tc := x.tc,
    body := .reply r }

/-- An answer sends the reply, and counts some of them (15_counters R383). -/
theorem State.answer_eq (s : State) (x : Msg) (r : RemReply) :
    ∃ e, s.answer x r = { s with events := e }.sendMsg (s.replyTo x r) x.op := by
  cases r <;> exact ⟨_, rfl⟩

@[simp] theorem State.mem_answer (s : State) (x : Msg) (r : RemReply) : (s.answer x r).mem = s.mem := by
  obtain ⟨e, he⟩ := s.answer_eq x r
  rw [he, State.mem_sendMsg]

@[simp] theorem State.owner_answer (s : State) (x : Msg) (r : RemReply) : (s.answer x r).owner = s.owner := by
  obtain ⟨e, he⟩ := s.answer_eq x r
  rw [he, State.owner_sendMsg]

theorem State.inbox_answer (s : State) (x : Msg) (r : RemReply) :
    (s.answer x r).inbox = if x.src = s.pkg then s.inbox ++ [s.replyTo x r] else s.inbox := by
  obtain ⟨e, he⟩ := s.answer_eq x r
  rw [he]
  exact State.inbox_sendMsg _ _ _

theorem State.mem_outbox_answer {s : State} {x : Msg} (hsrc : x.src ≠ s.pkg) (h : s.usablePorts x.src ≠ []) (r : RemReply) :
    ∃ p, (p, s.replyTo x r) ∈ (s.answer x r).outbox := by
  obtain ⟨e, he⟩ := s.answer_eq x r
  rw [he]
  exact State.mem_outbox_sendMsg hsrc h _

/-- The message `x`, entry m of the inbox of s, has been taken and answered by `r` in t: the reply is in the inbox where `x` came from
this package, and otherwise in the queue of a port, if one leads to its package. -/
def State.Answered (s t : State) (m : Nat) (x : Msg) (r : RemReply) : Prop :=
  ∃ n : Msg, n.dst = x.src ∧ n.op = x.op ∧ n.serial = x.serial ∧ n.body = .reply r ∧
    (x.src = s.pkg → t.inbox = dropNth s.inbox m ++ [n]) ∧
    (x.src ≠ s.pkg → t.inbox = dropNth s.inbox m ∧ (s.usablePorts x.src ≠ [] → ∃ p, (p, n) ∈ t.outbox))

/-- What an owner does to a message that it has taken before it answers it: memory and what stands before it may change, and the owner
entries; nothing else does. -/
def State.Serves (s u : State) (m : Nat) : Prop :=
  { u with owner := s.owner }.besideMemory = (s.takeMsg m).besideMemory

/-- An answer that follows such work answers the message. -/
theorem State.Serves.answered {s u : State} {m : Nat} (h : s.Serves u m) (x : Msg) (r : RemReply) :
    s.Answered (u.answer x r) m x r := by
  have hinbox : u.inbox = dropNth s.inbox m := (congrArg State.inbox h :)
  have hpkg : u.pkg = s.pkg := (congrArg State.pkg h :)
  have hroutes : u.routes = s.routes := (congrArg State.routes h :)
  have hports : u.ports = s.ports := (congrArg State.ports h :)
  have hopen : u.usablePorts x.src = s.usablePorts x.src := by simp only [State.usablePorts, hroutes, hports]
  refine ⟨u.replyTo x r, rfl, rfl, rfl, rfl, fun hown => ?_, fun hfar => ⟨?_, fun hport => ?_⟩⟩
  · rw [State.inbox_answer, hpkg, if_pos hown, hinbox]
  · rw [State.inbox_answer, hpkg, if_neg hfar, hinbox]
  · exact State.mem_outbox_answer (hpkg ▸ hfar) (hopen ▸ hport) r

/-! ### Owner entries -/

/-- The entry of a serial of the requester of a message. -/
def State.ownEntry (s : State) (x : Msg) (k : OwnKind) (n : Nat) : Option OwnEntry :=
  s.owner.find? fun e => e.kind == k && e.of x && e.serial == n

/-- The entry as the words of O45 look it up. -/
theorem State.ownEntry_eq (s : State) (x : Msg) (k : OwnKind) (n : Nat) :
    s.ownEntry x k n = s.owner.find? fun e => e.kind == k && e.rcid == x.rcid && e.svc == x.svc && e.serial == n := by
  simp only [State.ownEntry, OwnEntry.of, Bool.and_assoc]

theorem OwnEntry.of_iff (e : OwnEntry) (x : Msg) : e.of x = true ↔ e.rcid = x.rcid ∧ e.svc = x.svc := by
  simp [OwnEntry.of]

/-- A FLOOR of the requester of a message is set to the serial `a`; every other entry stays (R268). -/
def OwnEntry.floorAt (x : Msg) (a stamp : Nat) (e : OwnEntry) : OwnEntry :=
  if e.kind == .floor && e.of x then { e with serial := a, stamp := stamp } else e

theorem OwnEntry.floorAt_of_kind_ne {e : OwnEntry} (h : e.kind ≠ .floor) (x : Msg) (a stamp : Nat) :
    e.floorAt x a stamp = e := by
  simp [OwnEntry.floorAt, h]

@[simp] theorem OwnEntry.kind_floorAt (e : OwnEntry) (x : Msg) (a stamp : Nat) : (e.floorAt x a stamp).kind = e.kind := by
  unfold OwnEntry.floorAt
  split <;> rfl

@[simp] theorem OwnEntry.rcid_floorAt (e : OwnEntry) (x : Msg) (a stamp : Nat) : (e.floorAt x a stamp).rcid = e.rcid := by
  unfold OwnEntry.floorAt
  split <;> rfl

/-- Owner entries after an acknowledgement that moves the FLOOR of its requester (R268). -/
def acknowledged (x : Msg) (stamp : Nat) (l : List OwnEntry) : List OwnEntry :=
  (l.filter fun e => !(e.of x && e.kind != .floor && serialLe e.serial x.ackt)).map (OwnEntry.floorAt x x.ackt stamp)

/-- Entries of another kind are found as before the FLOOR was set. -/
theorem find?_map_floorAt {k : OwnKind} (hk : k ≠ .floor) (l : List OwnEntry) (x : Msg) (a stamp n : Nat) :
    (l.map (OwnEntry.floorAt x a stamp)).find? (fun e => e.kind == k && e.of x && e.serial == n) =
      l.find? fun e => e.kind == k && e.of x && e.serial == n := by
  induction l with
  | nil => rfl
  | cons e l ih =>
    rw [List.map_cons, List.find?_cons, List.find?_cons, ih]
    by_cases he : e.kind = k
    · rw [OwnEntry.floorAt_of_kind_ne (he ▸ hk)]
    · simp only [OwnEntry.kind_floorAt, beq_false_of_ne he, Bool.false_and]

/-- An owner none of whose entries is of another incarnation of the package of a message frees none (R268). -/
theorem State.freeStale_of_same {s : State} {x : Msg}
    (h : s.owner.all (fun e => !(rcidPkg e.rcid == rcidPkg x.rcid && rcidInc e.rcid != rcidInc x.rcid)) = true) :
    s.freeStale x = s := by
  rw [State.freeStale, List.filter_eq_self.mpr (List.all_eq_true.mp h)]

/-- The ack steps leave a FLOOR that is at ACKT already where it is, and all other entries (R268). -/
theorem State.ackSteps_of_current {s : State} {x : Msg} {f : OwnEntry} (hfloor : s.floorOf x = some f) (hackt : f.serial = x.ackt) :
    s.ackSteps x = (some x.ackt, { s with owner := s.owner.map (OwnEntry.floorAt x x.ackt s.stamp) }) := by
  simp only [State.ackSteps, hfloor, hackt, bne_self_eq_false, Bool.false_and, Bool.false_eq_true, ↓reduceIte]
  rfl

/-- The ack steps move a FLOOR below ACKT up to it, and free the entries of its requester at or below it (R268). -/
theorem State.ackSteps_of_below {s : State} {x : Msg} {f : OwnEntry} (hfloor : s.floorOf x = some f) (hackt : f.serial ≠ x.ackt)
    (hle : serialLe f.serial x.ackt = true) :
    s.ackSteps x =
      (some x.ackt, { s with owner := acknowledged x s.stamp s.owner }) := by
  simp only [State.ackSteps, hfloor, bne_iff_ne.mpr hackt, hle, Bool.and_self, ↓reduceIte]
  rfl

/-- They are those of other requesters, those of the requester above ACKT, and the FLOOR, which is at ACKT. -/
theorem mem_acknowledged (l : List OwnEntry) (x : Msg) (stamp : Nat) (e : OwnEntry) :
    e ∈ acknowledged x stamp l ↔
      (e ∈ l ∧ ¬ (e.rcid = x.rcid ∧ e.svc = x.svc)) ∨ (e ∈ l ∧ e.kind ≠ .floor ∧ serialLe e.serial x.ackt = false) ∨
        ∃ g ∈ l, g.kind = .floor ∧ g.rcid = x.rcid ∧ g.svc = x.svc ∧ e = { g with serial := x.ackt, stamp := stamp } := by
  simp only [acknowledged, List.mem_map, List.mem_filter, ← OwnEntry.of_iff]
  constructor
  · rintro ⟨g, ⟨hg, hkept⟩, rfl⟩
    by_cases hof : g.of x = true
    · by_cases hfloor : g.kind = .floor
      · obtain ⟨hrcid, hsvc⟩ := (g.of_iff x).mp hof
        exact .inr (.inr ⟨g, hg, hfloor, hrcid, hsvc, by simp [OwnEntry.floorAt, hof, hfloor]⟩)
      · rw [OwnEntry.floorAt_of_kind_ne hfloor]
        exact .inr (.inl ⟨hg, hfloor, by simpa [hof, hfloor] using hkept⟩)
    · have hsame : g.floorAt x x.ackt stamp = g := by simp [OwnEntry.floorAt, hof]
      exact .inl (by rw [hsame]; exact ⟨hg, hof⟩)
  · rintro (⟨he, hof⟩ | ⟨he, hkind, habove⟩ | ⟨g, hg, hkind, hrcid, hsvc, rfl⟩)
    · exact ⟨e, ⟨he, by simp [hof]⟩, by simp [OwnEntry.floorAt, hof]⟩
    · exact ⟨e, ⟨he, by simp [habove]⟩, OwnEntry.floorAt_of_kind_ne hkind x x.ackt stamp⟩
    · have hof : g.of x = true := (g.of_iff x).mpr ⟨hrcid, hsvc⟩
      exact ⟨g, ⟨hg, by simp [hkind]⟩, by simp [OwnEntry.floorAt, hof, hkind]⟩

theorem msgOld_of_young {x : Msg} (h : x.age ≤ 1500000) : msgOld x = false := decide_eq_false (Nat.not_lt.mpr h)

/-! ### Serial-class requests -/

/-- An entry is added (R267). -/
def State.keep (s : State) (e : OwnEntry) : State := { s with owner := s.owner ++ [e] }

theorem State.Serves.keep {s u : State} {m : Nat} (h : s.Serves u m) (e : OwnEntry) : s.Serves (u.keep e) m := h

/-- Entry m of the inbox is a serial-class request `b` under the serial n that the owner takes up: it is not behind another for its line,
not too old, and for the present incarnation; no entry of another incarnation of its package stands (R257, R268). -/
structure State.TakesUp (s : State) (m : Nat) (x : Msg) (b : RemBody) (n : Nat) : Prop where
  entry : s.inbox[m]? = some x
  body : x.body = .request b
  serial : x.serial = some n
  first : s.lineFirst m b = false
  young : x.age ≤ 1500000
  inc : x.oinc = s.oinc
  same : s.owner.all (fun e => !(rcidPkg e.rcid == rcidPkg x.rcid && rcidInc e.rcid != rcidInc x.rcid)) = true

/-- The message `x`, entry m of the inbox, has been taken and has found the FLOOR of its requester at its ACKT. -/
def State.tookCurrent (s : State) (m : Nat) (x : Msg) : State :=
  { s.takeMsg m with owner := s.owner.map (OwnEntry.floorAt x x.ackt s.stamp) }

theorem State.serves_tookCurrent (s : State) (m : Nat) (x : Msg) : s.Serves (s.tookCurrent m x) m := rfl

theorem State.find?_tookCurrent {k : OwnKind} (hk : k ≠ .floor) (s : State) (m : Nat) (x : Msg) (n : Nat) :
    (s.tookCurrent m x).owner.find? (fun e => e.kind == k && e.of x && e.serial == n) = s.ownEntry x k n :=
  find?_map_floorAt hk s.owner x x.ackt s.stamp n

theorem State.ownerFree_tookCurrent (s : State) (m : Nat) (x : Msg) (rcid : Nat) :
    (s.tookCurrent m x).ownerFree rcid = s.ownerFree rcid := by
  have hlength : ((s.tookCurrent m x).owner.filter fun e => ownerSlice e.rcid == ownerSlice rcid).length =
      (s.owner.filter fun e => ownerSlice e.rcid == ownerSlice rcid).length := by
    simp [State.tookCurrent, List.filter_map, Function.comp_def]
  simp only [State.ownerFree, hlength]

section
variable {s : State} {m n : Nat} {x : Msg} {b : RemBody} {f : OwnEntry} (h : s.TakesUp m x b n) (hfloor : s.floorOf x = some f)
  (hackt : f.serial = x.ackt)
include h hfloor hackt

theorem State.TakesUp.ackSteps : ((s.takeMsg m).freeStale x).ackSteps x = (some x.ackt, s.tookCurrent m x) := by
  rw [State.freeStale_of_same (s := s.takeMsg m) h.same]
  exact State.ackSteps_of_current (s := s.takeMsg m) hfloor hackt

variable (habove : serialLe n f.serial = false)
include habove

/-- A serial that has executed is answered from its entry (R268). -/
theorem exec_ownerSerialRequest_of_result {e : OwnEntry} (hresult : s.ownEntry x .result n = some e) :
    exec (.ownerSerialRequest m) s = .next ((s.tookCurrent m x).answer x (.value e.result e.poison)) := by
  have hfresh : ¬ x.oinc ≠ (s.takeMsg m).oinc := fun hne => hne h.inc
  have hserial : serialLe n x.ackt = false := hackt ▸ habove
  have hhit := (s.find?_tookCurrent (k := .result) (by decide) m x n).trans hresult
  change execOwnerSerialRequest m s = _
  simp only [execOwnerSerialRequest, h.entry, h.body, h.serial, h.first, msgOld_of_young h.young, hfresh,
    h.ackSteps hfloor hackt, hserial, hhit, Bool.false_eq_true, ↓reduceIte]

/-- A serial above the FLOOR that has no entry executes, and its result is kept and answered (R268). -/
theorem exec_ownerSerialRequest_of_new (hvoid : s.ownEntry x .void n = none) (hresult : s.ownEntry x .result n = none)
    (hfree : s.ownerFree x.rcid = true) {v k : Nat} {p : Option Nat} {t : State}
    (hexec : (s.tookCurrent m x).ownerExec b = (v, p, k, t)) :
    exec (.ownerSerialRequest m) s = .next
      ((t.keep { kind := .result, op := k, rcid := x.rcid, svc := x.svc, serial := n, result := v, poison := p }).answer x
        (.value v p)) := by
  have hfresh : ¬ x.oinc ≠ (s.takeMsg m).oinc := fun hne => hne h.inc
  have hserial : serialLe n x.ackt = false := hackt ▸ habove
  have hresult' := (s.find?_tookCurrent (k := .result) (by decide) m x n).trans hresult
  have hvoid' := (s.find?_tookCurrent (k := .void) (by decide) m x n).trans hvoid
  have hfree' := (s.ownerFree_tookCurrent m x x.rcid).trans hfree
  change execOwnerSerialRequest m s = _
  simp only [execOwnerSerialRequest, h.entry, h.body, h.serial, h.first, msgOld_of_young h.young, hfresh,
    h.ackSteps hfloor hackt, hserial, hresult', hvoid', hfree', hexec, State.keep, Option.isSome_none, Bool.not_true,
    Bool.false_eq_true, ↓reduceIte]

end

/-! ### What a message does at its owner, as its answer sees it -/

theorem State.Serves.rawWrite {s u : State} {m : Nat} (h : s.Serves u m) (k n v : Nat) (t : Option KeyTag) (y : By) :
    s.Serves (u.rawWrite k n v t y) m :=
  (congrArg (fun w : State => { w with owner := s.owner }) (u.besideMemory_rawWrite k n v t y) :).trans h

theorem State.Serves.lineRead {s u : State} {m : Nat} (h : s.Serves u m) (l : Nat) (c : Caches) :
    s.Serves ((u.found l).recache c) m := h

/-- The bytes after a write of one element (01_machine R6). -/
theorem State.stored_rawWrite (s : State) (k n v : Nat) (t : Option KeyTag) (y : By) : Stored s (s.rawWrite k n v t y) k n v := by
  refine ⟨fun j hj => ?_, fun z hz => ?_⟩
  · rw [State.byte_rawWrite, if_pos ⟨Nat.le_add_right k j, Nat.add_lt_add_left hj k⟩, Nat.add_sub_cancel_left]
  · rw [State.byte_rawWrite, if_neg (by omega)]

theorem Stored.keep {w t : State} {k n v : Nat} (h : Stored w t k n v) (e : OwnEntry) : Stored w (t.keep e) k n v := h

theorem Stored.answer {w t : State} {k n v : Nat} (h : Stored w t k n v) (x : Msg) (r : RemReply) : Stored w (t.answer x r) k n v := by
  simpa only [Stored, State.byte, State.mem_answer] using h

/-! ### Acknowledgements, queries, reads and the end of a FLOOR -/

/-- The ack steps are all that an owner makes of an acknowledgement (R263, R268). -/
theorem exec_ownerAckMessage_of_below {s : State} {m : Nat} {x : Msg} {f : OwnEntry} (hx : s.inbox[m]? = some x)
    (hbody : x.body = .ack) (hyoung : x.age ≤ 1500000) (hinc : x.oinc = s.oinc)
    (hsame : s.owner.all (fun e => !(rcidPkg e.rcid == rcidPkg x.rcid && rcidInc e.rcid != rcidInc x.rcid)) = true)
    (hfloor : s.floorOf x = some f) (hackt : f.serial ≠ x.ackt) (hle : serialLe f.serial x.ackt = true) :
    exec (.ownerAckMessage m) s = .next { s.takeMsg m with owner := acknowledged x s.stamp s.owner } := by
  have hfresh : (x.oinc != (s.takeMsg m).oinc) = false := bne_eq_false_iff_eq.mpr hinc
  have hsteps := State.ackSteps_of_below (s := s.takeMsg m) hfloor hackt hle
  change execOwnerAckMessage m s = _
  simp only [execOwnerAckMessage, hx, hbody, msgOld_of_young hyoung, hfresh, Bool.or_self, Bool.false_eq_true, ↓reduceIte,
    State.freeStale_of_same (s := s.takeMsg m) hsame, hsteps]
  rfl

section
variable {s : State} {m n : Nat} {x : Msg} (hx : s.inbox[m]? = some x) (hbody : x.body = .request (.rqry n))
  (hyoung : x.age ≤ 1500000) (hinc : x.oinc = s.oinc)
include hx hbody hyoung hinc

/-- RQRY of a serial that has executed is answered with its result (R274). -/
theorem exec_ownerRqry_of_result {e : OwnEntry} (hresult : s.ownEntry x .result n = some e) :
    exec (.ownerRqry m) s = .next ((s.takeMsg m).answer x (.rqry 1 e.result e.poison)) := by
  have hfresh : ¬ x.oinc ≠ (s.takeMsg m).oinc := fun hne => hne hinc
  have hhit : (s.takeMsg m).owner.find? (fun e => e.kind == .result && e.of x && e.serial == n) = some e := hresult
  change execOwnerRqry m s = _
  simp only [execOwnerRqry, hx, hbody, msgOld_of_young hyoung, hfresh, hhit, Bool.false_eq_true, ↓reduceIte]

/-- RQRY of a serial that is VOID finds it so (R274). -/
theorem exec_ownerRqry_of_void (hresult : s.ownEntry x .result n = none) (hvoid : (s.ownEntry x .void n).isSome = true) :
    exec (.ownerRqry m) s = .next ((s.takeMsg m).answer x (.rqry 0 0 none)) := by
  have hfresh : ¬ x.oinc ≠ (s.takeMsg m).oinc := fun hne => hne hinc
  have hhit : (s.takeMsg m).owner.find? (fun e => e.kind == .result && e.of x && e.serial == n) = none := hresult
  have hhit' : ((s.takeMsg m).owner.find? fun e => e.kind == .void && e.of x && e.serial == n).isSome = true := hvoid
  change execOwnerRqry m s = _
  simp only [execOwnerRqry, hx, hbody, msgOld_of_young hyoung, hfresh, hhit, hhit', Bool.false_eq_true, ↓reduceIte]

/-- RQRY of a serial that has no entry, of a requester without a FLOOR, makes it VOID (R274). -/
theorem exec_ownerRqry_of_new (hresult : s.ownEntry x .result n = none) (hvoid : s.ownEntry x .void n = none)
    (hfloor : s.floorOf x = none) (hfree : s.ownerFree x.rcid = true) :
    exec (.ownerRqry m) s = .next
      (((s.takeMsg m).keep { kind := .void, op := 9, rcid := x.rcid, svc := x.svc, serial := n }).answer x (.rqry 0 0 none)) := by
  have hfresh : ¬ x.oinc ≠ (s.takeMsg m).oinc := fun hne => hne hinc
  have hhit : (s.takeMsg m).owner.find? (fun e => e.kind == .result && e.of x && e.serial == n) = none := hresult
  have hhit' : (s.takeMsg m).owner.find? (fun e => e.kind == .void && e.of x && e.serial == n) = none := hvoid
  have hnofloor : (s.takeMsg m).floorOf x = none := hfloor
  have hfree' : (s.takeMsg m).ownerFree x.rcid = true := hfree
  change execOwnerRqry m s = _
  simp only [execOwnerRqry, hx, hbody, msgOld_of_young hyoung, hfresh, hhit, hhit', hnofloor, hfree', State.keep,
    Option.isSome_none, Bool.not_true, Bool.false_eq_true, ↓reduceIte]

end

/-- A read is served whatever incarnation it carries, and without an entry (R257, R268). -/
theorem exec_ownerReadRequest_of_read {s t : State} {m a n v k : Nat} {p : Option Nat} {x : Msg} (hx : s.inbox[m]? = some x)
    (hbody : x.body = .request (.read a n)) (hfirst : s.lineFirst m (.read a n) = false) (hyoung : x.age ≤ 1500000)
    (hread : (s.takeMsg m).ownerRead a n = (v, p, k, t)) :
    exec (.ownerReadRequest m) s = .next (t.answer x (.value v p k)) := by
  change execOwnerReadRequest m s = _
  simp only [execOwnerReadRequest, hx, hbody, hfirst, msgOld_of_young hyoung, hread, Bool.false_eq_true, ↓reduceIte]

/-- A FLOOR that stands alone expires (R267). -/
theorem exec_floorExpire_of_alone {s : State} {n : Nat} {f : OwnEntry} (hf : s.owner[n]? = some f) (hkind : f.kind = .floor)
    (hage : 1500 ≤ (s.stamp + 2 ^ 32 - f.stamp) % 2 ^ 32)
    (halone : s.owner.any (fun e => e.kind != .floor && e.rcid == f.rcid && e.svc == f.svc) = false) :
    exec (.floorExpire n) s = .next { s with owner := dropNth s.owner n } := by
  change execFloorExpire n s = _
  simp only [execFloorExpire, hf, hkind, hage, halone, beq_self_eq_true, decide_true, Bool.not_false, Bool.and_self, ↓reduceIte]

/-- Settles O45: each event of the owner is what it does once its guard holds, and the message that it has taken is answered. -/
theorem ownerOfRemoteLines : Obligations.OwnerOfRemoteLines := by
  unfold Obligations.OwnerOfRemoteLines
  intro s m x kinds fresh reply same hx
  have hkinds (k : OwnKind) (n : Nat) : kinds k n = s.ownEntry x k n := (s.ownEntry_eq x k n).symm
  have hserves : s.Serves (s.takeMsg m) m := rfl
  refine ⟨?serial, ?ack, ?rqry, ?read, ?expire⟩
  case serial =>
    intro f n a v key kind hbody hserial hlog hfirst ⟨hyoung, hinc⟩ hsame hfloor hackt habove hvoid htier hregion halign
    have h : s.TakesUp m x (.write a 8 v key kind) n := ⟨hx, hbody, hserial, hfirst, hyoung, hinc, hsame⟩
    simp only [hkinds] at hvoid ⊢
    refine ⟨fun hresult hfree => ?_, fun e hresult => ?_⟩
    · have hwrite := State.ownerExec_write (s := s.tookCurrent m x) (n := 8) htier hlog hregion (by omega) v key kind
      refine ⟨_, exec_ownerSerialRequest_of_new h hfloor hackt habove hvoid hresult hfree hwrite, ?_, ?_,
        (((s.serves_tookCurrent m x).rawWrite ..).keep _).answered x _⟩
      · exact (((s.tookCurrent m x).stored_rawWrite a 8 v _ _).keep _).answer x _
      · rw [State.owner_answer]
        exact List.mem_append_right _ (List.mem_singleton_self _)
    · refine ⟨_, exec_ownerSerialRequest_of_result h hfloor hackt habove hresult, fun k => ?_,
        (s.serves_tookCurrent m x).answered x _⟩
      rw [State.byte, State.mem_answer]
      rfl
  case ack =>
    intro f hbody ⟨hyoung, hinc⟩ hsame hfloor hackt hle
    exact ⟨_, exec_ownerAckMessage_of_below hx hbody hyoung hinc hsame hfloor hackt hle, rfl, fun _ => rfl,
      mem_acknowledged s.owner x s.stamp⟩
  case rqry =>
    intro n hbody ⟨hyoung, hinc⟩
    simp only [hkinds]
    refine ⟨fun e hresult => ?_, fun hresult hvoid => ?_, fun hresult hvoid hfloor hfree => ?_⟩
    · exact ⟨_, exec_ownerRqry_of_result hx hbody hyoung hinc hresult, State.owner_answer _ _ _, hserves.answered x _⟩
    · exact ⟨_, exec_ownerRqry_of_void hx hbody hyoung hinc hresult hvoid, State.owner_answer _ _ _, hserves.answered x _⟩
    · exact ⟨_, exec_ownerRqry_of_new hx hbody hyoung hinc hresult hvoid hfloor hfree, (hserves.keep _).answered x _,
        State.owner_answer _ _ _⟩
  case read =>
    intro a n hbody hfirst hyoung htier hlog hline hn hregion hpoison
    have hread := State.ownerRead_of_unpoisoned (s := s.takeMsg m) htier hlog hregion hline hn hpoison
    refine ⟨_, exec_ownerReadRequest_of_read hx hbody hfirst hyoung hread, ?_, ?_, ?_⟩
    · rw [State.mem_answer]
      rfl
    · rw [State.owner_answer]
      rfl
    · exact (hserves.lineRead _ _).answered x _
  case expire =>
    intro n f hf hkind hage halone
    exact ⟨_, exec_floorExpire_of_alone hf hkind hage halone, rfl, rfl⟩

end Sys2Proof.Machine
end

-- The requester that a reply names (11_remote R257; 04_registers R95), and the refutation of O44.
section
namespace Sys2Proof.Machine

/-- A reply that does not name the requester of its operation matches none: it is taken and ignored (R257). -/
theorem exec_remoteReply_of_not_names {s : State} {m : Nat} {x : Msg} {r : RemReply} {o : RemOp} (hx : s.inbox[m]? = some x)
    (hbody : x.body = .reply r) (hop : s.rop x.op = some o) (hnames : s.names x o = false) :
    exec (.remoteReply m) s = .next (s.takeMsg m) := by
  have hop' : (s.takeMsg m).rop x.op = some o := hop
  have hnames' : (s.takeMsg m).names x o = false := hnames
  change execRemoteReply m s = _
  simp only [execRemoteReply, hx, hbody, hop', hnames', Bool.not_false, or_true, ↓reduceIte]

/-- A read of eight bytes of package 5 by bank 0, for its register g2. -/
def readOfBankZero : RemOp := { who := 0, pkg := 5, lines := [1], dsts := [.g 2 8 false], body := .read 0x40 8 }

/-- A reply to it from package 5 that carries the RCID of bank 1. -/
def replyToBankOne : Msg := { src := 5, rcid := 1, op := 1, body := .reply (.value 7 none) }

/-- The state after reset in which that read is outstanding and that reply has come. -/
def misnamedReply : State := { State.reset with rops := [(1, some readOfBankZero)], nextOp := 2, inbox := [replyToBankOne] }

/-- RCHAN of bank 0 is 0 (R95), so the reply does not name it. -/
theorem misnamedReply_not_names : misnamedReply.names replyToBankOne readOfBankZero = false := by decide

/-- Refutes O44: its clause on replies does not suppose that the reply names the requester of the operation, by RCID and SVC. The
model ignores one of another RCID, as it matches no outstanding operation (R257), and the operation still awaits its reply. -/
theorem not_remoteOperations : ¬ Obligations.RemoteOperations := by
  unfold Obligations.RemoteOperations
  intro h
  have hop : misnamedReply.rop replyToBankOne.op = some readOfBankZero := rfl
  obtain ⟨-, hreply, -⟩ := h misnamedReply 0 0 0 0 replyToBankOne readOfBankZero
  obtain ⟨t, hexec, hended, -⟩ := hreply 7 2 8 0 rfl rfl hop rfl rfl rfl (.inl rfl) rfl (fun _ hquery => nomatch hquery) rfl rfl rfl
    (by decide) rfl rfl
  obtain rfl := Host.Outcome.next.inj
    ((exec_remoteReply_of_not_names rfl rfl hop misnamedReply_not_names).symm.trans hexec)
  exact absurd (hended.symm.trans hop) (by decide)

end Sys2Proof.Machine
end
